-- ==== Sys2Proof/Word.lean ====
section
/-! DEFINITION. The word types of the OM-TH1 and the register numbers of its sequencer (spec 00 R5, 02 R12, 08 R172). -/

namespace Sys2Proof

/-- A byte of the floor. -/
abbrev Byte := BitVec 8

/-- A lane word: 36 bits without a tag (R11). -/
abbrev Lane := BitVec 36

/-- A sequencer register (R172). -/
abbrev Word := BitVec 64

/-- A 32-bit stage word, handler word or sequencer instruction word. -/
abbrev Code := BitVec 32

/-- The number of a sequencer register, s0 to s31. -/
abbrev Reg := BitVec 5

/-- The number of a predicate, p0 to p7. -/
abbrev Pred := BitVec 3

end Sys2Proof
end

