-- ==== Sys2Proof/Syntax.lean ====
section
/-! DEFINITION. The ONE instruction type: one constructor for each row of spec/opcode_table.json. The table lists three kinds of
row: stage words (32-bit words H1 to H6 of a handler record, 03 R43), sequencer words (32-bit words of a block, 08 R178, 09 R217)
and events, which have no word and name the unit they concern (95). -/

namespace Sys2Proof

/-- Every field of a stage word but OP (R43). All of them are kept, so that the fallbacks of R58 and R116 see what a word holds. -/
structure StageFields where
  /-- first, second and third operand code (R44) -/
  a : BitVec 5
  b : BitVec 5
  c : BitVec 5
  /-- rounding, saturation, condition or kind (R46) -/
  mod : BitVec 3
  /-- lantern bit (R48) -/
  lant : BitVec 1
  /-- destination (R45) -/
  dst : BitVec 3
  /-- opcode-dependent field (R47) -/
  aux : BitVec 4
  deriving DecidableEq, Repr

/-- The opcodes that execute as `nop`: OP 0x00, and the reserved 0x3E and 0x3F (R49, R58). -/
inductive StageNopOp where
  | plain
  | reserved3E
  | reserved3F
  deriving DecidableEq, Repr

/-- The sequencer words that do nothing: `nop`, and a reserved FN of a group, which also sets RSVF (R215, R255). -/
inductive SeqNopKind where
  | plain
  | reservedFn (op : BitVec 6) (rest : BitVec 23)
  deriving DecidableEq, Repr

/-- A mesh direction of a router (R128), or of a die-network node (R298). -/
inductive Dir where
  | north | east | south | west
  deriving DecidableEq, Repr

/-- A link: between two routers, named by the receiving core and the side the beat comes from (R130), or between two die-network
nodes, named by the receiving cluster of a die and the side (R298). -/
inductive LinkId where
  | fabric (core : Nat) (side : Dir)
  | dieNet (cluster : Nat) (side : Dir)
  deriving DecidableEq, Repr

/-- What a packet from the peer brings: bytes of a one-sided write, of a send, or of the answer to a read (R366). -/
inductive NetKind where
  | write | send | readReply
  deriving DecidableEq, Repr

/-- A packet that arrives from the peer module of a connection (R366): the handle it came on, what it carries and its place. -/
structure NetPacket where
  /-- local handle of the connection -/
  handle : Nat
  /-- message number on the connection -/
  msg : Nat
  kind : NetKind
  /-- address of the first byte of the packet in the published buffer (writes), offset in the ring slot (sends), or offset in the range that is
  read (answers) -/
  addr : Nat
  /-- address of the first byte of the whole message (writes) -/
  base : Nat
  bytes : List Byte
  /-- length of the whole message, its tag, and whether it asks for a remote completion record -/
  len : Nat
  tag : Nat
  rc : Bool
  deriving DecidableEq, Repr


/-- An acknowledgement of one packet (R373): message and packet on the connection, whether the packet answers a read of the peer, whether it was marked with ECN, whether the peer refuses it
for lack of a slot or of window room, and what only the controls know: the NSCC window, the RCCC credit, the round-trip time, and the paths in
service where a port is out of service. -/
structure NetAck where
  msg : Nat
  packet : Nat
  answer : Bool
  ecn : Bool
  refused : Bool
  window : Word
  credit : Word
  rtt : Word
  paths : Nat
  deriving DecidableEq, Repr

/-- How many bytes a read of the peer names, and where they go at the peer, which tells how the answer breaks into packets (R374). -/
structure ReadSpan where
  len : Nat
  dest : Nat
  deriving DecidableEq, Repr

/-- A connection that may have failed: its peer's endpoint is gone, or a packet may have gone unacknowledged too long (R371). -/
structure ConnFailure where
  handle : Nat
  peerGone : Bool
  deriving DecidableEq, Repr

/-- The replay of a frame on an Ethernet link, which gets through or fails (R361). -/
structure FrameReplay where
  port : Fin 16
  ok : Bool
  deriving DecidableEq, Repr

/-- The fields that every atomic has beside its registers (R178): size, acquire, release and scope. -/
structure AmoFields where
  sz : BitVec 1
  aq : BitVec 1
  rl : BitVec 1
  scope : BitVec 4
  deriving DecidableEq, Repr

/-- The instructions and events of spec/opcode_table.json. In a sequencer word g is the guard predicate (R180), and x says whether
a field that R178 or R217 marks 0 was not 0 (such a field is ignored and sets MBZ, R215, R255). An event names the unit it concerns:
a core by its global number (R6), a sequencer by die, cluster y and cluster x in bits 11:8, 7:4 and 3:0 (R174). -/
inductive Instr where
  /-- R134. -/
  | firingIssue (core : Nat)
  /-- R41. -/
  | firingComplete (core : Nat)
  /-- R50. -/
  | stageNop (op : StageNopOp) (f : StageFields)
  /-- R115. -/
  | stageStop (f : StageFields)
  /-- R78. -/
  | stageMov (f : StageFields)
  /-- R78. -/
  | stageSel (f : StageFields)
  /-- R72. -/
  | iadd (f : StageFields)
  /-- R72. -/
  | isub (f : StageFields)
  /-- R72. -/
  | imul (f : StageFields)
  /-- R72. -/
  | imad (f : StageFields)
  /-- R73. -/
  | iand (f : StageFields)
  /-- R73. -/
  | ior (f : StageFields)
  /-- R73. -/
  | ixor (f : StageFields)
  /-- R73. -/
  | iandn (f : StageFields)
  /-- R74. -/
  | ishl (f : StageFields)
  /-- R74. -/
  | ishr (f : StageFields)
  /-- R74. -/
  | isra (f : StageFields)
  /-- R76. -/
  | icmp (f : StageFields)
  /-- R75. -/
  | imin (f : StageFields)
  /-- R75. -/
  | imax (f : StageFields)
  /-- R77. -/
  | ipopc (f : StageFields)
  /-- R77. -/
  | iclz (f : StageFields)
  /-- R62. -/
  | fadd (f : StageFields)
  /-- R62. -/
  | fsub (f : StageFields)
  /-- R62. -/
  | fmul (f : StageFields)
  /-- R62. -/
  | fma (f : StageFields)
  /-- R62. -/
  | fms (f : StageFields)
  /-- R64. -/
  | fmax (f : StageFields)
  /-- R64. -/
  | fmin (f : StageFields)
  /-- R65. -/
  | fabs (f : StageFields)
  /-- R65. -/
  | fneg (f : StageFields)
  /-- R66. -/
  | fcmp (f : StageFields)
  /-- R67. -/
  | fclass (f : StageFields)
  /-- R68. -/
  | frnd (f : StageFields)
  /-- R24. -/
  | frcp (f : StageFields)
  /-- R24. -/
  | frsq (f : StageFields)
  /-- R25. -/
  | fexp2 (f : StageFields)
  /-- R26. -/
  | flog2 (f : StageFields)
  /-- R63. -/
  | fscale (f : StageFields)
  /-- R70. -/
  | cvtFi (f : StageFields)
  /-- R71. -/
  | cvtIf (f : StageFields)
  /-- R84. -/
  | acc (f : StageFields)
  /-- R86. -/
  | fmab (f : StageFields)
  /-- R85. -/
  | dot (f : StageFields)
  /-- R87. -/
  | rmax (f : StageFields)
  /-- R87. -/
  | rmin (f : StageFields)
  /-- R87. -/
  | ramax (f : StageFields)
  /-- R97. -/
  | steer (f : StageFields)
  /-- R98. -/
  | merge (f : StageFields)
  /-- R101. -/
  | join (f : StageFields)
  /-- R104. -/
  | cmpx (f : StageFields)
  /-- R105. -/
  | cpr (f : StageFields)
  /-- R106. -/
  | stageMark (f : StageFields)
  /-- R106. -/
  | strip (f : StageFields)
  /-- R106. -/
  | gate (f : StageFields)
  /-- R107. -/
  | cnt (f : StageFields)
  /-- R108. -/
  | bcast (f : StageFields)
  /-- R108. -/
  | shuf (f : StageFields)
  /-- R108. -/
  | pack (f : StageFields)
  /-- R108. -/
  | unpack (f : StageFields)
  /-- R110. -/
  | wupd (f : StageFields)
  /-- R112. -/
  | wfill (f : StageFields)
  /-- R113. -/
  | shrink (f : StageFields)
  /-- R114. -/
  | wcnt (f : StageFields)
  /-- R130. -/
  | routerForward (core : Nat) (sel : BitVec 4) (link : BitVec 4)
  /-- R124. -/
  | linkFill (core : Nat) (sel : BitVec 4) (link : BitVec 4)
  /-- R120. -/
  | storeSoftError (core : Nat) (addr : Nat) (uncorrectable : Bool)
  /-- R137. -/
  | coreWindowCommandApply (core : Nat) (seq : Nat)
  /-- R141. -/
  | hmsetWrite (core : Nat) (seq : Nat)
  /-- R141. -/
  | hmclrWrite (core : Nat) (seq : Nat)
  /-- R266. -/
  | loopGuardWrite (core : Nat) (seq : Nat)
  /-- R139. -/
  | coreRegisterWrite (core : Nat) (seq : Nat)
  /-- R300. -/
  | linkReplay (link : LinkId)
  /-- R300. -/
  | uncorrectableLinkError (link : LinkId)
  /-- R284. -/
  | echoProbeSend (core : Nat)
  /-- R284. -/
  | echoProbeHop (probe : Nat)
  /-- R150. -/
  | edgeLoadBeat (core : Nat) (slot : Fin 4)
  /-- R150. -/
  | edgeStoreElement (core : Nat) (slot : Fin 4)
  /-- R162. -/
  | quantisingStoreBlock (core : Nat) (slot : Fin 4)
  /-- R152. -/
  | indexTokenTake (core : Nat) (slot : Fin 4)
  /-- R154. -/
  | permitTake (core : Nat) (slot : Fin 4)
  /-- R169. -/
  | acquireTake (core : Nat) (slot : Fin 4)
  /-- R168. -/
  | completionToken (core : Nat) (slot : Fin 4)
  /-- R312. -/
  | translationToken (core : Nat) (slot : Fin 4)
  /-- R318. -/
  | eraseElement (core : Nat) (slot : Fin 4)
  /-- R268. -/
  | edgeRetry (core : Nat) (slot : Fin 4)
  /-- R269. -/
  | withholdLimit (core : Nat) (slot : Fin 4)
  /-- R269. -/
  | checkpointSave (region : Nat) (grotto : Nat)
  /-- R271. -/
  | thaw (region : Nat)
  /-- R182. -/
  | blockIssue (seq : Nat)
  /-- R183. -/
  | blockCommit (seq : Nat)
  /-- R189. -/
  | asyncTrapTake (seq : Nat)
  /-- R183. -/
  | replyResult (seq : Nat) (index : Nat)
  /-- R186. -/
  | wfeWake (seq : Nat)
  /-- R186. -/
  | yieldExpiry (seq : Nat)
  /-- R177. -/
  | seqWindowFill (seq : Nat) (index : Nat)
  /-- R262. -/
  | eventRecordDeliver (seq : Nat)
  /-- R246. -/
  | stealApply (seq : Nat) (index : Nat)
  /-- R186. -/
  | seqNop (kind : SeqNopKind) (x : Bool) (g : Pred)
  /-- R186. -/
  | halt (x : Bool) (g : Pred)
  /-- R186. -/
  | wfe (x : Bool) (g : Pred)
  /-- R186. -/
  | yield (x : Bool) (g : Pred)
  /-- R186. -/
  | ret (a : Reg) (x : Bool) (g : Pred)
  /-- R186. -/
  | eret (x : Bool) (g : Pred)
  /-- R186. -/
  | trap (code : BitVec 15) (x : Bool) (g : Pred)
  /-- R185. -/
  | exitr (a : Reg) (x : Bool) (g : Pred)
  /-- R185. -/
  | exitWord (off : BitVec 23) (g : Pred)
  /-- R186. -/
  | call (d : Reg) (imm : BitVec 18) (g : Pred)
  /-- R191. -/
  | add (d a b : Reg) (x : Bool) (g : Pred)
  /-- R191. -/
  | sub (d a b : Reg) (x : Bool) (g : Pred)
  /-- R191. -/
  | mul (d a b : Reg) (x : Bool) (g : Pred)
  /-- R191. -/
  | mulh (d a b : Reg) (x : Bool) (g : Pred)
  /-- R191. -/
  | mulhu (d a b : Reg) (x : Bool) (g : Pred)
  /-- R192. -/
  | div (d a b : Reg) (x : Bool) (g : Pred)
  /-- R192. -/
  | divu (d a b : Reg) (x : Bool) (g : Pred)
  /-- R192. -/
  | rem (d a b : Reg) (x : Bool) (g : Pred)
  /-- R192. -/
  | remu (d a b : Reg) (x : Bool) (g : Pred)
  /-- R191. -/
  | andW (d a b : Reg) (x : Bool) (g : Pred)
  /-- R191. -/
  | orW (d a b : Reg) (x : Bool) (g : Pred)
  /-- R191. -/
  | xorW (d a b : Reg) (x : Bool) (g : Pred)
  /-- R191. -/
  | shl (d a b : Reg) (x : Bool) (g : Pred)
  /-- R191. -/
  | shr (d a b : Reg) (x : Bool) (g : Pred)
  /-- R191. -/
  | sra (d a b : Reg) (x : Bool) (g : Pred)
  /-- R191. -/
  | minW (d a b : Reg) (x : Bool) (g : Pred)
  /-- R191. -/
  | maxW (d a b : Reg) (x : Bool) (g : Pred)
  /-- R191. -/
  | minu (d a b : Reg) (x : Bool) (g : Pred)
  /-- R191. -/
  | maxu (d a b : Reg) (x : Bool) (g : Pred)
  /-- R191. -/
  | clz (d a b : Reg) (x : Bool) (g : Pred)
  /-- R191. -/
  | ctz (d a b : Reg) (x : Bool) (g : Pred)
  /-- R191. -/
  | popc (d a b : Reg) (x : Bool) (g : Pred)
  /-- R191. -/
  | seqSel (d a b : Reg) (p : Pred) (g : Pred)
  /-- R193. -/
  | addi (d a : Reg) (imm : BitVec 13) (g : Pred)
  /-- R193. -/
  | andi (d a : Reg) (imm : BitVec 13) (g : Pred)
  /-- R193. -/
  | ori (d a : Reg) (imm : BitVec 13) (g : Pred)
  /-- R193. -/
  | xori (d a : Reg) (imm : BitVec 13) (g : Pred)
  /-- R193. -/
  | shli (d a : Reg) (imm : BitVec 6) (x : Bool) (g : Pred)
  /-- R193. -/
  | shri (d a : Reg) (imm : BitVec 6) (x : Bool) (g : Pred)
  /-- R193. -/
  | srai (d a : Reg) (imm : BitVec 6) (x : Bool) (g : Pred)
  /-- R194. -/
  | li (d : Reg) (imm : BitVec 18) (g : Pred)
  /-- R194. -/
  | lui (d : Reg) (h : BitVec 2) (imm : BitVec 16) (g : Pred)
  /-- R194. -/
  | lea (d : Reg) (imm : BitVec 18) (g : Pred)
  /-- R195. -/
  | cmp (p : Pred) (a b : Reg) (cond : BitVec 3) (x : Bool) (g : Pred)
  /-- R196. -/
  | pand (p a b : Pred) (x : Bool) (g : Pred)
  /-- R196. -/
  | por (p a b : Pred) (x : Bool) (g : Pred)
  /-- R196. -/
  | pnot (p a : Pred) (x : Bool) (g : Pred)
  /-- R197. -/
  | widGet (d a : Reg) (f : BitVec 3) (x : Bool) (g : Pred)
  /-- R197. -/
  | widSet (d a : Reg) (f : BitVec 3) (x : Bool) (g : Pred)
  /-- R199. -/
  | ld (d a : Reg) (w : BitVec 2) (u : BitVec 1) (off : BitVec 10) (g : Pred)
  /-- R199. -/
  | st (d a : Reg) (w : BitVec 2) (u : BitVec 1) (off : BitVec 10) (g : Pred)
  /-- R201. -/
  | ldx (d a : Reg) (w : BitVec 2) (u : BitVec 1) (p : Pred) (off : BitVec 7) (g : Pred)
  /-- R202. -/
  | verase (a : Reg) (x : Bool) (g : Pred)
  /-- R204. -/
  | amoAdd (d a b : Reg) (f : AmoFields) (x : Bool) (g : Pred)
  /-- R204. -/
  | amoAnd (d a b : Reg) (f : AmoFields) (x : Bool) (g : Pred)
  /-- R204. -/
  | amoOr (d a b : Reg) (f : AmoFields) (x : Bool) (g : Pred)
  /-- R204. -/
  | amoXor (d a b : Reg) (f : AmoFields) (x : Bool) (g : Pred)
  /-- R204. -/
  | amoMin (d a b : Reg) (f : AmoFields) (x : Bool) (g : Pred)
  /-- R204. -/
  | amoMax (d a b : Reg) (f : AmoFields) (x : Bool) (g : Pred)
  /-- R204. -/
  | amoMinu (d a b : Reg) (f : AmoFields) (x : Bool) (g : Pred)
  /-- R204. -/
  | amoMaxu (d a b : Reg) (f : AmoFields) (x : Bool) (g : Pred)
  /-- R204. -/
  | amoSwap (d a b : Reg) (f : AmoFields) (x : Bool) (g : Pred)
  /-- R205. -/
  | cas (d a b : Reg) (f : AmoFields) (x : Bool) (g : Pred)
  /-- R209. -/
  | fence (scope : BitVec 4) (x : Bool) (g : Pred)
  /-- R213. -/
  | publish (d a : Reg) (scope : BitVec 4) (x : Bool) (g : Pred)
  /-- R222. -/
  | wrdLocal (d : Reg) (imm : BitVec 12) (m : BitVec 3) (g : Pred)
  /-- R222. -/
  | wflLocal (d : Reg) (imm : BitVec 12) (m : BitVec 3) (g : Pred)
  /-- R222. -/
  | wshrLocal (imm : BitVec 12) (m : BitVec 3) (x : Bool) (g : Pred)
  /-- R222. -/
  | wstLocal (d : Reg) (imm : BitVec 12) (m : BitVec 3) (g : Pred)
  /-- R223. -/
  | wrdCore (d a b : Reg) (x : Bool) (g : Pred)
  /-- R223. -/
  | wflCore (d a b : Reg) (x : Bool) (g : Pred)
  /-- R223. -/
  | wshrCore (d a b : Reg) (x : Bool) (g : Pred)
  /-- R223. -/
  | wstCore (d a b : Reg) (x : Bool) (g : Pred)
  /-- R225. -/
  | sbind (d a : Reg) (t : BitVec 9) (slot : BitVec 2) (g : Pred)
  /-- R225. -/
  | sgo (d a : Reg) (t : BitVec 9) (slot : BitVec 2) (g : Pred)
  /-- R226. -/
  | sstop (d a : Reg) (t : BitVec 9) (slot : BitVec 2) (g : Pred)
  /-- R225. -/
  | sbar (d a : Reg) (t : BitVec 9) (slot : BitVec 2) (g : Pred)
  /-- R230. -/
  | cfgLoad (d a : Reg) (x : Bool) (g : Pred)
  /-- R231. -/
  | cfgShadow (d a : Reg) (x : Bool) (g : Pred)
  /-- R232. -/
  | cfgSwap (d a : Reg) (x : Bool) (g : Pred)
  /-- R238. -/
  | cfgDrain (d a : Reg) (x : Bool) (g : Pred)
  /-- R241. -/
  | cfgPhase (d a : Reg) (x : Bool) (g : Pred)
  /-- R242. -/
  | cfgSig (d a : Reg) (x : Bool) (g : Pred)
  /-- R232. -/
  | swapPlace (core : Nat) (win : Fin 16)
  /-- R234. -/
  | flip (core : Nat)
  /-- R234. -/
  | swapPortSend (core : Nat) (port : Fin 4)
  /-- R265. -/
  | stillnessReport (region : Nat)
  /-- R238. -/
  | drainComplete (region : Nat)
  /-- R244. -/
  | taskFill (a b : Reg) (m : BitVec 3) (x : Bool) (g : Pred)
  /-- R245. -/
  | taskTake (d a b : Reg) (m : BitVec 3) (x : Bool) (g : Pred)
  /-- R244. -/
  | taskSteal (d a b : Reg) (m : BitVec 3) (x : Bool) (g : Pred)
  /-- R244. -/
  | taskDone (d a b : Reg) (m : BitVec 3) (x : Bool) (g : Pred)
  /-- R248. -/
  | launch (d a b : Reg) (m : BitVec 3) (x : Bool) (g : Pred)
  /-- R249. -/
  | xlat (d a : Reg) (scope : BitVec 4) (all : BitVec 1) (x : Bool) (g : Pred)
  /-- R250. -/
  | tlbinv (d a : Reg) (scope : BitVec 4) (all : BitVec 1) (x : Bool) (g : Pred)
  /-- R251. -/
  | relatch (d a : Reg) (scope : BitVec 4) (all : BitVec 1) (x : Bool) (g : Pred)
  /-- R251. -/
  | relatchToken (core : Nat) (index : Nat)
  /-- R252. -/
  | lantReq (d a : Reg) (x : Bool) (g : Pred)
  /-- R252. -/
  | lantRel (d a : Reg) (x : Bool) (g : Pred)
  /-- R366. -/
  | netWrite (d a b : Reg) (x : Bool) (g : Pred)
  /-- R366. -/
  | netRead (d a b : Reg) (x : Bool) (g : Pred)
  /-- R366. -/
  | netSend (d a b : Reg) (x : Bool) (g : Pred)
  /-- R373. -/
  | netStat (d a b : Reg) (x : Bool) (g : Pred)
  /-- R363. -/
  | netBind (d a b : Reg) (x : Bool) (g : Pred)
  /-- R254. -/
  | csrr (d a : Reg) (csr : BitVec 10) (g : Pred)
  /-- R254. -/
  | csrw (a : Reg) (csr : BitVec 10) (x : Bool) (g : Pred)
  /-- R254. -/
  | time (d : Reg) (x : Bool) (g : Pred)
  /-- R259. -/
  | regionEnd (region : Nat)
  /-- R272. -/
  | regionFreeze (region : Nat)
  /-- R280. -/
  | regionRestore (region : Nat)
  /-- R298. -/
  | diePacketDeliver (index : Nat)
  /-- R303. -/
  | sliceApply (index : Nat)
  /-- R308. -/
  | pageWalkComplete (cluster : Nat) (ctx : Nat) (va : BitVec 56)
  /-- R316. -/
  | vugHomeApply (index : Nat)
  /-- R317. -/
  | poolChange (descriptor : Nat)
  /-- R346. -/
  | arbitrationRound (die : Fin 16)
  /-- R342. -/
  | dispatchCopy
  /-- R343. -/
  | packetCompletion (index : Nat)
  /-- R355. -/
  | packageEvent (index : Nat)
  /-- R340. -/
  | queueAppend (queue : Nat) (packet : Vector Word 8) (whole : Bool)
  /-- R344. -/
  | completionHeadWrite (window : Nat) (value : Word)
  /-- R353. -/
  | feataWrite (high : Bool) (value : Word)
  /-- R335. -/
  | hostRegisterWrite (offset : Nat) (value : Word)
  /-- R305. -/
  | dieRegisterWrite (die : Fin 16) (seq : Nat)
  /-- R337. -/
  | setBypassLimit (start : Word)
  /-- R338. -/
  | ctxCreate
  /-- R349. -/
  | ctxDestroy
  /-- R338. -/
  | qCreate
  /-- R349. -/
  | qDestroy
  /-- R349. -/
  | cancel
  /-- R338. -/
  | preempt
  /-- R338. -/
  | restore
  /-- R359. -/
  | quote
  /-- R338. -/
  | mailboxUnknown
  /-- R356. -/
  | clockStep (up : Bool)
  /-- R356. -/
  | bandwidthDegraded (on : Bool)
  /-- R358. -/
  | bringUp (fail : BitVec 4)
  /-- R334. -/
  | ucieRetrain (ok : Bool)
  /-- R366. -/
  | messagePacketPlace (packet : NetPacket)
  /-- R366. -/
  | netReadServe (handle : Nat) (msg : Nat) (addr : Nat) (span : ReadSpan)
  /-- R367. -/
  | remoteCompletion (handle : Nat) (msg : Nat)
  /-- R367. -/
  | localCompletion (index : Nat) (answer : Nat)
  /-- R371. -/
  | packetRetransmit (index : Nat) (packet : Nat)
  /-- R373. -/
  | ackReceive (handle : Nat) (ack : NetAck)
  /-- R371. -/
  | connectionFail (failure : ConnFailure)
  /-- R361. -/
  | linkOutOfService (port : Fin 16)
  /-- R361. -/
  | linkLevelRetry (replay : FrameReplay)
  /-- R356. -/
  | hardLimitStop
  deriving DecidableEq, Repr

end Sys2Proof
end

