-- ==== Sys2Proof/WellFormed.lean ====
section
/-! DEFINITION. Which instructions are well formed: words whose fields the manual's assembler can write (R60, R94, R178, R217), and events
that name units the module has (R1, R6). The machine runs ill-formed words too, by the fallbacks of R58, R116, R215 and R255. -/

namespace Sys2Proof

/-- An operand code that R44 does not call reserved. -/
def operandCodeOk (k : BitVec 5) : Bool :=
  (1 ≤ k.toNat && k.toNat ≤ 5) || (8 ≤ k.toNat && k.toNat ≤ 0x19) || k.toNat == 0x1F

/-- The operand codes of a stage word are not reserved, and its lantern bit says whether its opcode is heavy (R44, R48). -/
def StageFields.wf (f : StageFields) (heavy : Bool) : Bool :=
  operandCodeOk f.a && operandCodeOk f.b && operandCodeOk f.c && (f.lant == if heavy then 1 else 0)

/-- A global core number (R6). -/
def coreOk (n : Nat) : Bool := n < 2 ^ 20

/-- A sequencer: die, cluster y and cluster x (R174). -/
def seqOk (q : Nat) : Bool := q < 2 ^ 12

/-- The well-formed instructions. -/
def Instr.wf : Instr → Bool
  | .stageNop op f => op == .plain && f.wf false
  | .stageStop f => f.wf false
  | .stageMov f => f.wf false
  | .stageSel f => f.wf false
  | .iadd f => f.wf false
  | .isub f => f.wf false
  | .imul f => f.wf true
  | .imad f => f.wf true
  | .iand f => f.wf false
  | .ior f => f.wf false
  | .ixor f => f.wf false
  | .iandn f => f.wf false
  | .ishl f => f.wf false
  | .ishr f => f.wf false
  | .isra f => f.wf false
  | .icmp f => f.wf false
  | .imin f => f.wf false
  | .imax f => f.wf false
  | .ipopc f => f.wf false
  | .iclz f => f.wf false
  | .fadd f => f.wf false
  | .fsub f => f.wf false
  | .fmul f => f.wf true
  | .fma f => f.wf true
  | .fms f => f.wf true
  | .fmax f => f.wf false
  | .fmin f => f.wf false
  | .fabs f => f.wf false
  | .fneg f => f.wf false
  | .fcmp f => f.wf false
  | .fclass f => f.wf false
  | .frnd f => f.wf false
  | .frcp f => f.wf false
  | .frsq f => f.wf false
  | .fexp2 f => f.wf true
  | .flog2 f => f.wf true
  | .fscale f => f.wf false
  | .cvtFi f => f.wf false
  | .cvtIf f => f.wf false
  | .acc f => f.wf false && f.mod.toNat ≤ 6
  | .fmab f => f.wf true && f.mod.toNat ≤ 6
  | .dot f => f.wf true && f.mod.toNat ≤ 6
  | .rmax f => f.wf false && f.mod.toNat ≤ 6
  | .rmin f => f.wf false && f.mod.toNat ≤ 6
  | .ramax f => f.wf false && f.mod.toNat ≤ 6
  | .steer f => f.wf false
  | .merge f => f.wf false
  | .join f => f.wf false
  | .cmpx f => f.wf false
  | .cpr f => f.wf false
  | .stageMark f => f.wf false
  | .strip f => f.wf false
  | .gate f => f.wf false
  | .cnt f => f.wf false && f.mod.toNat ≤ 2
  | .bcast f => f.wf false
  | .shuf f => f.wf false && f.mod.toNat ≤ 3
  | .pack f => f.wf false
  | .unpack f => f.wf false
  | .wupd f => f.wf false && f.mod.toNat ≤ 6
  | .wfill f => f.wf false
  | .shrink f => f.wf false
  | .wcnt f => f.wf false
  | .seqNop kind x _ => kind == .plain && !x
  | .halt x _ => !x
  | .wfe x _ => !x
  | .yield x _ => !x
  | .ret _ x _ => !x
  | .eret x _ => !x
  | .trap _ x _ => !x
  | .exitr _ x _ => !x
  | .exitWord _ _ => true
  | .call _ _ _ => true
  | .add _ _ _ x _ => !x
  | .sub _ _ _ x _ => !x
  | .mul _ _ _ x _ => !x
  | .mulh _ _ _ x _ => !x
  | .mulhu _ _ _ x _ => !x
  | .div _ _ _ x _ => !x
  | .divu _ _ _ x _ => !x
  | .rem _ _ _ x _ => !x
  | .remu _ _ _ x _ => !x
  | .andW _ _ _ x _ => !x
  | .orW _ _ _ x _ => !x
  | .xorW _ _ _ x _ => !x
  | .shl _ _ _ x _ => !x
  | .shr _ _ _ x _ => !x
  | .sra _ _ _ x _ => !x
  | .minW _ _ _ x _ => !x
  | .maxW _ _ _ x _ => !x
  | .minu _ _ _ x _ => !x
  | .maxu _ _ _ x _ => !x
  | .clz _ _ _ x _ => !x
  | .ctz _ _ _ x _ => !x
  | .popc _ _ _ x _ => !x
  | .seqSel _ _ _ _ _ => true
  | .addi _ _ _ _ => true
  | .andi _ _ _ _ => true
  | .ori _ _ _ _ => true
  | .xori _ _ _ _ => true
  | .shli _ _ _ x _ => !x
  | .shri _ _ _ x _ => !x
  | .srai _ _ _ x _ => !x
  | .li _ _ _ => true
  | .lui _ _ _ _ => true
  | .lea _ _ _ => true
  | .cmp _ _ _ cond x _ => cond.toNat ≤ 5 && !x
  | .pand _ _ _ x _ => !x
  | .por _ _ _ x _ => !x
  | .pnot _ _ x _ => !x
  | .widGet _ _ f x _ => f.toNat ≤ 6 && !x
  | .widSet _ _ f x _ => f.toNat ≤ 6 && !x
  | .ld _ _ w u _ _ => u == 0 || w != 3
  | .st _ _ _ u _ _ => u == 0
  | .ldx _ _ w u _ _ _ => u == 0 || w != 3
  | .verase _ x _ => !x
  | .amoAdd _ _ _ _ x _ => !x
  | .amoAnd _ _ _ _ x _ => !x
  | .amoOr _ _ _ _ x _ => !x
  | .amoXor _ _ _ _ x _ => !x
  | .amoMin _ _ _ _ x _ => !x
  | .amoMax _ _ _ _ x _ => !x
  | .amoMinu _ _ _ _ x _ => !x
  | .amoMaxu _ _ _ _ x _ => !x
  | .amoSwap _ _ _ _ x _ => !x
  | .cas _ _ _ _ x _ => !x
  | .fence _ x _ => !x
  | .publish _ _ _ x _ => !x
  | .wrdLocal _ _ _ _ => true
  | .wflLocal _ _ _ _ => true
  | .wshrLocal _ _ x _ => !x
  | .wstLocal _ _ _ _ => true
  | .wrdCore _ _ _ x _ => !x
  | .wflCore _ _ _ x _ => !x
  | .wshrCore _ _ _ x _ => !x
  | .wstCore _ _ _ x _ => !x
  | .sbind _ _ _ _ _ => true
  | .sgo _ _ _ _ _ => true
  | .sstop _ _ _ _ _ => true
  | .sbar _ _ _ _ _ => true
  | .cfgLoad _ _ x _ => !x
  | .cfgShadow _ _ x _ => !x
  | .cfgSwap _ _ x _ => !x
  | .cfgDrain _ _ x _ => !x
  | .cfgPhase _ _ x _ => !x
  | .cfgSig _ _ x _ => !x
  | .taskFill _ _ _ x _ => !x
  | .taskTake _ _ _ _ x _ => !x
  | .taskSteal _ _ _ _ x _ => !x
  | .taskDone _ _ _ _ x _ => !x
  | .launch _ _ _ _ x _ => !x
  | .xlat _ _ _ _ x _ => !x
  | .tlbinv _ _ _ _ x _ => !x
  | .relatch _ _ _ _ x _ => !x
  | .lantReq _ _ x _ => !x
  | .lantRel _ _ x _ => !x
  | .netWrite _ _ _ x _ => !x
  | .netRead _ _ _ x _ => !x
  | .netSend _ _ _ x _ => !x
  | .netStat _ _ _ x _ => !x
  | .netBind _ _ _ x _ => !x
  | .csrr _ _ _ _ => true
  | .csrw _ _ x _ => !x
  | .time _ x _ => !x
  | .firingIssue core => coreOk core
  | .firingComplete core => coreOk core
  | .routerForward core _ _ => coreOk core
  | .linkFill core _ _ => coreOk core
  | .storeSoftError core _ _ => coreOk core
  | .coreWindowCommandApply core seq => coreOk core && seqOk seq
  | .hmsetWrite core seq => coreOk core && seqOk seq
  | .hmclrWrite core seq => coreOk core && seqOk seq
  | .loopGuardWrite core seq => coreOk core && seqOk seq
  | .coreRegisterWrite core seq => coreOk core && seqOk seq
  | .linkReplay _ => true
  | .uncorrectableLinkError _ => true
  | .echoProbeSend core => coreOk core
  | .echoProbeHop _ => true
  | .edgeLoadBeat core _ => coreOk core
  | .edgeStoreElement core _ => coreOk core
  | .quantisingStoreBlock core _ => coreOk core
  | .indexTokenTake core _ => coreOk core
  | .permitTake core _ => coreOk core
  | .acquireTake core _ => coreOk core
  | .completionToken core _ => coreOk core
  | .translationToken core _ => coreOk core
  | .eraseElement core _ => coreOk core
  | .edgeRetry core _ => coreOk core
  | .withholdLimit core _ => coreOk core
  | .checkpointSave _ _ => true
  | .thaw _ => true
  | .blockIssue seq => seqOk seq
  | .blockCommit seq => seqOk seq
  | .asyncTrapTake seq => seqOk seq
  | .replyResult seq _ => seqOk seq
  | .wfeWake seq => seqOk seq
  | .yieldExpiry seq => seqOk seq
  | .seqWindowFill seq _ => seqOk seq
  | .eventRecordDeliver seq => seqOk seq
  | .stealApply seq _ => seqOk seq
  | .swapPlace core _ => coreOk core
  | .flip core => coreOk core
  | .swapPortSend core _ => coreOk core
  | .stillnessReport _ => true
  | .drainComplete _ => true
  | .relatchToken core _ => coreOk core
  | .regionEnd _ => true
  | .regionFreeze _ => true
  | .regionRestore _ => true
  | .diePacketDeliver _ => true
  | .sliceApply _ => true
  | .pageWalkComplete _ _ _ => true
  | .vugHomeApply _ => true
  | .poolChange _ => true
  | .arbitrationRound _ => true
  | .dispatchCopy => true
  | .packetCompletion _ => true
  | .packageEvent _ => true
  | .queueAppend _ _ _ => true
  | .completionHeadWrite _ _ => true
  | .feataWrite _ _ => true
  | .hostRegisterWrite _ _ => true
  | .dieRegisterWrite _ seq => seqOk seq
  | .setBypassLimit _ => true
  | .ctxCreate => true
  | .ctxDestroy => true
  | .qCreate => true
  | .qDestroy => true
  | .cancel => true
  | .preempt => true
  | .restore => true
  | .quote => true
  | .mailboxUnknown => true
  | .clockStep _ => true
  | .bandwidthDegraded _ => true
  | .bringUp _ => true
  | .ucieRetrain _ => true
  | .messagePacketPlace _ => true
  | .netReadServe _ _ _ _ => true
  | .remoteCompletion _ _ => true
  | .localCompletion _ _ => true
  | .packetRetransmit _ _ => true
  | .ackReceive _ _ => true
  | .connectionFail _ => true
  | .linkLevelRetry _ => true
  | .linkOutOfService _ => true
  | .hardLimitStop => true

end Sys2Proof
end

