-- ==== Sys2Proof/Decode.lean ====
section
/-! DEFINITION. Reading and writing words: bit fields, the decoder of stage words (R43, R49), the decoder of sequencer words (R178, R179,
R217), and the encoder written from the same tables. -/

namespace Sys2Proof

/-! ## Bit fields -/

/-- Bits lo + n - 1 to lo of a 32-bit word (R2). -/
def fld (w : Code) (lo n : Nat) : BitVec n := BitVec.ofNat n (w.toNat / 2 ^ lo)

/-- Bits lo + n - 1 to lo of a number, as a number (R2). -/
def bitsOf (w lo n : Nat) : Nat := w / 2 ^ lo % 2 ^ n

/-- A 32-bit word read as signed, in n bits (R2, R178). -/
def signed {n : Nat} (x : BitVec n) : Int := x.toInt

/-- A value sign-extended to 64 bits (R193, R194). -/
def sext64 {n : Nat} (x : BitVec n) : Word := BitVec.ofInt 64 x.toInt

/-- The little-endian value of some bytes, lowest address first (R148, R156, R199). -/
def leValue : List Byte → Nat
  | [] => 0
  | b :: bs => b.toNat + 256 * leValue bs

/-- The n bytes of a value, lowest address first. -/
def leBytes : Nat → Nat → List Byte
  | 0, _ => []
  | n + 1, v => BitVec.ofNat 8 v :: leBytes n (v / 256)

/-! ## Stage words -/

/-- The fields of a stage word but OP (R43). -/
def stageFields (w : Code) : StageFields :=
  { a := fld w 21 5, b := fld w 16 5, c := fld w 11 5, mod := fld w 8 3, lant := fld w 7 1, dst := fld w 4 3, aux := fld w 0 4 }

/-- The stage word with opcode op and the fields f (R43). -/
def stageWord (op : BitVec 6) (f : StageFields) : Code :=
  BitVec.ofNat 32 (op.toNat * 2 ^ 26 + f.a.toNat * 2 ^ 21 + f.b.toNat * 2 ^ 16 + f.c.toNat * 2 ^ 11 + f.mod.toNat * 2 ^ 8
    + f.lant.toNat * 2 ^ 7 + f.dst.toNat * 2 ^ 4 + f.aux.toNat)

/-- The instruction that opcode OP names, with the fields f: the opcode map of R49; 0x3E and 0x3F execute as `nop` (R58). -/
def stageOf (op : Nat) (f : StageFields) : Instr :=
  match op with
  | 0x00 => .stageNop .plain f
  | 0x01 => .stageStop f
  | 0x02 => .stageMov f
  | 0x03 => .stageSel f
  | 0x04 => .iadd f
  | 0x05 => .isub f
  | 0x06 => .imul f
  | 0x07 => .imad f
  | 0x08 => .iand f
  | 0x09 => .ior f
  | 0x0A => .ixor f
  | 0x0B => .iandn f
  | 0x0C => .ishl f
  | 0x0D => .ishr f
  | 0x0E => .isra f
  | 0x0F => .icmp f
  | 0x10 => .imin f
  | 0x11 => .imax f
  | 0x12 => .ipopc f
  | 0x13 => .iclz f
  | 0x14 => .fadd f
  | 0x15 => .fsub f
  | 0x16 => .fmul f
  | 0x17 => .fma f
  | 0x18 => .fms f
  | 0x19 => .fmax f
  | 0x1A => .fmin f
  | 0x1B => .fabs f
  | 0x1C => .fneg f
  | 0x1D => .fcmp f
  | 0x1E => .fclass f
  | 0x1F => .frnd f
  | 0x20 => .frcp f
  | 0x21 => .frsq f
  | 0x22 => .fexp2 f
  | 0x23 => .flog2 f
  | 0x24 => .fscale f
  | 0x25 => .cvtFi f
  | 0x26 => .cvtIf f
  | 0x27 => .acc f
  | 0x28 => .fmab f
  | 0x29 => .dot f
  | 0x2A => .rmax f
  | 0x2B => .rmin f
  | 0x2C => .ramax f
  | 0x2D => .steer f
  | 0x2E => .merge f
  | 0x2F => .join f
  | 0x30 => .cmpx f
  | 0x31 => .cpr f
  | 0x32 => .stageMark f
  | 0x33 => .strip f
  | 0x34 => .gate f
  | 0x35 => .cnt f
  | 0x36 => .bcast f
  | 0x37 => .shuf f
  | 0x38 => .pack f
  | 0x39 => .unpack f
  | 0x3A => .wupd f
  | 0x3B => .wfill f
  | 0x3C => .shrink f
  | 0x3D => .wcnt f
  | 0x3E => .stageNop .reserved3E f
  | _ => .stageNop .reserved3F f

/-- The decoder of stage words. Every 32-bit word is one (R49, R58). -/
def decodeStage (w : Code) : Instr := stageOf (fld w 26 6).toNat (stageFields w)

/-- The opcode of a stage instruction (R49). -/
def stageOpcode : Instr → Option (BitVec 6 × StageFields)
  | .stageNop .plain f => some (0x00, f)
  | .stageNop .reserved3E f => some (0x3E, f)
  | .stageNop .reserved3F f => some (0x3F, f)
  | .stageStop f => some (0x01, f)
  | .stageMov f => some (0x02, f)
  | .stageSel f => some (0x03, f)
  | .iadd f => some (0x04, f)
  | .isub f => some (0x05, f)
  | .imul f => some (0x06, f)
  | .imad f => some (0x07, f)
  | .iand f => some (0x08, f)
  | .ior f => some (0x09, f)
  | .ixor f => some (0x0A, f)
  | .iandn f => some (0x0B, f)
  | .ishl f => some (0x0C, f)
  | .ishr f => some (0x0D, f)
  | .isra f => some (0x0E, f)
  | .icmp f => some (0x0F, f)
  | .imin f => some (0x10, f)
  | .imax f => some (0x11, f)
  | .ipopc f => some (0x12, f)
  | .iclz f => some (0x13, f)
  | .fadd f => some (0x14, f)
  | .fsub f => some (0x15, f)
  | .fmul f => some (0x16, f)
  | .fma f => some (0x17, f)
  | .fms f => some (0x18, f)
  | .fmax f => some (0x19, f)
  | .fmin f => some (0x1A, f)
  | .fabs f => some (0x1B, f)
  | .fneg f => some (0x1C, f)
  | .fcmp f => some (0x1D, f)
  | .fclass f => some (0x1E, f)
  | .frnd f => some (0x1F, f)
  | .frcp f => some (0x20, f)
  | .frsq f => some (0x21, f)
  | .fexp2 f => some (0x22, f)
  | .flog2 f => some (0x23, f)
  | .fscale f => some (0x24, f)
  | .cvtFi f => some (0x25, f)
  | .cvtIf f => some (0x26, f)
  | .acc f => some (0x27, f)
  | .fmab f => some (0x28, f)
  | .dot f => some (0x29, f)
  | .rmax f => some (0x2A, f)
  | .rmin f => some (0x2B, f)
  | .ramax f => some (0x2C, f)
  | .steer f => some (0x2D, f)
  | .merge f => some (0x2E, f)
  | .join f => some (0x2F, f)
  | .cmpx f => some (0x30, f)
  | .cpr f => some (0x31, f)
  | .stageMark f => some (0x32, f)
  | .strip f => some (0x33, f)
  | .gate f => some (0x34, f)
  | .cnt f => some (0x35, f)
  | .bcast f => some (0x36, f)
  | .shuf f => some (0x37, f)
  | .pack f => some (0x38, f)
  | .unpack f => some (0x39, f)
  | .wupd f => some (0x3A, f)
  | .wfill f => some (0x3B, f)
  | .shrink f => some (0x3C, f)
  | .wcnt f => some (0x3D, f)
  | _ => none

/-! ## Sequencer words -/

/-- Why a word of a block is no instruction (R179, R188): each traps ILL. -/
inductive DecodeError where
  | reservedMajor (op : Nat)
  | headerInBlock
  deriving DecidableEq, Repr

/-- Some bit of the fields given (low bit, width) is not 0. -/
def anySet (w : Code) : List (Nat × Nat) → Bool
  | [] => false
  | (lo, n) :: rest => (bitsOf w.toNat lo n != 0) || anySet w rest

/-- A reserved FN: nothing is done or written, and RSVF is set (R215, R255). -/
def reservedFn (w : Code) : Instr := .seqNop (.reservedFn (fld w 26 6) (fld w 3 23)) false (fld w 0 3)

/-- The control group, OP 0x00 (R186). DESIGN CHOICE (log 145): bits 25:11 of `nop`, `halt`, `wfe`, `yield` and `eret`, and bits 25:21 and 15:11 of
`ret` and `exitr`, count as fields marked 0; a word with a reserved FN sets RSVF alone. -/
def decodeControl (w : Code) : Instr :=
  let g : Pred := fld w 0 3
  match bitsOf w.toNat 6 5 with
  | 0 => .seqNop .plain (anySet w [(11, 15), (3, 3)]) g
  | 1 => .halt (anySet w [(11, 15), (3, 3)]) g
  | 2 => .wfe (anySet w [(11, 15), (3, 3)]) g
  | 3 => .yield (anySet w [(11, 15), (3, 3)]) g
  | 4 => .ret (fld w 16 5) (anySet w [(21, 5), (11, 5), (3, 3)]) g
  | 5 => .eret (anySet w [(11, 15), (3, 3)]) g
  | 6 => .trap (fld w 11 15) (anySet w [(3, 3)]) g
  | 7 => .exitr (fld w 16 5) (anySet w [(21, 5), (11, 5), (3, 3)]) g
  | _ => reservedFn w

/-- The integer group, OP 0x04 (R191, R192). -/
def decodeInteger (w : Code) : Instr :=
  let g : Pred := fld w 0 3
  match bitsOf w.toNat 6 5 with
  | 0 => .add (fld w 21 5) (fld w 16 5) (fld w 11 5) (anySet w [(3, 3)]) g
  | 1 => .sub (fld w 21 5) (fld w 16 5) (fld w 11 5) (anySet w [(3, 3)]) g
  | 2 => .mul (fld w 21 5) (fld w 16 5) (fld w 11 5) (anySet w [(3, 3)]) g
  | 3 => .mulh (fld w 21 5) (fld w 16 5) (fld w 11 5) (anySet w [(3, 3)]) g
  | 4 => .mulhu (fld w 21 5) (fld w 16 5) (fld w 11 5) (anySet w [(3, 3)]) g
  | 5 => .div (fld w 21 5) (fld w 16 5) (fld w 11 5) (anySet w [(3, 3)]) g
  | 6 => .divu (fld w 21 5) (fld w 16 5) (fld w 11 5) (anySet w [(3, 3)]) g
  | 7 => .rem (fld w 21 5) (fld w 16 5) (fld w 11 5) (anySet w [(3, 3)]) g
  | 8 => .remu (fld w 21 5) (fld w 16 5) (fld w 11 5) (anySet w [(3, 3)]) g
  | 9 => .andW (fld w 21 5) (fld w 16 5) (fld w 11 5) (anySet w [(3, 3)]) g
  | 10 => .orW (fld w 21 5) (fld w 16 5) (fld w 11 5) (anySet w [(3, 3)]) g
  | 11 => .xorW (fld w 21 5) (fld w 16 5) (fld w 11 5) (anySet w [(3, 3)]) g
  | 12 => .shl (fld w 21 5) (fld w 16 5) (fld w 11 5) (anySet w [(3, 3)]) g
  | 13 => .shr (fld w 21 5) (fld w 16 5) (fld w 11 5) (anySet w [(3, 3)]) g
  | 14 => .sra (fld w 21 5) (fld w 16 5) (fld w 11 5) (anySet w [(3, 3)]) g
  | 15 => .minW (fld w 21 5) (fld w 16 5) (fld w 11 5) (anySet w [(3, 3)]) g
  | 16 => .maxW (fld w 21 5) (fld w 16 5) (fld w 11 5) (anySet w [(3, 3)]) g
  | 17 => .minu (fld w 21 5) (fld w 16 5) (fld w 11 5) (anySet w [(3, 3)]) g
  | 18 => .maxu (fld w 21 5) (fld w 16 5) (fld w 11 5) (anySet w [(3, 3)]) g
  | 19 => .clz (fld w 21 5) (fld w 16 5) (fld w 11 5) (anySet w [(3, 3)]) g
  | 20 => .ctz (fld w 21 5) (fld w 16 5) (fld w 11 5) (anySet w [(3, 3)]) g
  | 21 => .popc (fld w 21 5) (fld w 16 5) (fld w 11 5) (anySet w [(3, 3)]) g
  | 22 => .seqSel (fld w 21 5) (fld w 16 5) (fld w 11 5) (fld w 3 3) g
  | _ => reservedFn w

/-- The predicate group, OP 0x10 (R196). -/
def decodePredicate (w : Code) : Instr :=
  let g : Pred := fld w 0 3
  match bitsOf w.toNat 6 5 with
  | 0 => .pand (fld w 23 3) (fld w 18 3) (fld w 13 3) (anySet w [(21, 2), (16, 2), (11, 2), (3, 3)]) g
  | 1 => .por (fld w 23 3) (fld w 18 3) (fld w 13 3) (anySet w [(21, 2), (16, 2), (11, 2), (3, 3)]) g
  | 2 => .pnot (fld w 23 3) (fld w 18 3) (anySet w [(21, 2), (16, 2), (11, 5), (3, 3)]) g
  | _ => reservedFn w

/-- The work-ID words, OP 0x11 (R197). DESIGN CHOICE (log 146): FN 2 to 31 do nothing and set RSVF, as the reserved FN of R215. -/
def decodeWorkId (w : Code) : Instr :=
  let g : Pred := fld w 0 3
  match bitsOf w.toNat 6 5 with
  | 0 => .widGet (fld w 21 5) (fld w 16 5) (fld w 13 3) (anySet w [(11, 2), (3, 3)]) g
  | 1 => .widSet (fld w 21 5) (fld w 16 5) (fld w 13 3) (anySet w [(11, 2), (3, 3)]) g
  | _ => reservedFn w

/-- The window group, OP 0x22: L is bit 5, FN bits 4:3 (R217, R222, R223). -/
def decodeWindow (w : Code) : Instr :=
  let g : Pred := fld w 0 3
  match bitsOf w.toNat 3 3 with
  | 0 => .wrdCore (fld w 21 5) (fld w 16 5) (fld w 11 5) (anySet w [(6, 5)]) g
  | 1 => .wflCore (fld w 21 5) (fld w 16 5) (fld w 11 5) (anySet w [(6, 5)]) g
  | 2 => .wshrCore (fld w 21 5) (fld w 16 5) (fld w 11 5) (anySet w [(6, 5)]) g
  | 3 => .wstCore (fld w 21 5) (fld w 16 5) (fld w 11 5) (anySet w [(6, 5)]) g
  | 4 => .wrdLocal (fld w 21 5) (fld w 9 12) (fld w 6 3) g
  | 5 => .wflLocal (fld w 21 5) (fld w 9 12) (fld w 6 3) g
  | 6 => .wshrLocal (fld w 9 12) (fld w 6 3) (anySet w [(21, 5)]) g
  | 7 => .wstLocal (fld w 21 5) (fld w 9 12) (fld w 6 3) g
  | _ => reservedFn w

/-- The stream group, OP 0x23 (R225). -/
def decodeStream (w : Code) : Instr :=
  let g : Pred := fld w 0 3
  match bitsOf w.toNat 3 2 with
  | 0 => .sbind (fld w 21 5) (fld w 16 5) (fld w 7 9) (fld w 5 2) g
  | 1 => .sgo (fld w 21 5) (fld w 16 5) (fld w 7 9) (fld w 5 2) g
  | 2 => .sstop (fld w 21 5) (fld w 16 5) (fld w 7 9) (fld w 5 2) g
  | 3 => .sbar (fld w 21 5) (fld w 16 5) (fld w 7 9) (fld w 5 2) g
  | _ => reservedFn w

/-- The configuration group, OP 0x24 (R217). -/
def decodeConfig (w : Code) : Instr :=
  let g : Pred := fld w 0 3
  match bitsOf w.toNat 3 3 with
  | 0 => .cfgLoad (fld w 21 5) (fld w 16 5) (anySet w [(6, 10)]) g
  | 1 => .cfgShadow (fld w 21 5) (fld w 16 5) (anySet w [(6, 10)]) g
  | 2 => .cfgSwap (fld w 21 5) (fld w 16 5) (anySet w [(6, 10)]) g
  | 3 => .cfgDrain (fld w 21 5) (fld w 16 5) (anySet w [(6, 10)]) g
  | 4 => .cfgPhase (fld w 21 5) (fld w 16 5) (anySet w [(6, 10)]) g
  | 5 => .cfgSig (fld w 21 5) (fld w 16 5) (anySet w [(6, 10)]) g
  | _ => reservedFn w

/-- The task group and `launch`, OP 0x25 (R244). -/
def decodeTask (w : Code) : Instr :=
  let g : Pred := fld w 0 3
  match bitsOf w.toNat 3 3 with
  | 0 => .taskFill (fld w 16 5) (fld w 11 5) (fld w 8 3) (anySet w [(6, 2), (21, 5)]) g
  | 1 => .taskTake (fld w 21 5) (fld w 16 5) (fld w 11 5) (fld w 8 3) (anySet w [(6, 2)]) g
  | 2 => .taskSteal (fld w 21 5) (fld w 16 5) (fld w 11 5) (fld w 8 3) (anySet w [(6, 2)]) g
  | 3 => .taskDone (fld w 21 5) (fld w 16 5) (fld w 11 5) (fld w 8 3) (anySet w [(6, 2)]) g
  | 4 => .launch (fld w 21 5) (fld w 16 5) (fld w 11 5) (fld w 8 3) (anySet w [(6, 2)]) g
  | _ => reservedFn w

/-- The translation group, OP 0x26 (R249). -/
def decodeTranslation (w : Code) : Instr :=
  let g : Pred := fld w 0 3
  match bitsOf w.toNat 3 3 with
  | 0 => .xlat (fld w 21 5) (fld w 16 5) (fld w 12 4) (fld w 11 1) (anySet w [(6, 5)]) g
  | 1 => .tlbinv (fld w 21 5) (fld w 16 5) (fld w 12 4) (fld w 11 1) (anySet w [(6, 5)]) g
  | 2 => .relatch (fld w 21 5) (fld w 16 5) (fld w 12 4) (fld w 11 1) (anySet w [(6, 5)]) g
  | _ => reservedFn w

/-- The lantern group, OP 0x27 (R252). -/
def decodeLantern (w : Code) : Instr :=
  let g : Pred := fld w 0 3
  match bitsOf w.toNat 3 3 with
  | 0 => .lantReq (fld w 21 5) (fld w 16 5) (anySet w [(6, 10)]) g
  | 1 => .lantRel (fld w 21 5) (fld w 16 5) (anySet w [(6, 10)]) g
  | _ => reservedFn w

/-- The network group, OP 0x28 (R253). -/
def decodeNetwork (w : Code) : Instr :=
  let g : Pred := fld w 0 3
  match bitsOf w.toNat 3 3 with
  | 0 => .netWrite (fld w 21 5) (fld w 16 5) (fld w 11 5) (anySet w [(6, 5)]) g
  | 1 => .netRead (fld w 21 5) (fld w 16 5) (fld w 11 5) (anySet w [(6, 5)]) g
  | 2 => .netSend (fld w 21 5) (fld w 16 5) (fld w 11 5) (anySet w [(6, 5)]) g
  | 3 => .netStat (fld w 21 5) (fld w 16 5) (fld w 11 5) (anySet w [(6, 5)]) g
  | 4 => .netBind (fld w 21 5) (fld w 16 5) (fld w 11 5) (anySet w [(6, 5)]) g
  | _ => reservedFn w

/-- The system group, OP 0x29 (R254). -/
def decodeSystem (w : Code) : Instr :=
  let g : Pred := fld w 0 3
  match bitsOf w.toNat 3 3 with
  | 0 => .csrr (fld w 21 5) (fld w 16 5) (fld w 6 10) g
  | 1 => .csrw (fld w 16 5) (fld w 6 10) (anySet w [(21, 5)]) g
  | 2 => .time (fld w 21 5) (anySet w [(6, 15)]) g
  | _ => reservedFn w

/-- The size, acquire, release and scope fields of an atomic (R178). -/
def amoFields (w : Code) : AmoFields := ⟨fld w 10 1, fld w 9 1, fld w 8 1, fld w 4 4⟩

/-- The decoder of sequencer words: total, and a word that is no instruction is refused by name (R179, R188). Which bits of the control group count
as fields marked 0 is a DESIGN CHOICE (log 145), and so is what FN 2 to 31 of OP 0x11 do (log 146). -/
def decodeSeq (w : Code) : Except DecodeError Instr :=
  let g : Pred := fld w 0 3
  match bitsOf w.toNat 26 6 with
  | 0x00 => .ok (decodeControl w)
  | 0x01 => .ok (.exitWord (fld w 3 23) g)
  | 0x03 => .ok (.call (fld w 21 5) (fld w 3 18) g)
  | 0x04 => .ok (decodeInteger w)
  | 0x05 => .ok (.addi (fld w 21 5) (fld w 16 5) (fld w 3 13) g)
  | 0x06 => .ok (.andi (fld w 21 5) (fld w 16 5) (fld w 3 13) g)
  | 0x07 => .ok (.ori (fld w 21 5) (fld w 16 5) (fld w 3 13) g)
  | 0x08 => .ok (.xori (fld w 21 5) (fld w 16 5) (fld w 3 13) g)
  | 0x09 => .ok (.shli (fld w 21 5) (fld w 16 5) (fld w 3 6) (anySet w [(9, 7)]) g)
  | 0x0A => .ok (.shri (fld w 21 5) (fld w 16 5) (fld w 3 6) (anySet w [(9, 7)]) g)
  | 0x0B => .ok (.srai (fld w 21 5) (fld w 16 5) (fld w 3 6) (anySet w [(9, 7)]) g)
  | 0x0C => .ok (.li (fld w 21 5) (fld w 3 18) g)
  | 0x0D => .ok (.lui (fld w 21 5) (fld w 19 2) (fld w 3 16) g)
  | 0x0E => .ok (.lea (fld w 21 5) (fld w 3 18) g)
  | 0x0F => .ok (.cmp (fld w 23 3) (fld w 16 5) (fld w 11 5) (fld w 3 3) (anySet w [(21, 2), (6, 5)]) g)
  | 0x10 => .ok (decodePredicate w)
  | 0x11 => .ok (decodeWorkId w)
  | 0x12 => .ok (.ld (fld w 21 5) (fld w 16 5) (fld w 14 2) (fld w 13 1) (fld w 3 10) g)
  | 0x13 => .ok (.st (fld w 21 5) (fld w 16 5) (fld w 14 2) (fld w 13 1) (fld w 3 10) g)
  | 0x14 => .ok (.ldx (fld w 21 5) (fld w 16 5) (fld w 14 2) (fld w 13 1) (fld w 10 3) (fld w 3 7) g)
  | 0x15 => .ok (.verase (fld w 16 5) (anySet w [(21, 5), (3, 13)]) g)
  | 0x16 => .ok (.amoAdd (fld w 21 5) (fld w 16 5) (fld w 11 5) (amoFields w) (anySet w [(3, 1)]) g)
  | 0x17 => .ok (.amoAnd (fld w 21 5) (fld w 16 5) (fld w 11 5) (amoFields w) (anySet w [(3, 1)]) g)
  | 0x18 => .ok (.amoOr (fld w 21 5) (fld w 16 5) (fld w 11 5) (amoFields w) (anySet w [(3, 1)]) g)
  | 0x19 => .ok (.amoXor (fld w 21 5) (fld w 16 5) (fld w 11 5) (amoFields w) (anySet w [(3, 1)]) g)
  | 0x1A => .ok (.amoMin (fld w 21 5) (fld w 16 5) (fld w 11 5) (amoFields w) (anySet w [(3, 1)]) g)
  | 0x1B => .ok (.amoMax (fld w 21 5) (fld w 16 5) (fld w 11 5) (amoFields w) (anySet w [(3, 1)]) g)
  | 0x1C => .ok (.amoMinu (fld w 21 5) (fld w 16 5) (fld w 11 5) (amoFields w) (anySet w [(3, 1)]) g)
  | 0x1D => .ok (.amoMaxu (fld w 21 5) (fld w 16 5) (fld w 11 5) (amoFields w) (anySet w [(3, 1)]) g)
  | 0x1E => .ok (.amoSwap (fld w 21 5) (fld w 16 5) (fld w 11 5) (amoFields w) (anySet w [(3, 1)]) g)
  | 0x1F => .ok (.cas (fld w 21 5) (fld w 16 5) (fld w 11 5) (amoFields w) (anySet w [(3, 1)]) g)
  | 0x20 => .ok (.fence (fld w 22 4) (anySet w [(3, 19)]) g)
  | 0x21 => .ok (.publish (fld w 21 5) (fld w 16 5) (fld w 12 4) (anySet w [(3, 9)]) g)
  | 0x22 => .ok (decodeWindow w)
  | 0x23 => .ok (decodeStream w)
  | 0x24 => .ok (decodeConfig w)
  | 0x25 => .ok (decodeTask w)
  | 0x26 => .ok (decodeTranslation w)
  | 0x27 => .ok (decodeLantern w)
  | 0x28 => .ok (decodeNetwork w)
  | 0x29 => .ok (decodeSystem w)
  | 0x3F => .error .headerInBlock
  | op => .error (.reservedMajor op)

/-! ## The encoder -/

/-- The sum of some field values, each at its low bit. -/
def placed : List (Nat × Nat) → Nat
  | [] => 0
  | (x, lo) :: rest => x * 2 ^ lo + placed rest

/-- The word with major opcode op, guard g and the fields given, each with its low bit (R178). -/
def seqWord (op : Nat) (fields : List (Nat × Nat)) (g : Pred) : Code := BitVec.ofNat 32 (op * 2 ^ 26 + placed fields + g.toNat)

/-- The word of a sequencer instruction, with every field that must be 0 written as 0; none for a stage word or an event. -/
def encodeSeq : Instr → Option Code
  | .seqNop .plain _ g => some (seqWord 0x00 [] g)
  | .seqNop (.reservedFn op rest) _ g => some (seqWord op.toNat [(rest.toNat, 3)] g)
  | .halt _ g => some (seqWord 0x00 [(1, 6)] g)
  | .wfe _ g => some (seqWord 0x00 [(2, 6)] g)
  | .yield _ g => some (seqWord 0x00 [(3, 6)] g)
  | .eret _ g => some (seqWord 0x00 [(5, 6)] g)
  | .ret a _ g => some (seqWord 0x00 [(a.toNat, 16), (4, 6)] g)
  | .exitr a _ g => some (seqWord 0x00 [(a.toNat, 16), (7, 6)] g)
  | .trap code _ g => some (seqWord 0x00 [(code.toNat, 11), (6, 6)] g)
  | .exitWord off g => some (seqWord 0x01 [(off.toNat, 3)] g)
  | .call d imm g => some (seqWord 0x03 [(d.toNat, 21), (imm.toNat, 3)] g)
  | .add d a b _ g => some (seqWord 0x04 [(d.toNat, 21), (a.toNat, 16), (b.toNat, 11)] g)
  | .sub d a b _ g => some (seqWord 0x04 [(d.toNat, 21), (a.toNat, 16), (b.toNat, 11), (1, 6)] g)
  | .mul d a b _ g => some (seqWord 0x04 [(d.toNat, 21), (a.toNat, 16), (b.toNat, 11), (2, 6)] g)
  | .mulh d a b _ g => some (seqWord 0x04 [(d.toNat, 21), (a.toNat, 16), (b.toNat, 11), (3, 6)] g)
  | .mulhu d a b _ g => some (seqWord 0x04 [(d.toNat, 21), (a.toNat, 16), (b.toNat, 11), (4, 6)] g)
  | .div d a b _ g => some (seqWord 0x04 [(d.toNat, 21), (a.toNat, 16), (b.toNat, 11), (5, 6)] g)
  | .divu d a b _ g => some (seqWord 0x04 [(d.toNat, 21), (a.toNat, 16), (b.toNat, 11), (6, 6)] g)
  | .rem d a b _ g => some (seqWord 0x04 [(d.toNat, 21), (a.toNat, 16), (b.toNat, 11), (7, 6)] g)
  | .remu d a b _ g => some (seqWord 0x04 [(d.toNat, 21), (a.toNat, 16), (b.toNat, 11), (8, 6)] g)
  | .andW d a b _ g => some (seqWord 0x04 [(d.toNat, 21), (a.toNat, 16), (b.toNat, 11), (9, 6)] g)
  | .orW d a b _ g => some (seqWord 0x04 [(d.toNat, 21), (a.toNat, 16), (b.toNat, 11), (10, 6)] g)
  | .xorW d a b _ g => some (seqWord 0x04 [(d.toNat, 21), (a.toNat, 16), (b.toNat, 11), (11, 6)] g)
  | .shl d a b _ g => some (seqWord 0x04 [(d.toNat, 21), (a.toNat, 16), (b.toNat, 11), (12, 6)] g)
  | .shr d a b _ g => some (seqWord 0x04 [(d.toNat, 21), (a.toNat, 16), (b.toNat, 11), (13, 6)] g)
  | .sra d a b _ g => some (seqWord 0x04 [(d.toNat, 21), (a.toNat, 16), (b.toNat, 11), (14, 6)] g)
  | .minW d a b _ g => some (seqWord 0x04 [(d.toNat, 21), (a.toNat, 16), (b.toNat, 11), (15, 6)] g)
  | .maxW d a b _ g => some (seqWord 0x04 [(d.toNat, 21), (a.toNat, 16), (b.toNat, 11), (16, 6)] g)
  | .minu d a b _ g => some (seqWord 0x04 [(d.toNat, 21), (a.toNat, 16), (b.toNat, 11), (17, 6)] g)
  | .maxu d a b _ g => some (seqWord 0x04 [(d.toNat, 21), (a.toNat, 16), (b.toNat, 11), (18, 6)] g)
  | .clz d a b _ g => some (seqWord 0x04 [(d.toNat, 21), (a.toNat, 16), (b.toNat, 11), (19, 6)] g)
  | .ctz d a b _ g => some (seqWord 0x04 [(d.toNat, 21), (a.toNat, 16), (b.toNat, 11), (20, 6)] g)
  | .popc d a b _ g => some (seqWord 0x04 [(d.toNat, 21), (a.toNat, 16), (b.toNat, 11), (21, 6)] g)
  | .seqSel d a b p g => some (seqWord 0x04 [(d.toNat, 21), (a.toNat, 16), (b.toNat, 11), (22, 6), (p.toNat, 3)] g)
  | .addi d a imm g => some (seqWord 0x05 [(d.toNat, 21), (a.toNat, 16), (imm.toNat, 3)] g)
  | .andi d a imm g => some (seqWord 0x06 [(d.toNat, 21), (a.toNat, 16), (imm.toNat, 3)] g)
  | .ori d a imm g => some (seqWord 0x07 [(d.toNat, 21), (a.toNat, 16), (imm.toNat, 3)] g)
  | .xori d a imm g => some (seqWord 0x08 [(d.toNat, 21), (a.toNat, 16), (imm.toNat, 3)] g)
  | .shli d a imm _ g => some (seqWord 0x09 [(d.toNat, 21), (a.toNat, 16), (imm.toNat, 3)] g)
  | .shri d a imm _ g => some (seqWord 0x0A [(d.toNat, 21), (a.toNat, 16), (imm.toNat, 3)] g)
  | .srai d a imm _ g => some (seqWord 0x0B [(d.toNat, 21), (a.toNat, 16), (imm.toNat, 3)] g)
  | .li d imm g => some (seqWord 0x0C [(d.toNat, 21), (imm.toNat, 3)] g)
  | .lui d h imm g => some (seqWord 0x0D [(d.toNat, 21), (h.toNat, 19), (imm.toNat, 3)] g)
  | .lea d imm g => some (seqWord 0x0E [(d.toNat, 21), (imm.toNat, 3)] g)
  | .cmp p a b cond _ g => some (seqWord 0x0F [(p.toNat, 23), (a.toNat, 16), (b.toNat, 11), (cond.toNat, 3)] g)
  | .pand p a b _ g => some (seqWord 0x10 [(p.toNat, 23), (a.toNat, 18), (b.toNat, 13)] g)
  | .por p a b _ g => some (seqWord 0x10 [(p.toNat, 23), (a.toNat, 18), (b.toNat, 13), (1, 6)] g)
  | .pnot p a _ g => some (seqWord 0x10 [(p.toNat, 23), (a.toNat, 18), (2, 6)] g)
  | .widGet d a f _ g => some (seqWord 0x11 [(d.toNat, 21), (a.toNat, 16), (f.toNat, 13)] g)
  | .widSet d a f _ g => some (seqWord 0x11 [(d.toNat, 21), (a.toNat, 16), (f.toNat, 13), (1, 6)] g)
  | .ld d a w u off g => some (seqWord 0x12 [(d.toNat, 21), (a.toNat, 16), (w.toNat, 14), (u.toNat, 13), (off.toNat, 3)] g)
  | .st d a w u off g => some (seqWord 0x13 [(d.toNat, 21), (a.toNat, 16), (w.toNat, 14), (u.toNat, 13), (off.toNat, 3)] g)
  | .ldx d a w u p off g => some (seqWord 0x14 [(d.toNat, 21), (a.toNat, 16), (w.toNat, 14), (u.toNat, 13), (p.toNat, 10), (off.toNat, 3)] g)
  | .verase a _ g => some (seqWord 0x15 [(a.toNat, 16)] g)
  | .amoAdd d a b f _ g => some (seqWord 0x16 [(d.toNat, 21), (a.toNat, 16), (b.toNat, 11), (f.sz.toNat, 10), (f.aq.toNat, 9), (f.rl.toNat, 8), (f.scope.toNat, 4)] g)
  | .amoAnd d a b f _ g => some (seqWord 0x17 [(d.toNat, 21), (a.toNat, 16), (b.toNat, 11), (f.sz.toNat, 10), (f.aq.toNat, 9), (f.rl.toNat, 8), (f.scope.toNat, 4)] g)
  | .amoOr d a b f _ g => some (seqWord 0x18 [(d.toNat, 21), (a.toNat, 16), (b.toNat, 11), (f.sz.toNat, 10), (f.aq.toNat, 9), (f.rl.toNat, 8), (f.scope.toNat, 4)] g)
  | .amoXor d a b f _ g => some (seqWord 0x19 [(d.toNat, 21), (a.toNat, 16), (b.toNat, 11), (f.sz.toNat, 10), (f.aq.toNat, 9), (f.rl.toNat, 8), (f.scope.toNat, 4)] g)
  | .amoMin d a b f _ g => some (seqWord 0x1A [(d.toNat, 21), (a.toNat, 16), (b.toNat, 11), (f.sz.toNat, 10), (f.aq.toNat, 9), (f.rl.toNat, 8), (f.scope.toNat, 4)] g)
  | .amoMax d a b f _ g => some (seqWord 0x1B [(d.toNat, 21), (a.toNat, 16), (b.toNat, 11), (f.sz.toNat, 10), (f.aq.toNat, 9), (f.rl.toNat, 8), (f.scope.toNat, 4)] g)
  | .amoMinu d a b f _ g => some (seqWord 0x1C [(d.toNat, 21), (a.toNat, 16), (b.toNat, 11), (f.sz.toNat, 10), (f.aq.toNat, 9), (f.rl.toNat, 8), (f.scope.toNat, 4)] g)
  | .amoMaxu d a b f _ g => some (seqWord 0x1D [(d.toNat, 21), (a.toNat, 16), (b.toNat, 11), (f.sz.toNat, 10), (f.aq.toNat, 9), (f.rl.toNat, 8), (f.scope.toNat, 4)] g)
  | .amoSwap d a b f _ g => some (seqWord 0x1E [(d.toNat, 21), (a.toNat, 16), (b.toNat, 11), (f.sz.toNat, 10), (f.aq.toNat, 9), (f.rl.toNat, 8), (f.scope.toNat, 4)] g)
  | .cas d a b f _ g => some (seqWord 0x1F [(d.toNat, 21), (a.toNat, 16), (b.toNat, 11), (f.sz.toNat, 10), (f.aq.toNat, 9), (f.rl.toNat, 8), (f.scope.toNat, 4)] g)
  | .fence scope _ g => some (seqWord 0x20 [(scope.toNat, 22)] g)
  | .publish d a scope _ g => some (seqWord 0x21 [(d.toNat, 21), (a.toNat, 16), (scope.toNat, 12)] g)
  | .wrdCore d a b _ g => some (seqWord 0x22 [(d.toNat, 21), (a.toNat, 16), (b.toNat, 11)] g)
  | .wflCore d a b _ g => some (seqWord 0x22 [(d.toNat, 21), (a.toNat, 16), (b.toNat, 11), (1, 3)] g)
  | .wshrCore d a b _ g => some (seqWord 0x22 [(d.toNat, 21), (a.toNat, 16), (b.toNat, 11), (2, 3)] g)
  | .wstCore d a b _ g => some (seqWord 0x22 [(d.toNat, 21), (a.toNat, 16), (b.toNat, 11), (3, 3)] g)
  | .wrdLocal d imm m g => some (seqWord 0x22 [(d.toNat, 21), (imm.toNat, 9), (m.toNat, 6), (4, 3)] g)
  | .wflLocal d imm m g => some (seqWord 0x22 [(d.toNat, 21), (imm.toNat, 9), (m.toNat, 6), (5, 3)] g)
  | .wstLocal d imm m g => some (seqWord 0x22 [(d.toNat, 21), (imm.toNat, 9), (m.toNat, 6), (7, 3)] g)
  | .wshrLocal imm m _ g => some (seqWord 0x22 [(imm.toNat, 9), (m.toNat, 6), (6, 3)] g)
  | .sbind d a t slot g => some (seqWord 0x23 [(d.toNat, 21), (a.toNat, 16), (t.toNat, 7), (slot.toNat, 5)] g)
  | .sgo d a t slot g => some (seqWord 0x23 [(d.toNat, 21), (a.toNat, 16), (t.toNat, 7), (slot.toNat, 5), (1, 3)] g)
  | .sstop d a t slot g => some (seqWord 0x23 [(d.toNat, 21), (a.toNat, 16), (t.toNat, 7), (slot.toNat, 5), (2, 3)] g)
  | .sbar d a t slot g => some (seqWord 0x23 [(d.toNat, 21), (a.toNat, 16), (t.toNat, 7), (slot.toNat, 5), (3, 3)] g)
  | .cfgLoad d a _ g => some (seqWord 0x24 [(d.toNat, 21), (a.toNat, 16)] g)
  | .cfgShadow d a _ g => some (seqWord 0x24 [(d.toNat, 21), (a.toNat, 16), (1, 3)] g)
  | .cfgSwap d a _ g => some (seqWord 0x24 [(d.toNat, 21), (a.toNat, 16), (2, 3)] g)
  | .cfgDrain d a _ g => some (seqWord 0x24 [(d.toNat, 21), (a.toNat, 16), (3, 3)] g)
  | .cfgPhase d a _ g => some (seqWord 0x24 [(d.toNat, 21), (a.toNat, 16), (4, 3)] g)
  | .cfgSig d a _ g => some (seqWord 0x24 [(d.toNat, 21), (a.toNat, 16), (5, 3)] g)
  | .taskFill a b m _ g => some (seqWord 0x25 [(a.toNat, 16), (b.toNat, 11), (m.toNat, 8)] g)
  | .taskTake d a b m _ g => some (seqWord 0x25 [(d.toNat, 21), (a.toNat, 16), (b.toNat, 11), (m.toNat, 8), (1, 3)] g)
  | .taskSteal d a b m _ g => some (seqWord 0x25 [(d.toNat, 21), (a.toNat, 16), (b.toNat, 11), (m.toNat, 8), (2, 3)] g)
  | .taskDone d a b m _ g => some (seqWord 0x25 [(d.toNat, 21), (a.toNat, 16), (b.toNat, 11), (m.toNat, 8), (3, 3)] g)
  | .launch d a b m _ g => some (seqWord 0x25 [(d.toNat, 21), (a.toNat, 16), (b.toNat, 11), (m.toNat, 8), (4, 3)] g)
  | .xlat d a scope all _ g => some (seqWord 0x26 [(d.toNat, 21), (a.toNat, 16), (scope.toNat, 12), (all.toNat, 11)] g)
  | .tlbinv d a scope all _ g => some (seqWord 0x26 [(d.toNat, 21), (a.toNat, 16), (scope.toNat, 12), (all.toNat, 11), (1, 3)] g)
  | .relatch d a scope all _ g => some (seqWord 0x26 [(d.toNat, 21), (a.toNat, 16), (scope.toNat, 12), (all.toNat, 11), (2, 3)] g)
  | .lantReq d a _ g => some (seqWord 0x27 [(d.toNat, 21), (a.toNat, 16)] g)
  | .lantRel d a _ g => some (seqWord 0x27 [(d.toNat, 21), (a.toNat, 16), (1, 3)] g)
  | .netWrite d a b _ g => some (seqWord 0x28 [(d.toNat, 21), (a.toNat, 16), (b.toNat, 11)] g)
  | .netRead d a b _ g => some (seqWord 0x28 [(d.toNat, 21), (a.toNat, 16), (b.toNat, 11), (1, 3)] g)
  | .netSend d a b _ g => some (seqWord 0x28 [(d.toNat, 21), (a.toNat, 16), (b.toNat, 11), (2, 3)] g)
  | .netStat d a b _ g => some (seqWord 0x28 [(d.toNat, 21), (a.toNat, 16), (b.toNat, 11), (3, 3)] g)
  | .netBind d a b _ g => some (seqWord 0x28 [(d.toNat, 21), (a.toNat, 16), (b.toNat, 11), (4, 3)] g)
  | .csrr d a csr g => some (seqWord 0x29 [(d.toNat, 21), (a.toNat, 16), (csr.toNat, 6)] g)
  | .csrw a csr _ g => some (seqWord 0x29 [(a.toNat, 16), (csr.toNat, 6), (1, 3)] g)
  | .time d _ g => some (seqWord 0x29 [(d.toNat, 21), (2, 3)] g)
  | _ => none

/-- The word of an instruction that has one. -/
def encode (i : Instr) : Option Code :=
  match stageOpcode i with
  | some (op, f) => some (stageWord op f)
  | none => encodeSeq i

/-! ## Words without a context -/

/-- The fixed bits of the stage rows of spec/opcode_table.json, by opcode: mask and match of bits 25:0. -/
def stageFixed (op : Nat) : Nat × Nat :=
  match op with
  | 0x00 => (0x000078F, 0x0000000)
  | 0x01 => (0x01FFF8F, 0x01FF800)
  | 0x02 => (0x01FFF8F, 0x01FF800)
  | 0x03 => (0x000078F, 0x0000000)
  | 0x04 => (0x000F88F, 0x000F800)
  | 0x05 => (0x000F88F, 0x000F800)
  | 0x06 => (0x000F88F, 0x000F880)
  | 0x07 => (0x000008F, 0x0000080)
  | 0x08 => (0x000FF8F, 0x000F800)
  | 0x09 => (0x000FF8F, 0x000F800)
  | 0x0A => (0x000FF8F, 0x000F800)
  | 0x0B => (0x000FF8F, 0x000F800)
  | 0x0C => (0x000F88F, 0x000F800)
  | 0x0D => (0x000FF8F, 0x000F800)
  | 0x0E => (0x000FF8F, 0x000F800)
  | 0x0F => (0x000F88F, 0x000F800)
  | 0x10 => (0x000FF8F, 0x000F800)
  | 0x11 => (0x000FF8F, 0x000F800)
  | 0x12 => (0x01FFF8F, 0x01FF800)
  | 0x13 => (0x01FFF8F, 0x01FF800)
  | 0x14 => (0x000F88F, 0x000F800)
  | 0x15 => (0x000F88F, 0x000F800)
  | 0x16 => (0x000F88F, 0x000F880)
  | 0x17 => (0x000008F, 0x0000080)
  | 0x18 => (0x000008F, 0x0000080)
  | 0x19 => (0x000FF8F, 0x000F800)
  | 0x1A => (0x000FF8F, 0x000F800)
  | 0x1B => (0x01FFF8F, 0x01FF800)
  | 0x1C => (0x01FFF8F, 0x01FF800)
  | 0x1D => (0x000F88F, 0x000F800)
  | 0x1E => (0x01FFF8F, 0x01FF800)
  | 0x1F => (0x01FF88F, 0x01FF800)
  | 0x20 => (0x01FFF8F, 0x01FF800)
  | 0x21 => (0x01FFF8F, 0x01FF800)
  | 0x22 => (0x01FF88F, 0x01FF880)
  | 0x23 => (0x01FF88F, 0x01FF880)
  | 0x24 => (0x000F88F, 0x000F800)
  | 0x25 => (0x01FF88E, 0x01FF800)
  | 0x26 => (0x01FF88F, 0x01FF800)
  | 0x27 => (0x01FF880, 0x01FF800)
  | 0x28 => (0x0000080, 0x0000080)
  | 0x29 => (0x000F880, 0x000F880)
  | 0x2A => (0x01FF880, 0x01FF800)
  | 0x2B => (0x01FF880, 0x01FF800)
  | 0x2C => (0x01FF880, 0x01FF800)
  | 0x2D => (0x000FC80, 0x000F800)
  | 0x2E => (0x000078F, 0x0000000)
  | 0x2F => (0x0000080, 0x0000000)
  | 0x30 => (0x000F880, 0x000F800)
  | 0x31 => (0x01FFC8F, 0x01FF800)
  | 0x32 => (0x000F88F, 0x000F800)
  | 0x33 => (0x01FFC8F, 0x01FF800)
  | 0x34 => (0x000FF8E, 0x000F800)
  | 0x35 => (0x01FF88F, 0x01FF800)
  | 0x36 => (0x000FF80, 0x000F800)
  | 0x37 => (0x000F880, 0x000F800)
  | 0x38 => (0x000FF8F, 0x000F800)
  | 0x39 => (0x000078F, 0x0000000)
  | 0x3A => (0x000F88F, 0x000F800)
  | 0x3B => (0x01FFF80, 0x01FF800)
  | 0x3C => (0x000FF80, 0x000F800)
  | 0x3D => (0x01FFF8F, 0x01FF800)
  | _ => (0, 1)

/-- The word has the fixed bits that the opcode table gives the stage row of its opcode. -/
def stageCanonical (w : Code) : Bool :=
  let (mask, value) := stageFixed (bitsOf w.toNat 26 6)
  (w.toNat &&& mask) == value

/-- How many bits of a 26-bit mask are set: how exactly a row of the opcode table fixes a word. -/
def maskWeight : Nat → Nat → Nat
  | 0, _ => 0
  | n + 1, m => m % 2 + maskWeight n (m / 2)

/-- How many of bits 25:0 the opcode table fixes for the sequencer row that this word decodes to, where the word has the form that
the row gives (every field that must be 0 is 0, no reserved code). -/
def seqWeight : Instr → Option Nat
  | .seqNop .plain false _ => some 23
  | .halt false _ => some 23
  | .wfe false _ => some 23
  | .yield false _ => some 23
  | .ret _ false _ => some 18
  | .eret false _ => some 23
  | .trap _ false _ => some 8
  | .exitr _ false _ => some 18
  | .exitWord _ _ => some 0
  | .call _ _ _ => some 0
  | .add _ _ _ false _ => some 8
  | .sub _ _ _ false _ => some 8
  | .mul _ _ _ false _ => some 8
  | .mulh _ _ _ false _ => some 8
  | .mulhu _ _ _ false _ => some 8
  | .div _ _ _ false _ => some 8
  | .divu _ _ _ false _ => some 8
  | .rem _ _ _ false _ => some 8
  | .remu _ _ _ false _ => some 8
  | .andW _ _ _ false _ => some 8
  | .orW _ _ _ false _ => some 8
  | .xorW _ _ _ false _ => some 8
  | .shl _ _ _ false _ => some 8
  | .shr _ _ _ false _ => some 8
  | .sra _ _ _ false _ => some 8
  | .minW _ _ _ false _ => some 8
  | .maxW _ _ _ false _ => some 8
  | .minu _ _ _ false _ => some 8
  | .maxu _ _ _ false _ => some 8
  | .clz _ _ _ false _ => some 8
  | .ctz _ _ _ false _ => some 8
  | .popc _ _ _ false _ => some 8
  | .seqSel _ _ _ _ _ => some 5
  | .addi _ _ _ _ => some 0
  | .andi _ _ _ _ => some 0
  | .ori _ _ _ _ => some 0
  | .xori _ _ _ _ => some 0
  | .shli _ _ _ false _ => some 7
  | .shri _ _ _ false _ => some 7
  | .srai _ _ _ false _ => some 7
  | .li _ _ _ => some 0
  | .lui _ _ _ _ => some 0
  | .lea _ _ _ => some 0
  | .cmp _ _ _ _ false _ => some 7
  | .pand _ _ _ false _ => some 14
  | .por _ _ _ false _ => some 14
  | .pnot _ _ false _ => some 17
  | .widGet _ _ _ false _ => some 10
  | .widSet _ _ _ false _ => some 10
  | .ld _ _ _ _ _ _ => some 0
  | .st _ _ _ 0 _ _ => some 1
  | .ldx _ _ _ _ _ _ _ => some 0
  | .verase _ false _ => some 18
  | .amoAdd _ _ _ _ false _ => some 1
  | .amoAnd _ _ _ _ false _ => some 1
  | .amoOr _ _ _ _ false _ => some 1
  | .amoXor _ _ _ _ false _ => some 1
  | .amoMin _ _ _ _ false _ => some 1
  | .amoMax _ _ _ _ false _ => some 1
  | .amoMinu _ _ _ _ false _ => some 1
  | .amoMaxu _ _ _ _ false _ => some 1
  | .amoSwap _ _ _ _ false _ => some 1
  | .cas _ _ _ _ false _ => some 1
  | .fence _ false _ => some 19
  | .publish _ _ _ false _ => some 9
  | .wrdLocal _ _ _ _ => some 3
  | .wflLocal _ _ _ _ => some 3
  | .wshrLocal _ _ false _ => some 8
  | .wstLocal _ _ _ _ => some 3
  | .wrdCore _ _ _ false _ => some 8
  | .wflCore _ _ _ false _ => some 8
  | .wshrCore _ _ _ false _ => some 8
  | .wstCore _ _ _ false _ => some 8
  | .sbind _ _ _ _ _ => some 2
  | .sgo _ _ _ _ _ => some 2
  | .sstop _ _ _ _ _ => some 2
  | .sbar _ _ _ _ _ => some 2
  | .cfgLoad _ _ false _ => some 13
  | .cfgShadow _ _ false _ => some 13
  | .cfgSwap _ _ false _ => some 13
  | .cfgDrain _ _ false _ => some 13
  | .cfgPhase _ _ false _ => some 13
  | .cfgSig _ _ false _ => some 13
  | .taskFill _ _ _ false _ => some 10
  | .taskTake _ _ _ _ false _ => some 5
  | .taskSteal _ _ _ _ false _ => some 5
  | .taskDone _ _ _ _ false _ => some 5
  | .launch _ _ _ _ false _ => some 5
  | .xlat _ _ _ _ false _ => some 8
  | .tlbinv _ _ _ _ false _ => some 8
  | .relatch _ _ _ _ false _ => some 8
  | .lantReq _ _ false _ => some 13
  | .lantRel _ _ false _ => some 13
  | .netWrite _ _ _ false _ => some 8
  | .netRead _ _ _ false _ => some 8
  | .netSend _ _ _ false _ => some 8
  | .netStat _ _ _ false _ => some 8
  | .netBind _ _ _ false _ => some 8
  | .csrr _ _ _ _ => some 3
  | .csrw _ _ false _ => some 8
  | .time _ false _ => some 18
  | _ => none

/-- The instruction of a word that comes without its place. A word is a stage word in a handler record and a sequencer word in a block,
and the two spaces overlap; without a place, the row of the opcode table that the word fits and that fixes the most bits is taken, the
sequencer's where the two fix equally many (log 5). The machine itself never uses this: it knows where a word stands. -/
def decodeAnywhere (w : Code) : Option Instr :=
  let stageFit : Option Nat := if stageCanonical w then some (maskWeight 26 (stageFixed (bitsOf w.toNat 26 6)).1) else none
  match decodeSeq w with
  | .error _ => some (decodeStage w)
  | .ok i =>
    match seqWeight i, stageFit with
    | some n, some m => if m ≤ n then some i else some (decodeStage w)
    | some _, none => some i
    | none, some _ => some (decodeStage w)
    | none, none => some i

/-- The instruction that the decoder reads from nbits bits w, numbered as the opcode table numbers them. Every word of the module is one
32-bit word, stored with its least significant byte first, so the bits are those of the word. Fewer than 32 bits are completed with
zeros, more are no instruction, and none are none. -/
def decodeTableWord (nbits w : Nat) : Option Instr :=
  if nbits = 0 ∨ 32 < nbits ∨ 2 ^ nbits ≤ w then none else decodeAnywhere (BitVec.ofNat 32 w)

end Sys2Proof
end

