-- ==== Sys2Proof/Machine/Ff36.lean ====
section
/-! DEFINITION. FF36 and INT36 arithmetic: the values of words, exact arithmetic, rounding and saturation (spec 02 R12-R26; storage formats
R15, R158). Exact values are dyadic numbers; where a value is not dyadic it is given by its floor on a grid and a sticky mark. -/

namespace Sys2Proof.Machine

/-! ## Values -/

/-- The value of a float word: NaN, a signed infinity, or a sign, a magnitude m and an exponent e for m × 2^e (R13). -/
inductive FVal where
  | nan
  | inf (neg : Bool)
  | fin (neg : Bool) (m : Nat) (e : Int)
  deriving DecidableEq, Repr

/-- A positive magnitude: m × 2^e exactly, or strictly between it and (m + 1) × 2^e when sticky. -/
structure Mag where
  m : Nat
  e : Int
  sticky : Bool
  deriving DecidableEq, Repr

/-- A value carried with the AFLG bits that forming it sets (R22): OVF 1, SAT 2, INV 4. -/
structure Flagged where
  val : Lane
  flags : Lane
  deriving DecidableEq, Repr

def flagOVF : Lane := 1
def flagSAT : Lane := 2
def flagINV : Lane := 4

/-- The canonical NaN (R14). -/
def qnan : Lane := 0x7FF000000

/-- A float format: exponent bits and fraction bits; the bias is 2^(eb - 1) - 1. -/
structure FFormat where
  eb : Nat
  fb : Nat
  deriving DecidableEq, Repr

def ff36 : FFormat := ⟨10, 25⟩
def fp32 : FFormat := ⟨8, 23⟩
def bf16 : FFormat := ⟨8, 7⟩
def fp16 : FFormat := ⟨5, 10⟩

def FFormat.bias (f : FFormat) : Int := 2 ^ (f.eb - 1) - 1
/-- The exponent field of infinities and NaNs. -/
def FFormat.top (f : FFormat) : Nat := 2 ^ f.eb - 1
/-- The exponent of the last place of subnormals: 2^-535 for FF36 (R19). -/
def FFormat.low (f : FFormat) : Int := 1 - f.bias - f.fb

/-- The value of a word of a format (R13, R15). -/
def FFormat.value (f : FFormat) (w : Nat) : FVal :=
  let frac := bitsOf w 0 f.fb
  let ex := bitsOf w f.fb f.eb
  let neg := bitsOf w (f.fb + f.eb) 1 == 1
  if ex = f.top then (if frac = 0 then .inf neg else .nan)
  else if ex = 0 then .fin neg frac f.low
  else .fin neg (frac + 2 ^ f.fb) (f.low + (ex : Int) - 1)

/-- ff(w) of R13. -/
def ff (w : Lane) : FVal := ff36.value w.toNat

/-- The word with sign, exponent field and fraction. -/
def FFormat.word (f : FFormat) (neg : Bool) (ex frac : Nat) : Nat :=
  (if neg then 2 ^ (f.eb + f.fb) else 0) + ex * 2 ^ f.fb + frac

def FFormat.zero (f : FFormat) (neg : Bool) : Nat := f.word neg 0 0
def FFormat.infinity (f : FFormat) (neg : Bool) : Nat := f.word neg f.top 0
def FFormat.largest (f : FFormat) (neg : Bool) : Nat := f.word neg (f.top - 1) (2 ^ f.fb - 1)
def FFormat.qnan (f : FFormat) : Nat := f.word false f.top (2 ^ (f.fb - 1))

/-! ## Rounding -/

/-- The rounding modes of R18. -/
inductive RMode where
  | rne | rtz | rup | rdn
  deriving DecidableEq, Repr

/-- The mode of a rounding code; the reserved codes round as RNE (R18). -/
def rmode (code : Nat) : RMode :=
  match code with
  | 1 => .rtz
  | 2 => .rup
  | 3 => .rdn
  | _ => .rne

/-- A rounding code that R18 calls reserved. -/
def rmodeReserved (code : Nat) : Bool := 4 ≤ code

/-- Whether a magnitude with floor q on the grid and the rest rest/2^sh (and sticky) is rounded away from zero. -/
def roundsUp (mode : RMode) (neg : Bool) (q rest sh : Nat) (sticky : Bool) : Bool :=
  let inexact := rest != 0 || sticky
  match mode with
  | .rtz => false
  | .rup => inexact && !neg
  | .rdn => inexact && neg
  | .rne =>
    let half := 2 ^ sh
    if 2 * rest < half then false else if half < 2 * rest then true else if sticky then true else decide (q % 2 = 1) && rest != 0

/-- A magnitude rounded to a multiple of 2^g: the multiple. -/
def roundToGrid (mode : RMode) (neg : Bool) (x : Mag) (g : Int) : Nat :=
  if g ≤ x.e then
    let q := x.m * 2 ^ (x.e - g).toNat
    if x.sticky && roundsUp mode neg q 0 1 true && mode != .rne then q + 1 else q
  else
    let sh := (g - x.e).toNat
    let q := x.m / 2 ^ sh
    if roundsUp mode neg q (x.m % 2 ^ sh) sh x.sticky then q + 1 else q

/-- The exponent of the leading bit of a magnitude that is not 0. -/
def Mag.binade (x : Mag) : Int := x.e + (Nat.log2 x.m : Int)

/-- A magnitude that is not 0, rounded into a format (R19): the word, and whether the rounded magnitude exceeds the largest finite one.
A magnitude far below the smallest subnormal is replaced by another such one, which rounds alike. -/
def FFormat.round (f : FFormat) (mode : RMode) (neg : Bool) (x : Mag) : Nat × Bool :=
  let b := x.binade
  let x' : Mag := if b < f.low - 3 then ⟨1, f.low - 3, true⟩ else x
  let g := max (x'.binade - f.fb) f.low
  let q := roundToGrid mode neg x' g
  if q = 0 then (f.zero neg, false)
  else
    let (q, g) := if q = 2 ^ (f.fb + 1) then (2 ^ f.fb, g + 1) else (q, g)
    if q < 2 ^ f.fb then (f.word neg 0 q, false)
    else
      let ex := g - f.low + 1
      if (f.top : Int) ≤ ex then
        ((match mode with
          | .rne => f.infinity neg
          | .rtz => f.largest neg
          | .rup => if neg then f.largest neg else f.infinity neg
          | .rdn => if neg then f.infinity neg else f.largest neg), true)
      else (f.word neg ex.toNat (q - 2 ^ f.fb), false)

/-- rnd36 of a magnitude with a sign that is not 0 (R19). -/
def rnd36 (mode : RMode) (neg : Bool) (x : Mag) : Flagged :=
  let (w, ovf) := ff36.round mode neg x
  ⟨BitVec.ofNat 36 w, if ovf then flagOVF else 0⟩

/-- The zero of a sign. -/
def zero36 (neg : Bool) : Lane := BitVec.ofNat 36 (ff36.zero neg)
/-- The infinity of a sign. -/
def inf36 (neg : Bool) : Lane := BitVec.ofNat 36 (ff36.infinity neg)

/-- rnd36 of a dyadic number with a sign, which names the zero delivered when the number is 0. -/
def rndFin (mode : RMode) (neg : Bool) (m : Nat) (e : Int) : Flagged :=
  if m = 0 then ⟨zero36 neg, 0⟩ else rnd36 mode neg ⟨m, e, false⟩

/-- An exact integer times 2^e: sign and magnitude. -/
def finOfInt (n : Int) (e : Int) : FVal := .fin (decide (n < 0)) n.natAbs e

/-- The integer numerator of a signed magnitude over 2^g, for g at most its exponent. -/
def scaledTo (neg : Bool) (m : Nat) (e g : Int) : Int :=
  let n : Int := (m * 2 ^ (e - g).toNat : Nat)
  if neg then -n else n

/-! ## Exact operations on values (R19 to R21, R62) -/

/-- The exact product, NaN with INV for zero times infinity (R21). -/
def mulVal : FVal → FVal → FVal × Bool
  | .nan, _ => (.nan, false)
  | _, .nan => (.nan, false)
  | .inf s, .inf t => (.inf (s != t), false)
  | .inf s, .fin t m _ => if m = 0 then (.nan, true) else (.inf (s != t), false)
  | .fin s m _, .inf t => if m = 0 then (.nan, true) else (.inf (s != t), false)
  | .fin s m e, .fin t n f => (.fin (s != t) (m * n) (e + f), false)

/-- The negation of a value. -/
def negVal : FVal → FVal
  | .nan => .nan
  | .inf s => .inf (!s)
  | .fin s m e => .fin (!s) m e

/-- The sum of two values rounded into a format (R19, R62): the word, OVF and INV. Signed zeros as R19 gives. -/
def FFormat.sum (f : FFormat) (mode : RMode) (x y : FVal) : Nat × Bool × Bool :=
  match x, y with
  | .nan, _ => (f.qnan, false, false)
  | _, .nan => (f.qnan, false, false)
  | .inf s, .inf t => if s = t then (f.infinity s, false, false) else (f.qnan, false, true)
  | .inf s, .fin .. => (f.infinity s, false, false)
  | .fin .., .inf t => (f.infinity t, false, false)
  | .fin s m e, .fin t n d =>
    let g := min e d
    let z := scaledTo s m e g + scaledTo t n d g
    if z = 0 then
      (if m = 0 ∧ n = 0 ∧ s = t then f.zero s else f.zero (mode == .rdn), false, false)
    else
      let (w, ovf) := f.round mode (decide (z < 0)) ⟨z.natAbs, g, false⟩
      (w, ovf, false)

/-- The sum of two values as an FF36 word with its flags. -/
def sumVal (mode : RMode) (x y : FVal) : Flagged :=
  let (w, ovf, inv) := ff36.sum mode x y
  ⟨BitVec.ofNat 36 w, (if ovf then flagOVF else 0) ||| (if inv then flagINV else 0)⟩

/-- A value rounded once to an FF36 word (R19). -/
def roundVal (mode : RMode) : FVal → Flagged
  | .nan => ⟨qnan, 0⟩
  | .inf s => ⟨inf36 s, 0⟩
  | .fin s m e => rndFin mode s m e

/-- `fadd` of R62. -/
def faddOp (mode : RMode) (a b : Lane) : Flagged := sumVal mode (ff a) (ff b)
/-- `fsub` of R62. -/
def fsubOp (mode : RMode) (a b : Lane) : Flagged := sumVal mode (ff a) (negVal (ff b))
/-- A product rounded once, with INV for zero times infinity (R62). -/
def mulRound (mode : RMode) (x y : FVal) : Flagged :=
  let (p, inv) := mulVal x y
  let r := roundVal mode p
  ⟨r.val, r.flags ||| (if inv then flagINV else 0)⟩
/-- `fmul` of R62. -/
def fmulOp (mode : RMode) (a b : Lane) : Flagged := mulRound mode (ff a) (ff b)
/-- A fused multiply and add of values (R20, R62): a NaN operand gives the canonical NaN without a flag. -/
def fusedVal (mode : RMode) (x y z : FVal) : Flagged :=
  if x = .nan ∨ y = .nan ∨ z = .nan then ⟨qnan, 0⟩
  else
    let (p, inv) := mulVal x y
    if inv then ⟨qnan, flagINV⟩ else sumVal mode p z
/-- `fma` of R62. -/
def fmaOp (mode : RMode) (a b c : Lane) : Flagged := fusedVal mode (ff a) (ff b) (ff c)
/-- `fms` of R62. -/
def fmsOp (mode : RMode) (a b c : Lane) : Flagged := fusedVal mode (ff a) (ff b) (negVal (ff c))

/-- `fscale` of R63: the exponent is used in full. -/
def fscaleOp (mode : RMode) (a b : Lane) : Flagged :=
  match ff a with
  | .nan => ⟨qnan, 0⟩
  | .inf _ => ⟨a, 0⟩
  | .fin s m e => if m = 0 then ⟨a, 0⟩ else rnd36 mode s ⟨m, e + b.toInt, false⟩

/-! ## Comparison -/

/-- The sign bit of a float word. -/
def signBit (w : Lane) : Bool := w.getLsbD 35

def isNan (w : Lane) : Bool := ff w == .nan
def isInf (w : Lane) : Bool := match ff w with | .inf _ => true | _ => false

/-- A number that orders the words that are not NaN as R64 does: −infinity < negative < −0 < +0 < positive < +infinity. -/
def orderKey (w : Lane) : Int :=
  let mag : Int := (bitsOf w.toNat 0 35 : Nat)
  if signBit w then -mag - 1 else mag

/-- ff(a) < ff(b) for words that are not NaN; the two zeros are equal (R66). -/
def fltOp (a b : Lane) : Bool :=
  let z (w : Lane) : Int := if bitsOf w.toNat 0 35 = 0 then 0 else orderKey w
  decide (z a < z b)

/-- `fmax` of R64. -/
def fmaxOp (a b : Lane) : Lane :=
  if isNan a then (if isNan b then qnan else b) else if isNan b then a else if orderKey a < orderKey b then b else a
/-- `fmin` of R64. -/
def fminOp (a b : Lane) : Lane :=
  if isNan a then (if isNan b then qnan else b) else if isNan b then a else if orderKey b < orderKey a then b else a
/-- `fabs` of R65. -/
def fabsOp (a : Lane) : Lane := if isNan a then qnan else a &&& 0x7FFFFFFFF
/-- `fneg` of R65. -/
def fnegOp (a : Lane) : Lane := if isNan a then qnan else a ^^^ 0x800000000

/-- The condition of `fcmp` (R47, R66). -/
def fcmpOp (cond : Nat) (a b : Lane) : Bool :=
  let un := isNan a || isNan b
  let lt := fltOp a b
  let gt := fltOp b a
  match cond with
  | 0 => !un && !lt && !gt
  | 1 => un || lt || gt
  | 2 => !un && lt
  | 3 => !un && !gt
  | 4 => !un && gt
  | 5 => !un && !lt
  | 6 => un
  | _ => !un

/-- The class bit of `fclass` (R67). -/
def fclassOp (a : Lane) : Lane :=
  let bit (n : Nat) : Lane := BitVec.ofNat 36 (2 ^ n)
  let ex := bitsOf a.toNat 25 10
  let frac := bitsOf a.toNat 0 25
  let neg := signBit a
  if ex = 1023 then
    (if frac = 0 then (if neg then bit 0 else bit 7) else if a = qnan then bit 8 else bit 9)
  else if ex = 0 then
    (if frac = 0 then (if neg then bit 3 else bit 4) else if neg then bit 2 else bit 5)
  else if neg then bit 1 else bit 6

/-! ## INT36 (R16) -/

def int36Max : Int := 2 ^ 35 - 1
def int36Min : Int := -(2 ^ 35)
def int32Max : Int := 2 ^ 31 - 1
def int32Min : Int := -(2 ^ 31)

/-- The saturation modifiers of R16. -/
inductive Sat where
  | wrap | sat32 | sat36
  deriving DecidableEq, Repr

/-- An integer clamped to a range, with SAT when the clamp changes it. -/
def clampInt (lo hi n : Int) : Flagged :=
  if n < lo then ⟨BitVec.ofInt 36 lo, flagSAT⟩ else if hi < n then ⟨BitVec.ofInt 36 hi, flagSAT⟩ else ⟨BitVec.ofInt 36 n, 0⟩

/-- satm(n, m) of R16. -/
def satm (m : Sat) (n : Int) : Flagged :=
  match m with
  | .wrap => ⟨BitVec.ofInt 36 n, 0⟩
  | .sat32 => clampInt int32Min int32Max n
  | .sat36 => clampInt int36Min int36Max n

/-- The modifier of a MOD code of the integer stages; the reserved codes act as wrap (R47, R58). -/
def satOf (code : Nat) : Sat :=
  match code with
  | 1 => .sat32
  | 2 => .sat36
  | _ => .wrap

/-! ## Rounding to integers -/

/-- A finite value rounded to an integer in a mode (R68, R70). -/
def roundInt (mode : RMode) (neg : Bool) (m : Nat) (e : Int) : Int :=
  let q : Int := (roundToGrid mode neg ⟨m, e, false⟩ 0 : Nat)
  if neg then -q else q

/-- `frnd` of R68: a result of zero keeps the sign of the operand. -/
def frndOp (mode : RMode) (a : Lane) : Lane :=
  match ff a with
  | .nan => qnan
  | .inf _ => a
  | .fin s m e =>
    if 0 ≤ e then a
    else
      let n := (roundInt mode s m e).natAbs
      (rndFin .rne s n 0).val

/-- `cvt.fi` of R70. -/
def cvtFiOp (mode : RMode) (sat : Sat) (a : Lane) : Flagged :=
  match ff a with
  | .nan => ⟨0, flagINV⟩
  | .inf s =>
    let hi := if sat = .sat32 then int32Max else int36Max
    let lo := if sat = .sat32 then int32Min else int36Min
    ⟨BitVec.ofInt 36 (if s then lo else hi), flagSAT⟩
  | .fin s m e =>
    if 64 < e ∧ m ≠ 0 then satm sat (if s then -(2 ^ 64) else 2 ^ 64)
    else satm sat (roundInt mode s m e)

/-- `cvt.if` of R71. -/
def cvtIfOp (mode : RMode) (a : Lane) : Flagged := rndFin mode (decide (a.toInt < 0)) a.toInt.natAbs 0

/-! ## The approximation stages (R24 to R26) -/

/-- The floor of the square root of n, built bit by bit from bit k downwards onto r. -/
def isqrtFrom (n : Nat) : Nat → Nat → Nat
  | 0, r => r
  | k + 1, r =>
    let r' := r + 2 ^ k
    isqrtFrom n k (if r' * r' ≤ n then r' else r)

/-- The floor of the square root. -/
def isqrt (n : Nat) : Nat := isqrtFrom n (Nat.log2 n / 2 + 1) 0

/-- rsig8 of R24: 8 significand bits, ties to even, no exponent limit: a multiple of a power of two. -/
def rsig8 (x : Mag) : Nat × Int :=
  let g := x.binade - 7
  (roundToGrid .rne false x g, g)

/-- 1/(m × 2^e), with at least 16 bits and a sticky mark. -/
def recipMag (m : Nat) (e : Int) : Mag :=
  let k := Nat.log2 m + 18
  ⟨2 ^ k / m, -e - k, 2 ^ k % m != 0⟩

/-- 1/√(m × 2^e), with at least 16 bits and a sticky mark. -/
def rsqrtMag (m : Nat) (e : Int) : Mag :=
  let (m, e) := if e % 2 = 0 then (m, e) else (2 * m, e - 1)
  let k := Nat.log2 m + 18
  let s := isqrt (2 ^ (2 * k) / m)
  ⟨s, -(e / 2) - k, s * s * m != 2 ^ (2 * k)⟩

/-- `frcp` of R24. -/
def frcpOp (a : Lane) : Flagged :=
  match ff a with
  | .nan => ⟨qnan, 0⟩
  | .inf s => ⟨zero36 s, 0⟩
  | .fin s m e =>
    if m = 0 then ⟨inf36 s, 0⟩
    else
      let (q, g) := rsig8 (recipMag m e)
      rnd36 .rne s ⟨q, g, false⟩

/-- `frsq` of R24. -/
def frsqOp (a : Lane) : Flagged :=
  match ff a with
  | .nan => ⟨qnan, 0⟩
  | .inf s => if s then ⟨qnan, flagINV⟩ else ⟨zero36 false, 0⟩
  | .fin s m e =>
    if m = 0 then ⟨inf36 s, 0⟩
    else if s then ⟨qnan, flagINV⟩
    else
      let (q, g) := rsig8 (rsqrtMag m e)
      rnd36 .rne false ⟨q, g, false⟩

/-- A number of the form m × 2^e that bounds another from below or above. -/
structure Bound where
  m : Nat
  e : Int
  deriving DecidableEq, Repr

/-- A lower bound (up false) or an upper bound (up true) of the square of what b bounds, with the mantissa cut to about 192 bits. -/
def Bound.square (up : Bool) (b : Bound) : Bound :=
  let n := b.m * b.m
  let sh := Nat.log2 n - 192
  ⟨n / 2 ^ sh + (if up && n % 2 ^ sh != 0 then 1 else 0), 2 * b.e + sh⟩

/-- A bound of the 2^t-th power. -/
def Bound.pow (up : Bool) : Nat → Bound → Bound
  | 0, b => b
  | t + 1, b => Bound.pow up t (b.square up)

/-- n × 2^e ≤ 2^p, without forming large powers. -/
def leTwoPow (n : Nat) (e p : Int) : Bool :=
  if n = 0 then true else if p < e then false else if (Nat.log2 n : Int) < p - e then true else decide (n = 2 ^ (p - e).toNat)

/-- (m × 2^e)^(2^t) ≤ 2^p, for m above 0. Bounds of the power decide it; where they do not, the power itself does. -/
def powLe (m : Nat) (e : Int) (t : Nat) (p : Int) : Bool :=
  let hi := Bound.pow true t ⟨m, e⟩
  let lo := Bound.pow false t ⟨m, e⟩
  if leTwoPow hi.m hi.e p then true
  else if !leTwoPow lo.m lo.e p then false
  else leTwoPow (m ^ 2 ^ t) (e * 2 ^ t) p

/-- The greatest r below r + 2^k that a downward-closed test allows, from r, which it allows. -/
def searchFrom (ok : Nat → Bool) : Nat → Nat → Nat
  | 0, r => r
  | k + 1, r =>
    let r' := r + 2 ^ k
    searchFrom ok k (if ok r' then r' else r)

/-- 2^(m × 2^-t) for an exponent that is not an integer, m and t above 0 and the exponent below 1: the floor of its 2^27-fold, which is
not the value, because the value is irrational. -/
def exp2Frac (m t : Nat) : Nat := searchFrom (fun r => powLe r (-27) t m) 27 (2 ^ 27)

/-- `fexp2` of R25. -/
def fexp2Op (mode : RMode) (a : Lane) : Flagged :=
  match ff a with
  | .nan => ⟨qnan, 0⟩
  | .inf s => ⟨if s then zero36 false else inf36 false, 0⟩
  | .fin s m e =>
    if m = 0 then rnd36 mode false ⟨1, 0, false⟩
    else if 10 < e + (Nat.log2 m : Int) then rnd36 mode false ⟨1, if s then -2048 else 2048, false⟩
    else if 0 ≤ e then
      let n : Int := (m * 2 ^ e.toNat : Nat)
      rnd36 mode false ⟨1, if s then -n else n, false⟩
    else
      let t := (-e).toNat
      let z : Int := if s then -(m : Int) else m
      let n := z / 2 ^ t
      let f := (z % 2 ^ t).toNat
      if f = 0 then rnd36 mode false ⟨1, n, false⟩ else rnd36 mode false ⟨exp2Frac f t, n - 27, true⟩

/-- log2 of a number m × 2^e that is not a power of two: sign, and the floor of the 2^60-fold of the magnitude. -/
def log2Irr (m : Nat) (e : Int) : Bool × Mag :=
  let neg := decide (e + (Nat.log2 m : Int) < 0)
  let ok (q : Nat) : Bool := if neg then powLe m e 60 (-(q : Int)) else !powLe m e 60 q
  (neg, ⟨searchFrom ok 71 0, -60, true⟩)

/-- `flog2` of R26. -/
def flog2Op (mode : RMode) (a : Lane) : Flagged :=
  match ff a with
  | .nan => ⟨qnan, 0⟩
  | .inf s => if s then ⟨qnan, flagINV⟩ else ⟨inf36 false, 0⟩
  | .fin s m e =>
    if m = 0 then ⟨inf36 true, 0⟩
    else if s then ⟨qnan, flagINV⟩
    else if m = 2 ^ Nat.log2 m then
      let n := e + (Nat.log2 m : Int)
      rndFin mode (decide (n < 0)) n.natAbs 0
    else
      let (neg, x) := log2Irr m e
      rnd36 mode neg x

/-! ## Storage conversions (R15, R158) -/

/-- A float word of a storage format as FF36 (R15). -/
def FFormat.toFf36 (f : FFormat) (w : Nat) : Lane :=
  match f.value w with
  | .nan => Machine.qnan
  | .inf s => inf36 s
  | .fin s m e => (rndFin .rne s m e).val

/-- An FF36 word rounded with RNE into a storage format, and whether the conversion changed the value (R158). DESIGN CHOICE (log 132): a finite value
beyond the largest finite one by less than half an ulp rounds to that one, as RNE gives. -/
def FFormat.ofFf36 (f : FFormat) (w : Lane) : Nat × Bool :=
  match ff w with
  | .nan => (f.qnan, false)
  | .inf s => (f.infinity s, false)
  | .fin s m e =>
    if m = 0 then (f.zero s, false)
    else
      let (v, _) := f.round .rne s ⟨m, e, false⟩
      (v, f.toFf36 v != w)

end Sys2Proof.Machine
end

