-- ==== Sys2Proof/Machine/Sparse.lean ====
section
/-! DEFINITION. Lists of key and value pairs with rising keys: how the floor, the stores and the tables of units are held. -/

namespace Sys2Proof.Machine

/-- The value at key k; an unlisted key reads as d. -/
def sparseGet {α : Type} (d : α) : List (Nat × α) → Nat → α
  | [], _ => d
  | (j, w) :: t, k => if j = k then w else if k < j then d else sparseGet d t k

/-- Put v at key k. -/
def sparsePut {α : Type} : List (Nat × α) → Nat → α → List (Nat × α)
  | [], k, v => [(k, v)]
  | (j, w) :: t, k, v =>
    if k < j then (k, v) :: (j, w) :: t else if j = k then (k, v) :: t else (j, w) :: sparsePut t k v

/-- The same operation on every value. -/
def sparseMap {α : Type} (f : α → α) (m : List (Nat × α)) : List (Nat × α) := m.map fun (k, v) => (k, f v)

/-- The entries of a list with keys above k, from the first such entry on. -/
def sparseAbove {α : Type} (k : Nat) : List (Nat × α) → List (Nat × α)
  | [] => []
  | (j, w) :: t => if j ≤ k then sparseAbove k t else (j, w) :: t

/-- Remove key k. -/
def sparseDrop {α : Type} : List (Nat × α) → Nat → List (Nat × α)
  | [], _ => []
  | (j, w) :: t, k => if k < j then (j, w) :: t else if j = k then sparseAbove k t else (j, w) :: sparseDrop t k

/-- Put v at key k in the canonical form in which no entry equals d: writing d removes the entry. -/
def sparseSet {α : Type} [DecidableEq α] (d : α) (m : List (Nat × α)) (k : Nat) (v : α) : List (Nat × α) :=
  if v = d then sparseDrop m k else sparsePut m k v

/-- The keys rise strictly from above lo. -/
def risingFrom {α : Type} : Nat → List (Nat × α) → Bool
  | _, [] => true
  | lo, (j, _) :: t => decide (lo ≤ j) && risingFrom (j + 1) t

/-- No entry equals d. -/
def noDefault {α : Type} [DecidableEq α] (d : α) : List (Nat × α) → Bool
  | [] => true
  | (_, w) :: t => decide (w ≠ d) && noDefault d t

end Sys2Proof.Machine
end

