-- ==== Sys2Proof/Config.lean ====
section
/-! DEFINITION. What the module record and the manual fix for the machine, and the values the manual leaves open. An `opaque` constant
has no body: no proof can see its value, so a theorem about it holds for every value. -/

namespace Sys2Proof.Config

/-- The part number in MID bits 63:32 (R336). -/
def part : BitVec 32 := 0x0E010001

/-- The serial number of the module record, MID bits 31:0 (R336): a free value. -/
opaque serial : BitVec 32

/-- The features that FEATO offers: bits 0 to 6 (R352). -/
def offeredFeatures : BitVec 128 := 0x7F

/-- The clock level at which the core clock is 3.0 GHz (R336, R356). -/
def nominalLevel : Nat := 16

/-- Lanterns of a die, at full and at the reduced budget (R351, R356). -/
def lanternBudget : Nat := 16384
def reducedLanternBudget : Nat := 8192

/-- The bypass limit after bring-up (R347). -/
def bypassLimit : Nat := 4

/-- What a byte of the floor that nothing has written reads as. DESIGN CHOICE (log 2): the manual gives no contents after power-up. -/
def emptyByte : Byte := 0

/-- Bytes 192 to 305 of an attestation quote: the Ed448 signature, over the 192 bytes it is given, by a key that the manual does not
give (R359): a free value. -/
opaque quoteSignature : List Byte → Vector Byte 114

/-- The SHAKE256 digests of the host-die firmware and of the module record that a quote carries (R359): free values, because
neither text is given. -/
opaque firmwareHash : Vector Byte 64
opaque recordHash : Vector Byte 64

/-- How many planes an elastic stream reads for one plane group in degraded operation (R167): a free value, brought into the range
that the rule allows by the step that uses it. -/
opaque elasticPlanes : Nat → Nat

/-- The completion settings of a queue, in the layout of L7 (R341): R338 lets a RESTORE name a queue whose settings apply, and no rule says
where a queue has them: a free value (log 45). -/
opaque queueSettings : Nat → Word

/-- A word of a congestion record that only acknowledgements give, before the first (R373): a free value. -/
opaque congestionWord : Nat → Word

/-- The port that an entropy value of a connection leads to (R360, R362): a free value, because the manual does not say how packets are sprayed. -/
opaque pathPort : Nat → Nat → Fin 16

/-- A word that the manual leaves open, one for each place where it does: a free value. -/
opaque freeWord : Nat → Word

end Sys2Proof.Config
end

