-- ==== Sys2Proof/Machine/State.lean ====
section
/-! DEFINITION. The state of the module as plain data: every piece of state the spec names (INVENTORY.md, '## State'), and the model's own
bookkeeping of what moves next (log 1). -/

namespace Sys2Proof.Machine

/-! ## Beats and windows -/

/-- A beat: sixteen lanes and the fields of its control word (R27). -/
structure Beat where
  lanes : Vector Lane 16
  /-- valid count, 0 to 16 -/
  count : Nat
  /-- marker code (R31) -/
  mark : BitVec 3
  graph : BitVec 2
  deriving DecidableEq, Repr

/-- Sixteen zero lanes, with the count and the marker given. -/
def Beat.blank (count : Nat) (mark : BitVec 3) : Beat := ⟨Vector.replicate 16 0, count, mark, 0⟩

/-- The state of a window (R123), with its swap point and drain point (R233, R270). A sequencer window uses HEAD, FILLED and DEBT. -/
structure WinState where
  head : Nat
  filled : Nat
  debt : Nat
  shrunk : Lane
  swapPoint : Option Nat
  drainPoint : Option Nat
  deriving DecidableEq, Repr

/-- The window state after binding an ordinary window (R123). -/
def WinState.init : WinState := ⟨0, 0, 0, 0, none, none⟩

/-! ## Handlers -/

/-- A handler record: H0 to H11 (R51). -/
abbrev HandlerRec := Vector Code 12

/-- One lane cell of an accumulator section (R79, R279). -/
structure LaneCell where
  s : Option Lane
  q : Vector (Option Lane) 4
  /-- pending TREE16 nodes of levels 0 to 3 -/
  node : Vector (Option Lane) 4
  /-- a level-0 leaf of `fmab` held as its two factors -/
  pair : Option (Lane × Lane)
  k : Nat
  deriving DecidableEq, Repr

/-- The empty lane cell. -/
def LaneCell.empty : LaneCell := ⟨none, Vector.replicate 4 none, Vector.replicate 4 none, none, 0⟩

/-- The boundary group state of R33 that an accumulating stage keeps (R79). -/
structure GroupState where
  isOpen : Bool
  rank : Nat
  reduced : Bool
  deriving DecidableEq, Repr

/-- One section of a handler accumulator (R79). -/
structure AccSection where
  cells : Vector LaneCell 16
  group : GroupState
  /-- MOD and AUX the section was last used with -/
  used : Option (BitVec 3 × BitVec 4)
  deriving DecidableEq, Repr

/-- The empty section. -/
def AccSection.empty : AccSection := ⟨Vector.replicate 16 LaneCell.empty, ⟨false, 0, false⟩, none⟩

/-- Branch state of one input of a `join` (R99, R279). Positions count valid lanes from the mark. -/
structure JoinInput where
  cursor : Nat
  highWater : Nat
  /-- lane of the mark within the beat at offset 0 -/
  markLane : Nat
  ordinalBase : Nat
  ended : Bool
  lastKey : Option Lane
  groupOpen : Bool
  groupRank : Nat
  deriving DecidableEq, Repr

/-- The cleared state of a join input. -/
def JoinInput.init : JoinInput := ⟨0, 0, 0, 0, false, none, false, 0⟩

/-- Branch state of one stage position (R99). -/
structure Branch where
  /-- lanes already used in the beat at offset 0 of the true and the false branch window of a `merge` -/
  usedTrue : Nat
  usedFalse : Nat
  left : JoinInput
  right : JoinInput
  /-- rank of the last end result of a `join` -/
  lastEnd : Nat
  deriving DecidableEq, Repr

/-- Cleared branch state. -/
def Branch.init : Branch := ⟨0, 0, JoinInput.init, JoinInput.init, 0⟩

/-- The dynamic state of an active slot (R118): iteration counter, accumulator sections and branch state. -/
structure SlotDyn where
  iter : Nat
  /-- the boundary group of the head beats that decides exits (R55, R33) -/
  exitGroup : GroupState
  sections : Vector AccSection 6
  branches : Vector Branch 6
  deriving DecidableEq, Repr

/-- The dynamic state after configuration (R55, R89, R99). -/
def SlotDyn.init : SlotDyn := ⟨0, ⟨false, 0, false⟩, Vector.replicate 6 AccSection.empty, Vector.replicate 6 Branch.init⟩

/-- Why a firing holds in its stage (R42, R120): it waits for an element to read, for room in a window, for room at a port, for an
older firing, or for ever on an uncorrectable store word. -/
inductive Hold where
  | read (w : Fin 16)
  | room (w : Fin 16)
  | port (j : Fin 4)
  | older
  | stopped
  deriving DecidableEq, Repr

/-- The window that a hold waits for. -/
def Hold.win : Hold → Option (Fin 16)
  | .read w => some w
  | .room w => some w
  | _ => none

/-- A firing in the pipeline (R39, R42, R276). -/
structure Firing where
  slot : Fin 8
  /-- iteration counter at issue -/
  iter : Nat
  /-- the stage that runs next, 1 to 6; 7 when all six have run -/
  stage : Nat
  /-- outputs of that stage already delivered -/
  sent : Nat
  /-- values of the stages run so far; none for a stage not run or whose DST is 0b111 -/
  vals : Vector (Option Beat) 6
  /-- shrinks whose count was fixed at issue (R40) and that have not taken effect, H11's last -/
  fixedShrinks : List (Fin 16 × Nat)
  /-- all shrinks of stages run so far, in stage order, which take effect after stage 6 (R41) -/
  shrinks : List (Fin 16 × Nat)
  /-- the elements that it has filled so far, which stand outside the visible counts until it completes (R91) -/
  fills : List (Fin 16 × Nat) := []
  aflg : Lane
  cwarn : Lane
  /-- the firing exits (R55); MASK is to be set when it completes (R115, R103) -/
  exits : Bool
  setMask : Bool
  /-- why its last attempt to run a stage held, and the state of the window that it then waited for -/
  hold : Option Hold
  heldWin : Option WinState := none
  deriving DecidableEq, Repr

/-! ## Units, accesses and packets -/

/-- A unit that sends or receives on the die network (R298): a core, an edge slot, a sequencer, a slice controller (a home is the slice
controller of its core), a die (arbiter, registers, TLB), the package (dispatcher), the transport engines, a region. -/
inductive UnitId where
  | core (n : Nat)
  | edge (n : Nat) (slot : Nat)
  | seq (q : Nat)
  | slice (n : Nat)
  | die (d : Nat)
  | package
  | engine
  | region (r : Nat)
  deriving DecidableEq, Repr

/-- What an access does at its slice or home (R204, R205, R155, R303, R316). -/
inductive AccessOp where
  | load
  | store
  | erase
  | amo (op : BitVec 6)
  | cas (expected : Word)
  | saddInt
  | saddFp
  deriving DecidableEq, Repr

/-- Where a translated address lies: on an ordinary page, or in a vug page with the metadata record named (R312, R314). -/
inductive Place where
  | floor (pa : Nat)
  | vug (record : Nat)
  deriving DecidableEq, Repr

/-- What a load, or a part of one, has answered: a value with its existence bit (R319), or an uncorrectable error (R304). -/
inductive LoadReply where
  | value (v : Nat) (there : Bool)
  | bad
  deriving DecidableEq, Repr

/-- A part of a load that has performed: its first byte within the load, its length, its answer. A load performs in one part, or tears
into two (R203). -/
structure LoadPart where
  off : Nat
  len : Nat
  reply : LoadReply
  deriving DecidableEq, Repr

/-- A load of at most eight bytes that a unit has issued: its identity, its bytes, and the parts that have performed. -/
structure Piece where
  id : Nat
  va : Nat
  size : Nat
  got : List LoadPart
  deriving DecidableEq, Repr

/-- A load, store, atomic or erase that a sequencer or an edge slot has issued, until it has performed (R198, R273, R298). -/
structure Access where
  id : Nat
  source : UnitId
  op : AccessOp
  va : Nat
  place : Place
  size : Nat
  /-- the bytes to store or the operand, lowest address first -/
  data : List Byte
  aq : Bool
  rl : Bool
  /-- element of the run (edge), or number of the block (sequencer) -/
  tag : Nat
  /-- the word that made it, for the grotto (R275) -/
  code : Code
  /-- the cycle in which it reached its slice or home (R303) -/
  arrived : Nat := 0
  /-- the part of a torn access that goes last: accesses of other units may go before it (R203) -/
  late : Bool := false
  deriving DecidableEq, Repr

/-- An event record E0 to E3 (R260). -/
abbrev EventRec := Vector Word 4

/-- A command of a sequencer, from its commit until the unit has applied it (R220): the values of its registers A, B and D. -/
structure Cmd where
  id : Nat
  seq : Nat
  /-- the unit that applies it -/
  unit : UnitId
  instr : Instr
  a : Word
  b : Word
  d : Word
  /-- block of the sequencer that sent it -/
  tag : Nat
  /-- the unit has begun it and its end is awaited (R232, R238, R251, R225) -/
  begun : Bool
  deriving DecidableEq, Repr

/-- A fill on its way into a sequencer window (R177). -/
structure SeqFill where
  source : UnitId
  win : BitVec 3
  count : Nat
  lanes : Vector Lane 16
  deriving DecidableEq, Repr

/-- A take or steal on its way to, or waiting at, the sequencer that holds the window (R245, R246). -/
structure TakeReq where
  id : Nat
  thief : Nat
  win : BitVec 3
  deriving DecidableEq, Repr

/-- An echo probe (R284): its origin, the core it is at, the lowest core number passed, its path so far as trail entries (R285) and the
cores it has passed. -/
structure Probe where
  origin : Nat
  at_ : Nat
  lowest : Nat
  trail : List Lane
  passed : List Nat
  deriving DecidableEq, Repr

/-- A relatch token on its way to, or at, a core's edge unit (R251): the command it answers, and the page it removes (none: every page). -/
structure Relatch where
  cmdId : Nat
  page : Option Nat
  deriving DecidableEq, Repr

/-- What a packet carries (R298). `loaded` is the answer of a load, or of a part of one. -/
inductive Payload where
  | access (a : Access)
  | loaded (a : Access) (g : LoadReply)
  | relatch (t : Relatch)
  | reply (id : Nat) (vals : List Word) (isTake : Bool)
  | fill (f : SeqFill)
  | record (r : EventRec)
  | cmd (c : Cmd)
  | take (t : TakeReq)
  deriving DecidableEq, Repr

/-- The four classes of R298. -/
inductive PacketClass where
  | req | rsp | cmd | ctl
  deriving DecidableEq, Repr

/-- A packet in flight on the die network (R298). -/
structure Packet where
  cls : PacketClass
  src : UnitId
  dst : UnitId
  payload : Payload
  deriving DecidableEq, Repr

/-! ## Edge unit -/

/-- STATE of ESTAT (R171). -/
inductive StreamState where
  | idle | bound | running | waitAcquire | waitPermit | withholding | faulted
  deriving DecidableEq, Repr

/-- How the last run of a slot since `sbind` ended (R225). -/
inductive RunEnd where
  | never | done | stopped | faulted
  deriving DecidableEq, Repr

/-- One translation: virtual page base, physical base (or metadata record), page size and attributes (R286, R310). -/
structure Trans where
  va : Nat
  pa : Nat
  big : Bool
  writable : Bool
  vug : Bool
  deriving DecidableEq, Repr

/-- An element that a load run has issued and not delivered: its indices, the planes it is read with (R167), and its loads. -/
structure Fetch where
  index : Vector Nat 5
  planes : Nat
  pieces : List Piece
  deriving DecidableEq, Repr

/-- An edge stream slot (R146, R278). -/
structure EdgeSlot where
  pattern : Vector Word 8
  format : Vector Word 4
  graph : BitVec 2
  /-- the sequencer whose `sbind` bound the slot: DSEQ names a window of it (R149, log 108) -/
  binder : Nat
  state : StreamState
  /-- fewest planes read by this run (R171) -/
  kread : Nat
  runEnd : RunEnd
  /-- indices i0 to i4 of the next element, and whether every element has been fetched or consumed -/
  cursor : Vector Nat 5
  finished : Bool
  /-- elements delivered, stored or visited by the run; IWIN tokens consumed by it -/
  elements : Nat
  tokensTaken : Nat
  /-- the index token of the current row (R152); tokens consumed whose rows are not over, oldest first -/
  token : Option Lane
  rowTokens : List Lane
  /-- the token that a gather has read for a row behind the one at its cursor, and has not shrunk IWIN past (R152, R169) -/
  tokenAhead : Option Lane
  /-- maxima of IWIN that the run has consumed, and those of them whose blocks have not performed, oldest first (R162) -/
  maximaTaken : Nat
  maxima : List Lane
  /-- elements that a load run has issued and not delivered, in order; the row pointers of a ragged row, and their loads (R153) -/
  fetches : List Fetch
  rowLo : Option Nat
  rowHi : Option Nat
  pointers : List Piece
  /-- row pointers that a ragged run has read before those of earlier rows (R169) -/
  pointersAhead : List (Nat × List Piece)
  /-- ends of the rows behind the one at the cursor, as far as a ragged run has read their pointers (R153, R169) -/
  rowEnds : List Nat
  acquireTaken : Bool
  /-- every store has performed and the completion token is on its way (R168) -/
  tokenPending : Bool
  /-- the SOT of the current tile has been assembled; a permit has been taken, for it or, once it is open, for the next (R150, R154) -/
  tileOpen : Bool
  permitTaken : Bool
  firstTile : Bool
  /-- the beat being assembled, its existence bits, and whether it is closed and waits to be filled -/
  partialBeat : Beat
  partialExists : Vector Lane 16
  closed : Bool
  /-- lanes consumed of the beat at offset 0 of WIN and of IWIN -/
  laneUsed : Nat
  iLaneUsed : Nat
  /-- the elements of the packed unit or block being stored that have left WIN: words, or codes in BP8 and BP4 (R151, R162) -/
  packBuf : List Lane
  /-- accesses issued and not yet performed (identity and element number); accesses that failed and wait for a retry; elements of the run
  freed from WIN; elements that had performed before a restore and are passed over (R273) -/
  issued : List (Nat × Nat)
  failed : List Access
  freed : Nat
  passed : List Nat
  quantised : Bool
  latches : List Trans
  /-- plane group (base address) being read, and the planes chosen for it (R167) -/
  planes : Option (Nat × Nat)
  /-- cycle at which it began to withhold, the address it withholds, and whether a retry is due (R268) -/
  withheldSince : Option Nat
  faultAddr : Word
  /-- the cause that EFAULT was written with, or met as a further fault, for what it withholds (R170) -/
  faultCause : Nat
  retryDue : Bool
  /-- what it withholds is the element at its cursor; accesses that a retry has issued and that have not performed (R268, R271) -/
  blocked : Bool
  retried : List Nat
  /-- the run makes no access until the core flips (R235); it is stopped at a beat boundary for a checkpoint (R269) -/
  waitFlip : Bool
  parked : Bool
  /-- a drain is stopping the run at its next beat boundary (R238) -/
  stopping : Bool
  deriving DecidableEq, Repr

/-- An unbound slot (R230, R396). -/
def EdgeSlot.init : EdgeSlot :=
  { pattern := Vector.replicate 8 0, format := Vector.replicate 4 0, graph := 0, binder := 0, state := .idle, kread := 0, runEnd := .never,
    cursor := Vector.replicate 5 0, finished := false, elements := 0, tokensTaken := 0, token := none, rowTokens := [], tokenAhead := none, maximaTaken := 0,
    maxima := [], fetches := [], rowLo := none, rowHi := none, pointers := [], pointersAhead := [], rowEnds := [], acquireTaken := false, tokenPending := false,
    tileOpen := false, permitTaken := false, firstTile := true, partialBeat := Beat.blank 0 0, partialExists := Vector.replicate 16 0,
    closed := false, laneUsed := 0, iLaneUsed := 0, packBuf := [], issued := [], failed := [], freed := 0, passed := [], stopping := false,
    quantised := false, latches := [], planes := none, withheldSince := none, faultAddr := 0, faultCause := 0, retryDue := false, blocked := false,
    retried := [], waitFlip := false, parked := false }

/-! ## Core -/

/-- A beat in a staging register: its input selector and link number (R130). -/
structure Staged where
  sel : BitVec 4
  link : BitVec 4
  beat : Beat
  deriving DecidableEq, Repr

/-- A core (R118). -/
structure Core where
  /-- store words that are not 0, rising -/
  store : List (Nat × Lane)
  /-- store words with a single-bit error, and with an uncorrectable error (R120) -/
  softStore : List Nat
  badStore : List Nat
  wdesc : Vector Word 16
  wstate : Vector WinState 16
  kActive : Vector Lane 8
  kShadow : Vector Lane 8
  active : Vector HandlerRec 8
  shadow : Vector HandlerRec 8
  dyn : Vector SlotDyn 8
  switches : List (BitVec 16)
  staging : List Staged
  pipe : List Firing
  openGraph : Option (BitVec 2)
  /-- least recently fired first (R134) -/
  lru : List (Fin 8)
  aflg : Lane
  cwarn : Lane
  rwarn : Lane
  ewarn : Lane
  cfault : Lane
  efault : Lane
  ecnt : Lane
  guards : Vector Lane 4
  trail : List Lane
  stop : Bool
  /-- the store address whose error stopped the core -/
  stopAddr : Nat
  flipped : Bool
  /-- windows into which a SWAP is still to be placed (R232) -/
  swapDue : List (Fin 16)
  /-- ports out of which a SWAP is still to be sent (R234) -/
  swapPorts : Vector Bool 4
  edge : Vector EdgeSlot 4
  /-- the pipeline holds a lantern; cycle in which its last heavy firing completed (R350) -/
  lit : Bool
  heavyDone : Nat
  /-- the cycle whose issue slot a firing or a command has taken (R134, R137) -/
  slotCycle : Option Nat
  /-- cycle of the last issue or applied command; a probe has been sent since (R282, R284) -/
  lastActive : Nat
  probeSent : Bool
  relatches : List Relatch
  deriving DecidableEq, Repr

/-- A core as an admission leaves it (R396). -/
def Core.init : Core :=
  { store := [], softStore := [], badStore := [], wdesc := Vector.replicate 16 0, wstate := Vector.replicate 16 WinState.init,
    kActive := Vector.replicate 8 0, kShadow := Vector.replicate 8 0, active := Vector.replicate 8 (Vector.replicate 12 0),
    shadow := Vector.replicate 8 (Vector.replicate 12 0), dyn := Vector.replicate 8 SlotDyn.init, switches := [], staging := [],
    pipe := [], openGraph := none, lru := [0, 1, 2, 3, 4, 5, 6, 7], aflg := 0, cwarn := 0, rwarn := 0, ewarn := 0, cfault := 0,
    efault := 0, ecnt := 0, guards := Vector.replicate 4 0, trail := [], stop := false, stopAddr := 0, flipped := false,
    swapDue := [], swapPorts := Vector.replicate 4 false, edge := Vector.replicate 4 EdgeSlot.init, lit := false, heavyDone := 0,
    slotCycle := none, lastActive := 0,
    probeSent := false, relatches := [] }

/-! ## Sequencer -/

/-- The closing word that a block applies (R184), with what it read. -/
inductive Closing where
  | call (d : Reg) (target : BitVec 56)
  | ret (target : BitVec 56)
  | trap (code : BitVec 15) (idx : Nat)
  | eret
  | halt
  | wfe
  | yield
  deriving DecidableEq, Repr

/-- A commit effect (R183). -/
inductive Effect where
  | access (a : Access)
  | fence (scope : Nat)
  | publish (va : Word)
  | csrWrite (csr : BitVec 10) (value : Word)
  | widWrite (field : BitVec 3) (value : Word)
  | winFill (m : BitVec 3) (elem : List Word)
  | winShrink (m : BitVec 3) (n : Nat)
  | winWrite (m : BitVec 3) (off : Nat) (elem : List Word)
  | take (m : BitVec 3) (victim : Nat)
  | cmd (c : Cmd) (dst : UnitId) (cls : PacketClass)
  | close (c : Option Closing) (next : BitVec 56)
  deriving DecidableEq, Repr

/-- A commit effect with its identity, the number of its block, and the registers that its reply writes. -/
structure Queued where
  id : Nat
  tag : Nat
  eff : Effect
  regs : List Reg
  deriving DecidableEq, Repr

/-- A load of a block that has been issued and whose word has not finished: the place of the word, and its accesses. -/
structure BlockLoad where
  idx : Nat
  pieces : List Piece
  deriving DecidableEq, Repr

/-- Bytes that a sequencer has read early: where, what they were and whether they existed, and whether it stood in a trap handler (R208, log 153). -/
structure EarlyLoad where
  va : Nat
  size : Nat
  value : Nat
  there : Bool
  place : Place
  tl : Bool
  deriving DecidableEq, Repr

/-- The block in issue (R181, R182): its words, the next to issue, the working registers and predicates, and what it will do at commit. -/
structure Block where
  words : List Code
  idx : Nat
  regs : Vector Word 32
  preds : Vector Bool 8
  effects : List Queued
  loads : List BlockLoad
  /-- what words that read no memory have read before the words before them issued (R182): the word, and the value -/
  reads : List (Nat × Word)
  /-- registers whose latest writer in the block leaves them to a reply; registers that the block has written (R183) -/
  pendingRegs : List Reg
  written : List Reg
  swarn : Word
  /-- target of the first true exit; the closing word -/
  exitTo : Option (BitVec 56)
  closing : Option Closing
  /-- the word at idx waits (R186, R189) -/
  waiting : Bool
  deriving DecidableEq, Repr

/-- A reply still to be written (R183): the registers in order; whether it is a take, whose DONE also writes WID (R247), and whose counter loads
are acquires (R245). -/
structure Await where
  id : Nat
  /-- number of its block -/
  tag : Nat
  regs : List Reg
  isTake : Bool
  deriving DecidableEq, Repr

/-- An outstanding item of R198: a committed access that has not performed, or a core command, or a store to a register, that has not been
applied. -/
inductive Outstanding where
  | access (a : Access)
  | coreCmd (c : Cmd)
  deriving DecidableEq, Repr

/-- Why a sequencer does not issue its next block (R186). -/
inductive SeqWait where
  | none | wfe | yield (until_ : Nat)
  deriving DecidableEq, Repr

/-- A sequencer (R172). -/
structure Seq where
  pc : BitVec 56
  regs : Vector Word 32
  preds : Vector Bool 8
  /-- local memory: doublewords that are not 0, rising -/
  mem : List (Nat × Word)
  eie : Bool
  tl : Bool
  tvec : Word
  epc : Word
  ecause : Word
  eaddr : Word
  swarn : Word
  wid : Word
  widf : Word
  wake : Word
  evwin : Word
  echoi : Word
  /-- the clock when CYCLE was 0, modulo 2^64 -/
  startCycle : Word
  blocks : Word
  mdesc : Vector Word 8
  mstat : Vector WinState 8
  /-- elements that each window has freed since the region came to the sequencer, by which the engines tell the records that still stand (R366) -/
  freed : Vector Nat 8
  blk : Option Block
  /-- commit effects of the last block that are not yet sent (R209, R210) -/
  outbox : List Queued
  /-- commit effects that still wait behind a fence of a block that an asynchronous trap has come after (R189, R216, log 118) -/
  suspended : List Queued
  /-- the identities below this are those of items that a restore sends again, before the first block (R273) -/
  resent : Nat
  awaits : List Await
  items : List Outstanding
  /-- what it has read early, for loads of later words and blocks (R208) -/
  early : List EarlyLoad
  /-- pending asynchronous traps with their addresses (R189) -/
  pendVug : Option Word
  pendFloor : Option Word
  halted : Bool
  doubleTrapped : Bool
  wait : SeqWait
  events : List EventRec
  lost : Nat
  /-- what has arrived and is not yet taken in: records, fills, replies, takes -/
  arrivedRecords : List EventRec
  arrivedFills : List SeqFill
  arrivedReplies : List (Nat × List Word)
  arrivedTakes : List TakeReq
  region : Option Nat
  rank : Nat
  /-- frozen by a pre-emption (R272) -/
  frozen : Bool
  deriving DecidableEq, Repr

/-- A sequencer with the reset values of R174 and R257; what neither gives is 0 (log 3). -/
def Seq.init : Seq :=
  { pc := 0, regs := Vector.replicate 32 0, preds := Vector.replicate 8 false, mem := [], eie := false, tl := false, tvec := 0,
    epc := 0, ecause := 0, eaddr := 0, swarn := 0, wid := 0, widf := 0, wake := 0, evwin := 7, echoi := 65536, startCycle := 0,
    blocks := 0, mdesc := Vector.replicate 8 0, mstat := Vector.replicate 8 WinState.init, freed := Vector.replicate 8 0, blk := none, outbox := [], suspended := [],
    resent := 0, awaits := [], items := [], early := [], pendVug := none, pendFloor := none, halted := false, doubleTrapped := false, wait := .none, events := [], lost := 0,
    arrivedRecords := [], arrivedFills := [], arrivedReplies := [], arrivedTakes := [], region := none, rank := 0, frozen := false }

/-! ## Regions, die and package -/

/-- A drain in progress (R238): the command that asked for it, and whether the stillwater tree has reported (R265). -/
structure Drain where
  cmdId : Nat
  seq : Nat
  imageVa : Word
  still : Bool
  deriving DecidableEq, Repr

/-- What the module keeps of a sequencer of a region that it has saved, and the sequencer's record does not hold: for each saved item the scope of a fence
that still waits before it, and the block that committed it; and the scope of a fence that still waits behind the last item (R209, R210, R273). -/
structure KeptSeq where
  fences : List (Option Nat)
  tags : List Nat
  last : Option Nat
  deriving DecidableEq, Repr

/-- A region (R256) with what its launch gave it (R341, R257). -/
structure Region where
  id : Nat
  die : Nat
  x : Nat
  y : Nat
  w : Nat
  h : Nat
  ctx : Nat
  /-- queue and sequence number of the packet that launched it (R338) -/
  queue : Nat
  seqno : Nat
  phase : BitVec 32
  /-- virtual address of the image that the last `cfg.load` or `cfg.drain` loaded (R242) -/
  image : Option Word
  /-- lanterns in the pool (R350) -/
  pool : Nat
  /-- the last pipeline that took a lantern, as y × W + x (R350) -/
  lanternLast : Nat
  /-- the pool has been empty, and pipelines have waited since: returned lanterns serve them in turn (R350) -/
  lanternShort : Bool
  /-- the `cfg.swap` in progress: command and sequencer (R232) -/
  swap : Option (Nat × Nat)
  drain : Option Drain
  /-- the withhold limit has been reached by this edge slot (core, slot), and the checkpoint has been saved (R269) -/
  checkpoint : Option (Nat × Nat)
  checkpointSaved : Bool
  grotto : Option Nat
  /-- a pre-emption or a teardown is stopping it (R272, R343, R349): its sequencers stop at block boundaries; and, once their commands are
  settled, its cores and edge units stand still -/
  stopping : Bool
  freezing : Bool
  /-- its cores and edge units stand frozen: in a checkpoint that has been saved (R269), or before a restore is written (R280) -/
  frozen : Bool
  /-- it was placed for a grotto that is still to be written into it (R280) -/
  restoring : Bool
  /-- status with which it left, when it has (R343): 0 ended, 3 context gone, 5 failed, 9 saved into a grotto -/
  ended : Option Nat
  /-- of a region saved into a grotto, and of one placed for it until it is written: what is kept of each sequencer, by rank -/
  kept : List KeptSeq
  deriving DecidableEq, Repr

/-- A TLB entry (R286). -/
structure TlbEntry where
  ctx : Nat
  tr : Trans
  deriving DecidableEq, Repr

/-- A context (R337, R338). -/
structure Ctx where
  id : Nat
  root : Nat
  domains : BitVec 256
  /-- the cycle in which the dispatcher last answered a `launch` of the context (R248, R349) -/
  launched : Option Nat
  deriving DecidableEq, Repr

/-- STATE of QSTAT (R340). -/
inductive QueueState where
  | closed | open_ | closing
  deriving DecidableEq, Repr

/-- A work queue (R338, R339): the sequence numbers of the packets it holds, oldest first, and the ring element of the oldest; the packets
themselves stand in the ring. -/
structure Queue where
  state : QueueState
  ctx : Nat
  cap : Nat
  ring : Nat
  packets : List Nat
  head : Nat
  appended : Nat
  ovfl : Bool
  qerr : Bool
  deriving DecidableEq, Repr

/-- A queue after bring-up. -/
def Queue.init : Queue := ⟨.closed, 0, 0, 0, [], 0, 0, false, false⟩

/-- A host completion window (R344): its entries, TAIL and HEAD. -/
structure CompWin where
  entries : List (Nat × (Word × Word))
  tail : Word
  head : Word
  deriving DecidableEq, Repr

/-- What a dispatcher slot presents (R345): a copied packet, or a grotto to restore, which a number of its own tells from others. -/
inductive Offer where
  | packet (queue seqno : Nat) (words : Vector Word 8)
  | restore (grotto queue number : Nat)
  deriving DecidableEq, Repr

/-- A dispatcher slot's candidate: instances admitted, bypass count, and the order in which it exceeded the limit (R346, R347). -/
structure Candidate where
  offer : Offer
  admitted : Nat
  bypass : Nat
  reserveOrder : Option Nat
  /-- cycle and die of its last admission (R346) -/
  lastAdmit : Option (Nat × Nat)
  deriving DecidableEq, Repr

/-- A packet that the dispatcher is copying out of its queue (R342): it has been dispatched (R349) and is not yet validated. -/
structure Copying where
  queue : Nat
  seqno : Nat
  words : Vector Word 8
  ctx : Nat
  /-- the cycle in which the copy began -/
  began : Nat
  deriving DecidableEq, Repr

/-- A packet that has been copied and validated and is not finished (R343). -/
structure LivePacket where
  queue : Nat
  seqno : Nat
  words : Vector Word 8
  ctx : Nat
  /-- instances still to be admitted and instances running or gone -/
  toAdmit : Nat
  running : Nat
  /-- the status it will finish with, and its reason -/
  status : Nat
  reason : Nat
  /-- the queue that its completion names, where a RESTORE has named another than its own (R338) -/
  settings : Option Nat
  deriving DecidableEq, Repr

/-- A completion waiting to be filled (R343). -/
structure Completion where
  words : Vector Word 8
  lane0 : Lane
  lane1 : Lane
  deriving DecidableEq, Repr

/-- Whether the dispatcher's waiting line holds a queue or a restore (R345). -/
inductive LineEntry where
  | queue (n : Nat)
  | restore (grotto queue number : Nat)
  deriving DecidableEq, Repr

/-- A mailbox command whose end is awaited (R338, R349): the pre-emption of a region, or the teardown of a context. -/
inductive MailWait where
  | preempt (region : Nat)
  | teardown (ctx : Nat)
  deriving DecidableEq, Repr

/-- The mailbox (R337): command, response, and the command that is running; MSTAT bit 0 reads 1 while one is. -/
structure Mailbox where
  m : Vector Word 8
  response : Vector Word 8
  running : Option MailWait
  deriving DecidableEq, Repr

/-- A connection (R362): descriptor fields, receive state, congestion record. -/
structure Conn where
  handle : Nat
  region : Nat
  ctx : Nat
  job : Nat
  deliv : BitVec 4
  nscc : Bool
  rccc : Bool
  tss : Bool
  peer : Word × Word
  endpoints : Word
  key : BitVec 32
  recvRank : Nat
  recvWin : BitVec 3
  /-- records that the receive window can hold, and so the slots of the ring -/
  slots : Nat
  ring : Nat
  paths : Nat
  failed : Bool
  /-- its region has ended: it is freed once no message is outstanding on it (R363) -/
  closing : Bool
  /-- what the last acknowledgement left: NSCC window, RCCC credit, round-trip time, paths in service, time stamp (R373) -/
  record : Option (Vector Word 5)
  /-- since the bind: packets marked with ECN, packets sent again, packets that the peer refused (R373) -/
  marked : Nat
  resent : Nat
  refused : Nat
  /-- records received since the bind (R366), and messages issued on it -/
  recvCount : Nat
  sendCount : Nat
  deriving DecidableEq, Repr

/-- A published buffer (R362, R213): visible base, shadow base, size in pages, generation, whether the copies stand exchanged, and
whether it is still bound. -/
structure PubBuf where
  handle : Nat
  region : Nat
  ctx : Nat
  visible : Nat
  shadow : Nat
  pages : Nat
  generation : Word
  exchanged : Bool
  bound : Bool
  /-- its region has ended: it is freed once no message is outstanding on it (R363) -/
  closing : Bool
  deriving DecidableEq, Repr

/-- The operation of a network message (R366). -/
inductive NetOp where
  | write | read | send
  deriving DecidableEq, Repr

/-- A packet that the engines have sent to a peer (R365, R366): bytes of a write or a send, the request of a read, bytes that answer a read, or the
word that a message of the peer has ended. -/
structure WirePacket where
  handle : Nat
  num : Nat
  op : NetOp
  /-- an answer to a message of the peer, with its status (R367) -/
  answer : Option Nat
  /-- where the bytes go: at the peer (writes), in the slot (sends), in the range that is read (answers); or where a read begins -/
  addr : Nat
  /-- where the whole message goes -/
  base : Nat
  /-- LEN, TAG and RC of the message -/
  len : Nat
  tag : BitVec 16
  rc : Bool
  bytes : List Byte
  deriving DecidableEq, Repr

/-- A message that the module has issued (R365): its place in the connection's order, its fields, what has been sent or placed so far, and the
status of its completion once known. -/
structure NetMsg where
  handle : Nat
  num : Nat
  op : NetOp
  region : Nat
  laddr : Nat
  raddr : Nat
  len : Nat
  cv : Bool
  cwin : BitVec 3
  crank : Nat
  rc : Bool
  tag : BitVec 16
  /-- the rank of the sequencer that issued it (R369), and the identity of the network word, by which its earlier stores are told (R220) -/
  rank : Nat
  cmd : Nat
  /-- of the items that were saved with its region, those that its sequencer committed before it: its earlier stores are among them (R220, R273) -/
  behind : Nat
  /-- the packets that have been sent at least once: number, and time stamp of the first attempt (R371) -/
  sent : List (Nat × Nat)
  /-- the same packets, as they were sent: they are sent again with the same bytes (R366, R374) -/
  kept : List (Nat × WirePacket)
  /-- the packets that the peer has acknowledged -/
  acked : List Nat
  /-- parts of a read that have been placed: address and length -/
  placed : List (Nat × Nat)
  status : Option Nat
  /-- its completion is held while its region is frozen: its place in the order of held fills (R372) -/
  due : Option Nat
  deriving DecidableEq, Repr

/-- A message arriving from the peer (R366): the buffer it is written into, the receive slot it took, the parts that have been placed
(address and length), and whether its record has been filled. -/
structure InMsg where
  handle : Nat
  num : Nat
  isSend : Bool
  len : Nat
  tag : Nat
  rc : Bool
  buf : Option Nat
  slot : Option Nat
  placed : List (Nat × Nat)
  done : Bool
  /-- its record is held while its region is frozen: its place in the order of held fills (R372) -/
  due : Option Nat
  /-- the place of its record's last element in the receive window, counted from the window's first element ever (R366) -/
  pos : Option Nat := none
  deriving DecidableEq, Repr

/-- The answer to a read of the peer (R366): its packets, which are sent again with the same bytes (R374), the time stamps of their first attempts, and
those that the peer has acknowledged (R371). -/
structure ReadAnswer where
  handle : Nat
  num : Nat
  packets : List WirePacket
  sent : Nat
  acked : List Nat
  deriving DecidableEq, Repr

/-- The transport engines (R360), with all that they have sent. -/
structure Fabric where
  conns : List Conn
  bufs : List PubBuf
  msgs : List NetMsg
  inMsgs : List InMsg
  wire : List WirePacket
  answers : List ReadAnswer
  /-- Ethernet links out of service; level retries in a row (R361) -/
  deadPorts : List Nat
  portFails : List (Nat × Nat)
  deriving DecidableEq, Repr

/-- The module record (R321, R357): the maps, as global core numbers (the dark cores, and the cores whose slices are out of service), the thermal
limit and the hard limit in the units of TMAX (R336, R356), trim, the certificate of the attestation key, and the signature that ends the record.
The identity stands in Config. No step changes the record; what it holds at reset is the model's choice (log 119). -/
structure ModuleRecord where
  dark : List Nat
  deadSlices : List Nat
  thermal : BitVec 16
  hard : BitVec 16
  trim : List Byte
  certificate : List Byte
  signature : List Byte
  deriving DecidableEq, Repr

/-- The package: host registers, queues, dispatcher and arbiters (file 18). -/
structure Package where
  modrec : ModuleRecord
  step : BitVec 4
  fail : BitVec 4
  feata : BitVec 128
  level : Nat
  tmax : BitVec 16
  degbw : Bool
  /-- lantern budgets are reduced (R356) -/
  reduced : Bool
  /-- time stamp of the last clock step (R356) -/
  lastClockStep : Option Nat
  stopped : Bool
  bypassLimit : Nat
  mailbox : Mailbox
  ctxs : List Ctx
  queues : List (Nat × Queue)
  windows : List (Nat × CompWin)
  line : List LineEntry
  slots : List Candidate
  copies : List Copying
  live : List LivePacket
  completions : List Completion
  events : List EventRec
  /-- dies reserved (R347): die and offer; candidates reserve in the order counted by reserveCount -/
  reserved : List (Nat × Offer)
  reserveCount : Nat
  /-- dies whose arbitration rounds fall in this cycle and have not run, in the order in which they run (R346) -/
  roundsDue : List (Fin 16)
  /-- regions that have ended: cycle and die; a round follows at once, in the next cycle (R346) -/
  regionEnds : List (Nat × Fin 16)
  ucieTrained : Bool
  deriving DecidableEq, Repr

/-! ## What moves next -/

/-- Which unit's word runs (log 1). -/
inductive Focus where
  | none
  /-- the word at the head of the block in issue of a sequencer -/
  | seq (q : Nat)
  /-- a command that has reached the unit that applies it: its place in State.cmds -/
  | cmd (index : Nat)
  /-- the next stage of a firing: the core, and the place of the firing in the pipeline -/
  | stage (core : Nat) (index : Nat)
  deriving DecidableEq, Repr

/-- One entry of the agenda (log 1): what moves in a step. -/
inductive Cue where
  | event (i : Instr)
  | seqWord (q : Nat)
  | stage (core : Nat) (index : Nat)
  | cmd (index : Nat)
  /-- a soft error strikes a doubleword of the floor (R304) -/
  | floorError (doubleword : Nat) (uncorrectable : Bool)
  /-- a sensor reading (R336) -/
  | temperature (tmax : BitVec 16)
  /-- an access that has reached its slice or home tears into two parts, of which the higher goes first or last (R203) -/
  | tear (index : Nat) (highFirst : Bool)
  /-- a load of the block in issue of a sequencer issues before earlier words of it have issued (R182): the place of its word -/
  | ahead (q : Nat) (word : Nat)
  /-- a sequencer reads bytes early, for a load of a later word or block; and the load at the head of its block takes what was read early (R208) -/
  | early (q va size : Nat)
  | recall (q : Nat)
  /-- a ragged run reads a row pointer before the pointers of earlier rows (R169) -/
  | pointer (core : Nat) (slot : Fin 4) (index : Nat)
  /-- two accesses of one slot that are on their way to one unit stand as if they had been issued in the other order (R169) -/
  | swap (index : Nat)
  /-- the move of a unit that reads one thing more of what it has to read one after another, and then waits (R298) -/
  | part (c : Cue)
  deriving DecidableEq, Repr, Inhabited

/-! ## What a unit has read so far (R298, R306) -/

/-- Who reads several things of the floor one after another: a block of a sequencer, by its number; the run of an edge slot; a command. -/
inductive Reader where
  | block (q number : Nat)
  | run (core : Nat) (slot : Fin 4)
  | cmd (id : Nat)
  deriving DecidableEq, Repr

/-- What has been read: entries of a walk, from its root on; or bytes. -/
inductive Part where
  | entries (l : List Nat)
  | bytes (l : List Byte)
  deriving DecidableEq, Repr

/-- What a reader has read and not used yet: of the walk for a page of 2 MiB, or at an address. -/
structure PartRead where
  reader : Reader
  ctx : Nat
  va : Nat
  part : Part
  deriving DecidableEq, Repr

/-- The module. -/
structure State where
  focus : Focus
  /-- what moves next: cycles that pass first, and the move -/
  agenda : List (Nat × Cue)
  /-- steps taken: the index of the free schedule that is followed when the agenda is empty -/
  steps : Nat
  /-- core cycles since power-up -/
  now : Nat
  /-- global time stamp and its fraction, in units of 1/2,162,160 ns, in which a cycle of every LEVEL is a whole number (R354) -/
  stamp : Nat
  stampFrac : Nat
  /-- the next identity for accesses, commands and replies; the next free value -/
  nextId : Nat
  frees : Nat
  cores : List (Nat × Core)
  seqs : List (Nat × Seq)
  regions : List Region
  nextRegion : Nat
  /-- the floor: bytes that are not the empty byte, rising (R301) -/
  mem : List Host.Cell
  /-- doublewords (address / 8) with a single-bit and with an uncorrectable error (R304) -/
  softFloor : List Nat
  badFloor : List Nat
  net : List Packet
  cmds : List Cmd
  /-- accesses that have reached their slice or home, in arrival order; accesses withheld at homes, oldest first (R317) -/
  atSlice : List Access
  withheld : List Access
  /-- descriptors whose TAIL has been stored to while an access waited for their pool: a pool change is due (R317) -/
  poolDue : List Nat
  tlbs : List (Nat × List TlbEntry)
  dieTlbs : List (Nat × List TlbEntry)
  fecc : List (Nat × Word)
  lretry : List (Nat × Word)
  /-- link check failures of one flit in a row, and links that have stopped (R300) -/
  linkFails : List (LinkId × Nat)
  deadLinks : List LinkId
  probes : List Probe
  /-- the unit that moves reads one thing more and then waits; what units have read of what they read one after another (R298) -/
  slow : Bool
  parts : List PartRead
  pkg : Package
  fabric : Fabric
  deriving DecidableEq, Repr

/-! ## How a step can stop -/

/-- Why the machine stops. -/
inductive Fault where
  /-- raised by the step function after HARD_LIMIT_STOP: R356 says that above the hard limit the module stops. Safe: the module runs nothing
  more. -/
  | moduleStopped
  deriving DecidableEq, Repr

/-- Why an instruction has no meaning in the model. -/
inductive Refusal where
  /-- the instruction is not modelled yet; raised by its arm of `exec` only. Safe: nothing is claimed about it. -/
  | notModelled (mnemonic : String)
  deriving DecidableEq, Repr

/-! ## Reset -/

/-- The module right after power-up: no bring-up step reached, no context, no queue, no region, nothing in flight (R336 to R344, R347,
R353, R354); every other unit at the values of R396, R174 and log 3. -/
def State.reset : State :=
  { focus := .none, agenda := [], steps := 0, now := 0, stamp := 0, stampFrac := 0, nextId := 0, frees := 0, cores := [], seqs := [],
    regions := [], nextRegion := 0, mem := [], softFloor := [], badFloor := [], net := [], cmds := [], atSlice := [], withheld := [],
    poolDue := [], tlbs := [], dieTlbs := [], fecc := [], lretry := [], linkFails := [], deadLinks := [], probes := [], slow := false, parts := [],
    pkg := { modrec := ⟨[], [], 0xFFFF, 0xFFFF, [], [], []⟩, step := 0, fail := 0, feata := 0, level := Config.nominalLevel, tmax := 0, degbw := false, reduced := false, lastClockStep := none,
             stopped := false, bypassLimit := Config.bypassLimit,
             mailbox := ⟨Vector.replicate 8 0, Vector.replicate 8 0, none⟩, ctxs := [], queues := [], windows := [], line := [],
             slots := [], copies := [], live := [], completions := [], events := [], reserved := [], reserveCount := 0, roundsDue := [], regionEnds := [],
             ucieTrained := false },
    fabric := ⟨[], [], [], [], [], [], [], []⟩ }

end Sys2Proof.Machine
end

