-- ==== Sys2Proof/Machine/Ops.lean ====
section
/-! DEFINITION. The named operations on the module: units and regions, the floor, packets, event records, time, and taking a trap and
returning from it (08 R187, R190, R186). -/

namespace Sys2Proof.Machine

/-! ## Bits of words -/

/-- Bits lo + n - 1 to lo of a bit vector, as a number (R2). -/
def bv {w : Nat} (x : BitVec w) (lo n : Nat) : Nat := bitsOf x.toNat lo n

/-- Bit i of a bit vector. -/
def bitAt {w : Nat} (x : BitVec w) (i : Nat) : Bool := x.getLsbD i

/-- 1 at bit i. -/
def bit64 (i : Nat) : Word := BitVec.ofNat 64 (2 ^ i)
def bit36 (i : Nat) : Lane := BitVec.ofNat 36 (2 ^ i)

/-- A number in n bits from bit lo. -/
def at_ (v lo n : Nat) : Nat := v % 2 ^ n * 2 ^ lo

/-- 1 for true. -/
def b2n (b : Bool) : Nat := if b then 1 else 0

/-- word(b) of R17. -/
def laneOfBool (b : Bool) : Lane := if b then 1 else 0

/-- bool(w) of R17. -/
def boolOf (w : Lane) : Bool := w.getLsbD 0

/-- Replace the element at an index of a list. -/
def setNth {α : Type} : List α → Nat → α → List α
  | [], _, _ => []
  | _ :: t, 0, v => v :: t
  | x :: t, n + 1, v => x :: setNth t n v

/-- Remove the element at an index of a list. -/
def dropNth {α : Type} : List α → Nat → List α
  | [], _ => []
  | _ :: t, 0 => t
  | x :: t, n + 1 => x :: dropNth t n

/-! ## Names of units (R6, R174, R256) -/

def coreDie (n : Nat) : Nat := n / 65536
def coreY (n : Nat) : Nat := n / 256 % 256
def coreX (n : Nat) : Nat := n % 256
def coreOf (die x y : Nat) : Nat := die * 65536 + y * 256 + x
/-- The cluster of a core, numbered as its sequencer: die, cluster y, cluster x. -/
def clusterOf (n : Nat) : Nat := coreDie n * 256 + coreY n / 16 * 16 + coreX n / 16
def seqDie (q : Nat) : Nat := q / 256

/-- A core that the module record lists as dark (R321). -/
def State.isDark (s : State) (n : Nat) : Bool := s.pkg.modrec.dark.contains n

/-! ## Cores, sequencers, regions -/

def State.core (s : State) (n : Nat) : Core := sparseGet Core.init s.cores n
def State.setCore (s : State) (n : Nat) (c : Core) : State := { s with cores := sparsePut s.cores n c }
def State.seq (s : State) (q : Nat) : Seq := sparseGet Seq.init s.seqs q
def State.setSeq (s : State) (q : Nat) (v : Seq) : State := { s with seqs := sparsePut s.seqs q v }
def State.edgeSlot (s : State) (n : Nat) (e : Fin 4) : EdgeSlot := (s.core n).edge[e]
def State.setEdge (s : State) (n : Nat) (e : Fin 4) (v : EdgeSlot) : State :=
  let c := s.core n
  s.setCore n { c with edge := c.edge.set e v }

/-- A core has applied a command (R282, R284). -/
def Core.active_ (c : Core) (now : Nat) : Core := { c with lastActive := now, probeSent := false }

/-- A region that has been admitted and has not left. -/
def Region.live (r : Region) : Bool := r.ended == none

/-- A core lies in the region's rectangle (R256). -/
def Region.holds (r : Region) (n : Nat) : Bool :=
  coreDie n == r.die && decide (r.x ≤ coreX n) && decide (coreX n < r.x + r.w) && decide (r.y ≤ coreY n) && decide (coreY n < r.y + r.h)

/-- The core of a region at region-relative coordinates (R6). -/
def Region.core (r : Region) (x y : Nat) : Nat := coreOf r.die (r.x + x) (r.y + y)

/-- Every core of the region, row by row. -/
def Region.cores (r : Region) : List Nat :=
  (List.range r.h).flatMap fun y => (List.range r.w).map fun x => r.core x y

/-- Region tiles across and down (R256). -/
def Region.tilesX (r : Region) : Nat := (r.w + 15) / 16
def Region.tilesY (r : Region) : Nat := (r.h + 15) / 16
def Region.nseq (r : Region) : Nat := r.tilesX * r.tilesY

/-- The sequencer of a rank (R256). -/
def Region.seqOfRank (r : Region) (k : Nat) : Nat := r.die * 256 + (r.y / 16 + k / r.tilesX) * 16 + (r.x / 16 + k % r.tilesX)

/-- The owning sequencer: rank 0 (R256). -/
def Region.owner (r : Region) : Nat := r.seqOfRank 0

/-- The sequencers of the region in rank order. -/
def Region.seqs (r : Region) : List Nat := (List.range r.nseq).map r.seqOfRank

def State.region? (s : State) (id : Nat) : Option Region := s.regions.find? fun r => r.id == id && r.live
/-- The region that holds a core. -/
def State.regionOfCore (s : State) (n : Nat) : Option Region := s.regions.find? fun r => r.live && r.holds n
/-- The region whose program a sequencer runs. -/
def State.regionOfSeq (s : State) (q : Nat) : Option Region := (s.seq q).region.bind s.region?
def State.setRegion (s : State) (r : Region) : State :=
  { s with regions := s.regions.map fun r' => if r'.id = r.id then r else r' }

/-- A region at a place, as its arbiter admits it. -/
def newRegion (id die x y w h ctx queue seqno pool : Nat) : Region :=
  { id := id, die := die, x := x, y := y, w := w, h := h, ctx := ctx, queue := queue, seqno := seqno, phase := 0, image := none, pool := pool,
    lanternLast := w * h - 1, lanternShort := false, swap := none, drain := none, checkpoint := none, checkpointSaved := false, grotto := none, stopping := false,
    freezing := false, frozen := false, restoring := false, ended := none, kept := [] }

/-- The same operation on every core of a list. -/
def State.onCores (s : State) (f : Core → Core) : List Nat → State
  | [] => s
  | n :: rest => (s.setCore n (f (s.core n))).onCores f rest

/-- The core of a region at region-relative coordinates. -/
def Region.target (r : Region) (x y : Nat) : Option Nat := if x < r.w ∧ y < r.h then some (r.core x y) else none

/-- A core of a region that a command may name: inside the region and not dark (R138, R221). -/
def State.target (s : State) (r : Region) (x y : Nat) : Option Nat := (r.target x y).filter fun n => !s.isDark n

/-! ## The floor -/

def State.readByte (s : State) (pa : Nat) : Byte := sparseGet Config.emptyByte s.mem pa
def State.writeByte (s : State) (pa : Nat) (b : Byte) : State := { s with mem := sparseSet Config.emptyByte s.mem pa b }

/-- The n bytes from an address. -/
def State.readBytes (s : State) (pa : Nat) : Nat → List Byte
  | 0 => []
  | n + 1 => s.readByte pa :: s.readBytes (pa + 1) n

/-- Store some bytes from an address on. -/
def State.writeBytes (s : State) (pa : Nat) : List Byte → State
  | [] => s
  | b :: bs => (s.writeByte pa b).writeBytes (pa + 1) bs

/-- The little-endian value of n bytes (R156). -/
def State.readLE (s : State) (pa n : Nat) : Nat := leValue (s.readBytes pa n)
def State.writeLE (s : State) (pa n v : Nat) : State := s.writeBytes pa (leBytes n v)
def State.readWord (s : State) (pa : Nat) : Word := BitVec.ofNat 64 (s.readLE pa 8)

/-- The canonical form of the floor: addresses strictly rising, and no entry equal to the empty byte. -/
def Memory.wf (m : List Host.Cell) : Bool := risingFrom 0 m && noDefault Config.emptyByte m

/-- The doublewords that n bytes from an address touch. -/
def doublewords (pa n : Nat) : List Nat :=
  if n = 0 then [] else (List.range ((pa + n - 1) / 8 - pa / 8 + 1)).map fun k => pa / 8 + k

/-- Some doubleword that the bytes touch has an uncorrectable error (R304). -/
def State.floorBad (s : State) (pa n : Nat) : Bool := (doublewords pa n).any s.badFloor.contains

/-- Add one to a count of a die that stops at 0xFFFF_FFFF (R305). -/
def countUp (m : List (Nat × Word)) (die : Nat) : List (Nat × Word) :=
  let c := sparseGet 0 m die
  sparsePut m die (if c = 0xFFFFFFFF then c else c + 1)

/-- Single-bit errors of the doublewords touched are corrected, written back and counted in FECC (R304). -/
def State.correctFloor (s : State) (pa n : Nat) : State :=
  (doublewords pa n).foldl (fun s d =>
    if s.softFloor.contains d then
      { s with softFloor := s.softFloor.erase d, fecc := countUp s.fecc (bitsOf (d * 8) 36 4) }
    else s) s

/-- Doublewords that a store covers whole are written afresh, which repairs them (R304). -/
def State.repairFloor (s : State) (pa n : Nat) : State :=
  let whole := (doublewords pa n).filter fun d => decide (pa ≤ d * 8) && decide (d * 8 + 8 ≤ pa + n)
  { s with badFloor := s.badFloor.filter (fun d => !whole.contains d), softFloor := s.softFloor.filter (fun d => !whole.contains d) }

/-- A store fails when it covers only part of a doubleword with an uncorrectable error, because it must read it to merge (R304). -/
def State.mergeBad (s : State) (pa n : Nat) : Bool :=
  (doublewords pa n).any fun d => s.badFloor.contains d && !(decide (pa ≤ d * 8) && decide (d * 8 + 8 ≤ pa + n))

/-! ## Power and cooling (R356) -/

/-- The lantern budgets are reduced at the lowest level while TMAX is over the thermal limit. -/
def Package.rebudget (p : Package) : Package := { p with reduced := decide (p.level ≤ 8) && decide (p.modrec.thermal.toNat < p.tmax.toNat) }

/-- TMAX is over the hard limit. -/
def Package.overHard (p : Package) : Bool := decide (p.modrec.hard.toNat < p.tmax.toNat)

/-! ## Time (R354) -/

/-- The parts into which the stamp's fraction divides a nanosecond: 3 times the least common multiple of the levels 1 to 16. -/
def stampParts : Nat := 2162160

/-- dt core cycles pass. One cycle is 16 / (3 × LEVEL) ns: the clock is LEVEL × 187.5 MHz (R336), and the stamp counts nanoseconds
from bring-up step 6 on, at every level. -/
def State.elapse (s : State) (dt : Nat) : State :=
  let f := s.stampFrac + (if 6 ≤ s.pkg.step.toNat then 16 * stampParts / (3 * max s.pkg.level 1) * dt else 0)
  { s with now := s.now + dt, stamp := s.stamp + f / stampParts, stampFrac := f % stampParts }

/-- The global time stamp as a register reads it. -/
def State.time (s : State) : Word := BitVec.ofNat 64 s.stamp

/-- A fresh identity. -/
def State.fresh (s : State) : Nat × State := (s.nextId, { s with nextId := s.nextId + 1 })

/-! ## Packets and records -/

/-- Send a packet into the die network (R298). -/
def State.send (s : State) (cls : PacketClass) (src dst : UnitId) (p : Payload) : State := { s with net := s.net ++ [⟨cls, src, dst, p⟩] }

/-- Send a reply to a sequencer (R183). -/
def State.reply (s : State) (src : UnitId) (q id : Nat) (vals : List Word) (isTake : Bool := false) : State :=
  s.send .rsp src (.seq q) (.reply id vals isTake)

/-- SOURCE of R261. -/
def sourceNumber : UnitId → Nat
  | .core n => n
  | .edge n e => 2 ^ 22 + e * 2 ^ 20 + n
  | .seq q => 2 * 2 ^ 22 + q / 256 * 2 ^ 16 + q % 256
  | .region q => 3 * 2 ^ 22 + q / 256 * 2 ^ 16 + q % 256
  | .die d => 3 * 2 ^ 22 + d * 2 ^ 16
  | _ => 0

/-- A record of R260; LOST is written when it is delivered. -/
def eventRec (time : Word) (cause slot stage win source : Nat) (detail extra : Word) : EventRec :=
  ⟨#[time, BitVec.ofNat 64 (at_ cause 60 4 + at_ slot 49 3 + at_ stage 46 3 + at_ win 42 4 + at_ source 0 24), detail, extra], rfl⟩

/-- Send a record to the owning sequencer of a region (R258, R262). For the region itself the source is the owner's place (R261). -/
def State.record (s : State) (r : Region) (src : UnitId) (cause slot stage win : Nat) (detail extra : Word) : State :=
  let number := match src with | .region _ => sourceNumber (.region r.owner) | u => sourceNumber u
  s.send .rsp src (.seq r.owner) (.record (eventRec s.time cause slot stage win number detail extra))

/-- Send a record to the owner of the region that holds a core; nothing where no region does. -/
def State.recordOfCore (s : State) (n : Nat) (src : UnitId) (cause slot stage win : Nat) (detail extra : Word) : State :=
  match s.regionOfCore n with
  | some r => s.record r src cause slot stage win detail extra
  | none => s

/-- CFAULT with a further fault: the first is kept, a later one sets MORE only (R143). -/
def cfaultWith (old : Lane) (cause slot stage win addr : Nat) : Lane :=
  if bitAt old 35 then old ||| bit36 7
  else BitVec.ofNat 36 (2 ^ 35 + at_ cause 31 4 + at_ slot 28 3 + at_ stage 25 3 + at_ win 21 4 + at_ addr 8 13)

/-- EFAULT with a further fault (R170, R171). -/
def efaultWith (old : Lane) (cause slot : Nat) : Lane :=
  if bitAt old 35 then old ||| bit36 28 else BitVec.ofNat 36 (2 ^ 35 + at_ cause 31 4 + at_ slot 29 2)

/-- A value that the manual leaves open: nothing constrains it. -/
def State.freeWord (s : State) : Word × State := (Config.freeWord s.frees, { s with frees := s.frees + 1 })

/-- A package event for the host (R355). -/
def State.packageEvent (s : State) (die cause : Nat) (detail extra : Word) : State :=
  { s with pkg := { s.pkg with events := s.pkg.events ++ [eventRec s.time cause 0 0 0 (sourceNumber (.die die)) detail extra] } }

/-- A package event whose DETAIL and EXTRA the manual does not give: they are free values (R355). -/
def State.packageEventFree (s : State) (die cause : Nat) : State :=
  let (a, s) := s.freeWord
  let (b, s) := s.freeWord
  s.packageEvent die cause a b

/-- A package event of the whole module: the die of its SOURCE is a free value too. -/
def State.packageEventWhole (s : State) (cause : Nat) (detail : Option Word) : State :=
  let (d, s) := s.freeWord
  let (a, s) := s.freeWord
  let (b, s) := s.freeWord
  s.packageEvent (bv d 0 4) cause (detail.getD a) b

/-! ## Traps (R187 to R190) -/

/-- The trap causes of R188 and R221. -/
def causeILL : Nat := 1
def causeBADHDR : Nat := 2
def causeALIGN : Nat := 3
def causeADDR : Nat := 4
def causeXLAT : Nat := 5
def causePERM : Nat := 6
def causeCTL : Nat := 7
def causeVUGALLOC : Nat := 8
def causeFLOOR : Nat := 9
def causeSOFT : Nat := 10
def causeEVENT : Nat := 11
def causeTGT : Nat := 12
def causeOWNER : Nat := 13
def causeWIN : Nat := 14

/-- ECAUSE of R188. -/
def ecauseWord (cause idx code : Nat) : Word := BitVec.ofNat 64 (at_ code 16 15 + at_ idx 8 8 + at_ cause 0 4)

/-- Enter the trap handler: the block in issue is discarded with everything it would have done; EPC, ECAUSE and EADDR are saved, TL is
set, and control passes to TVEC (R187). -/
def Seq.enterTrap (v : Seq) (epc : Word) (cause idx code : Nat) (addr : Word) : Seq :=
  { v with blk := none, wait := .none, epc := epc, ecause := ecauseWord cause idx code, eaddr := addr, tl := true,
           pc := v.tvec.setWidth 56 }

/-- `eret`: control returns to EPC and TL is cleared (R186). DESIGN CHOICE (log 144): bits 63:56 of EPC are dropped, and an EPC that is not a
multiple of 4 traps ALIGN at the fetch. -/
def Seq.exitTrap (v : Seq) : Seq := { v with pc := v.epc.setWidth 56, tl := false }

/-- A double trap: the sequencer commits nothing further and stops; no CSR is written (R190). -/
def Seq.stopDouble (v : Seq) : Seq := { v with blk := none, doubleTrapped := true }

/-- Report a double trap (R190): a member's to the owner, as a record of cause 1 with the two sets of values (R261); the owner's to the
package, which fails the packet with the cause of the double-trapping trap (R343). -/
def State.reportDouble (s : State) (q : Nat) (epc : Word) (cause idx code : Nat) : State :=
  match s.regionOfSeq q with
  | none => s
  | some r =>
    let v := s.seq q
    if r.owner = q then
      { s with pkg := { s.pkg with live := s.pkg.live.map fun p =>
          if p.queue = r.queue ∧ p.seqno = r.seqno then { p with status := 5, reason := cause } else p } }
    else
      s.record r (.seq q) 1 0 0 0 epc
        (BitVec.ofNat 64 (bv (ecauseWord cause idx code) 0 32 + 2 ^ 32 * bv v.ecause 0 32))

/-- TAKING A TRAP, the one operation of every synchronous trap: entry (R187), or, where a handler is running, the double trap (R190). -/
def State.takeTrap (s : State) (q : Nat) (epc : Word) (cause idx code : Nat) (addr : Word) : State :=
  let v := s.seq q
  if v.tl then (s.setSeq q v.stopDouble).reportDouble q epc cause idx code
  else s.setSeq q (v.enterTrap epc cause idx code addr)

/-- A synchronous trap of the word at the head of the block in issue: EPC names the block (R187). -/
def State.trapWord (s : State) (q cause : Nat) (addr : Word) : State :=
  let v := s.seq q
  let idx := match v.blk with | some b => b.idx | none => 255
  s.takeTrap q (v.pc.setWidth 64) cause idx 0 addr

/-! ## Sequencer registers -/

/-- Read a register of a register file: s0 reads 0 (R173). -/
def readReg (regs : Vector Word 32) (r : Reg) : Word := if r = 0 then 0 else regs[r.toFin]
/-- Write a register: a write of s0 is discarded (R173). -/
def writeReg (regs : Vector Word 32) (r : Reg) (x : Word) : Vector Word 32 := if r = 0 then regs else regs.set r.toFin x
/-- Read a predicate: p0 reads 1 (R173). -/
def readPred (preds : Vector Bool 8) (p : Pred) : Bool := if p = 0 then true else preds[p.toFin]
/-- Write a predicate: a write of p0 is discarded (R173). -/
def writePred (preds : Vector Bool 8) (p : Pred) (x : Bool) : Vector Bool 8 := if p = 0 then preds else preds.set p.toFin x

/-- Write values into consecutive registers, numbered modulo 32 (R222, R242, R245). -/
def writeRegs (regs : Vector Word 32) : List Reg → List Word → Vector Word 32
  | r :: rs, x :: xs => writeRegs (writeReg regs r x) rs xs
  | _, _ => regs

/-- Registers d to d + n - 1, numbered modulo 32. -/
def regRun (d : Reg) (n : Nat) : List Reg := (List.range n).map fun k => d + BitVec.ofNat 5 k

end Sys2Proof.Machine
end

