-- ==== Sys2Proof/Machine/Window.lean ====
section
/-! DEFINITION. Windows of a core's store: descriptors, the ring, what may be read, fills and shrinks (06 R119-R126), loop guards (10 R267),
and the SWAP and DRAIN that stand in a window (09 R233, 10 R270). -/

namespace Sys2Proof.Machine

/-! ## Descriptors (R121) -/

abbrev Win := Fin 16

def wdBound (d : Word) : Bool := bitAt d 63
def wdParam (d : Word) : Bool := bitAt d 62
def wdBeat (d : Word) : Bool := bitAt d 61
def wdSrc (d : Word) : Nat := bv d 59 2
def wdLink (d : Word) : Nat := bv d 55 4
def wdPsize (d : Word) : Nat := bv d 44 11
def wdCap (d : Word) : Nat := bv d 33 11
def wdBase (d : Word) : Nat := bv d 20 13
/-- Store words of one element (R119). -/
def wdStep (d : Word) : Nat := if wdBeat d then 17 else 1
/-- Store words of the window (R119). -/
def wdFootprint (d : Word) : Nat := wdStep d * wdCap d

def Core.desc (c : Core) (w : Win) : Word := c.wdesc[w]
def Core.win (c : Core) (w : Win) : WinState := c.wstate[w]
def Core.setWin (c : Core) (w : Win) (v : WinState) : Core := { c with wstate := c.wstate.set w v }
/-- A bound window that is filled and shrunk. -/
def Core.ordinary (c : Core) (w : Win) : Bool := wdBound (c.desc w) && !wdParam (c.desc w)

/-- Every window. -/
def allWins : List Win := List.finRange 16

/-! ## The store (R119) -/

def Core.loadWord (c : Core) (a : Nat) : Lane := sparseGet 0 c.store a
/-- A write of a store word, with fresh check bits. -/
def Core.storeWord (c : Core) (a : Nat) (x : Lane) : Core :=
  { c with store := sparseSet 0 c.store a x, softStore := c.softStore.filter (· != a), badStore := c.badStore.filter (· != a) }

/-- The first store address of the element at offset i, counted from the oldest element (R119). -/
def Core.elemAddr (c : Core) (w : Win) (i : Nat) : Nat :=
  let d := c.desc w
  wdBase d + wdStep d * (((c.win w).head + i) % max (wdCap d) 1)

/-- The control word of a beat (R27). -/
def Beat.control (b : Beat) : Lane := BitVec.ofNat 36 (at_ b.graph.toNat 8 2 + at_ b.mark.toNat 5 3 + at_ b.count 0 5)

/-- A beat from its lanes and its control word; a COUNT above 16 reads as 16 (R29). -/
def beatOf (lanes : Vector Lane 16) (ctl : Lane) : Beat :=
  ⟨lanes, min (bv ctl 0 5) 16, BitVec.ofNat 3 (bv ctl 5 3), BitVec.ofNat 2 (bv ctl 8 2)⟩

/-- The beat whose seventeen words begin at a store address. -/
def Core.beatAt (c : Core) (a : Nat) : Beat := beatOf (Vector.ofFn fun l : Fin 16 => c.loadWord (a + l)) (c.loadWord (a + 16))

/-- Write some lanes from a store address on. -/
def Core.storeWords (c : Core) (a : Nat) : List Lane → Core
  | [] => c
  | x :: xs => (c.storeWord a x).storeWords (a + 1) xs

/-- A beat with zeros in its lanes at and above its count (R29). -/
def Beat.trim (b : Beat) : Beat := { b with lanes := Vector.ofFn fun l : Fin 16 => if l.val < b.count then b.lanes[l] else 0 }

/-- A beat as it may leave a stage: with SWAP, DRAIN or FAULT the device never produces a COUNT above 0 (R32). DESIGN CHOICE (log 129): such a result
keeps its marker and has COUNT 0. -/
def Beat.settled (b : Beat) : Beat := if 5 ≤ b.mark.toNat ∧ b.count ≠ 0 then { Beat.blank 0 b.mark with graph := b.graph } else b

def Core.storeBeat (c : Core) (a : Nat) (b : Beat) : Core := c.storeWords a (b.trim.lanes.toList ++ [b.control])

/-! ## Markers (R31) -/

def markNone : BitVec 3 := 0
def markEOR : BitVec 3 := 1
def markEOT : BitVec 3 := 2
def markEOS : BitVec 3 := 3
def markSOT : BitVec 3 := 4
def markSWAP : BitVec 3 := 5
def markDRAIN : BitVec 3 := 6
def markFAULT : BitVec 3 := 7
def markRank (m : BitVec 3) : Nat := if m.toNat ≤ 3 then m.toNat else 0

/-- A SWAP or DRAIN beat (R233, R270). -/
def Beat.isPoint (b : Beat) : Bool := b.mark == markSWAP || b.mark == markDRAIN

/-- A beat that is dropped at a port and not filled (R30, R46). -/
def Beat.empty (b : Beat) : Bool := b.count == 0 && b.mark == markNone

/-! ## What may be read (R124, R233, R270) -/

/-- The first of the offsets from i on, n of them at most, whose beat is a SWAP or DRAIN. -/
def Core.findPoint (c : Core) (w : Win) : Nat → Nat → Option Nat
  | _, 0 => none
  | i, n + 1 => if (c.beatAt (c.elemAddr w i)).isPoint then some i else c.findPoint w (i + 1) n

/-- The number of elements before the first SWAP or DRAIN that the window holds; none where it holds none. -/
def Core.point (c : Core) (w : Win) : Option Nat :=
  let st := c.win w
  if wdBeat (c.desc w) then c.findPoint w 0 st.filled
  else match st.swapPoint, st.drainPoint with
    | some a, some b => some (min a b)
    | some a, none => some a
    | none, b => b

/-- The elements that may be read: those filled, before any SWAP or DRAIN. A parameter window holds PSIZE (R123). -/
def Core.extent (c : Core) (w : Win) : Nat :=
  if wdParam (c.desc w) then wdPsize (c.desc w)
  else match c.point w with
    | some p => min p (c.win w).filled
    | none => (c.win w).filled

/-! ## Loop guards (R266, R267) -/

def lgActive (g : Lane) : Bool := bitAt g 35
def lgAdmit (g : Lane) : Nat := bv g 31 4
def lgCredit (g : Lane) : Nat := bv g 27 4
/-- LIMIT as it acts: 1 to 1024. -/
def lgLimit (g : Lane) : Nat := min (max (bv g 16 11) 1) 1024
def lgOcc (g : Lane) : Nat := bv g 5 11
def lgWithOcc (g : Lane) (n : Nat) : Lane := (g &&& 0xFFFFF001F) ||| BitVec.ofNat 36 (at_ n 5 11)

/-- Elements freed from an admission window are counted (R267). -/
def Core.admitted (c : Core) (w : Win) (k : Nat) : Core :=
  { c with guards := c.guards.map fun g =>
      if lgActive g && lgAdmit g == w.val then lgWithOcc g (min (lgOcc g + k) 2047) else g }

/-- k credits come back: each takes one from OCC, or sets UND where OCC is 0 (R267). -/
def lgCredited (g : Lane) (k : Nat) : Lane :=
  let g' := lgWithOcc g (lgOcc g - k)
  if lgOcc g < k then g' ||| 0x10 else g'

def Core.credited (c : Core) (w : Win) (k : Nat) : Core :=
  { c with guards := c.guards.map fun g => if lgActive g && lgCredit g == w.val then lgCredited g k else g }

/-- The window is the credit window of an active guard. -/
def Core.isCredit (c : Core) (w : Win) : Bool := c.guards.toList.any fun g => lgActive g && lgCredit g == w.val

/-! ## Shrinks (R113, R123, R233) -/

/-- CWARN bits (R57). -/
def cwRND : Lane := 0x1
def cwSHP : Lane := 0x2
def cwBCNT : Lane := 0x4
def cwCMARK : Lane := 0x8
def cwOPC : Lane := 0x20
def cwOPND : Lane := 0x40
def cwMODX : Lane := 0x80
def cwAUXX : Lane := 0x100
def cwLBIT : Lane := 0x200
def cwDSTX : Lane := 0x400
def cwTMODE : Lane := 0x800
def cwTRANGE : Lane := 0x1000
def cwTUNB : Lane := 0x2000
def cwCNTM : Lane := 0x4000
def cwHDR : Lane := 0x8000
def cwJKEY : Lane := 0x10000

/-- A point moves down by the elements freed before it. -/
def lowerPoint (p : Option Nat) (k : Nat) : Option Nat := p.map (· - k)

/-- Free the k oldest elements, which are all filled. -/
def Core.freeHead (c : Core) (w : Win) (k : Nat) : Core :=
  let st := c.win w
  (c.setWin w { st with head := (st.head + k) % max (wdCap (c.desc w)) 1, filled := st.filled - k,
                        swapPoint := lowerPoint st.swapPoint k, drainPoint := lowerPoint st.drainPoint k }).admitted w k

/-- A shrink of n elements: what is filled before a SWAP or DRAIN is freed, and the rest is a debt (R123, R233). A shrink of an unbound or
a parameter window does nothing (R125, R126). -/
def Core.shrinkWin (c : Core) (w : Win) (n : Nat) (byFiring : Bool) : Core :=
  if !c.ordinary w then c
  else
    let k := min n (c.extent w)
    let c := c.freeHead w k
    let st := c.win w
    let debt := st.debt + (n - k)
    let c := c.setWin w { st with debt := min debt 2047, shrunk := if byFiring then st.shrunk + BitVec.ofNat 36 n else st.shrunk }
    if 2047 < debt then { c with cwarn := c.cwarn ||| cwTRANGE } else c

/-! ## Fills (R109, R124, R233, R267) -/

/-- A window has room for n elements: none is ever overwritten (R124). -/
def Core.room (c : Core) (w : Win) (n : Nat) : Bool := decide ((c.win w).filled + n ≤ wdCap (c.desc w))

/-- Append one element whose words are given. -/
def Core.append (c : Core) (w : Win) (words : List Lane) : Core :=
  let st := c.win w
  (c.storeWords (c.elemAddr w st.filled) words).setWin w { st with filled := st.filled + 1 }

/-- Append one element that is not a SWAP or DRAIN: into a credit window it is a credit and is freed at once (R267); while a debt stands
and no point does, it pays the debt and is freed at once (R124); else it stays. -/
def Core.appendData (c : Core) (w : Win) (words : List Lane) : Core :=
  let c' := c.append w words
  if c.isCredit w then
    let st := c'.win w
    (c'.setWin w { st with head := if st.filled = 1 then (st.head + 1) % max (wdCap (c.desc w)) 1 else st.head,
                           filled := st.filled - 1 }).credited w 1
  else if (c.win w).debt ≠ 0 ∧ c.point w = none then
    let c'' := c'.freeHead w 1
    c''.setWin w { c''.win w with debt := (c''.win w).debt - 1 }
  else c'

/-- Append some one-word elements. -/
def Core.appendWords (c : Core) (w : Win) : List Lane → Core
  | [] => c
  | x :: xs => (c.appendData w [x]).appendWords w xs

/-- A SWAP or DRAIN enters a window: an element of a beat-wide window, the point of a word-wide one, which takes no room (R233, R270). -/
def Core.fillPoint (c : Core) (w : Win) (b : Beat) : Option Core :=
  let st := c.win w
  if wdBeat (c.desc w) then
    if c.room w 1 then some (c.append w (b.trim.lanes.toList ++ [b.control])) else none
  else if b.mark = markSWAP then some (c.setWin w { st with swapPoint := some (st.swapPoint.getD st.filled) })
  else some (c.setWin w { st with drainPoint := some (st.drainPoint.getD st.filled) })

/-- A fill of a beat into an ordinary window; none while it lacks room for the whole of it (R109, R124). -/
def Core.fillFree (c : Core) (w : Win) (b : Beat) : Option Core :=
  if b.isPoint then c.fillPoint w b
  else if wdBeat (c.desc w) then
    if b.empty then some c
    else if c.room w 1 then some (c.appendData w (b.trim.lanes.toList ++ [b.control])) else none
  else if c.room w b.count then some (c.appendWords w (b.lanes.toList.take b.count)) else none

/-- A fill, behind a SWAP that waits for the window (R232). -/
def Core.fillBeat (c : Core) (w : Win) (b : Beat) : Option Core :=
  if !b.isPoint && c.swapDue.contains w then none else c.fillFree w b

/-- The bound link-filled window of a link (R126). -/
def Core.linkWin (c : Core) (link : BitVec 4) : Option Win :=
  allWins.find? fun w => c.ordinary w && wdSrc (c.desc w) == 0 && wdLink (c.desc w) == link.toNat

/-! ## Switch words and ports (R128 to R133) -/

def swSel (x : BitVec 16) : BitVec 4 := BitVec.ofNat 4 (bv x 12 4)
def swOut (x : BitVec 16) : Nat := bv x 7 5
def swLink (x : BitVec 16) : BitVec 4 := BitVec.ofNat 4 (bv x 3 4)
def swKind (x : BitVec 16) : Nat := bv x 0 3

/-- RWARN bits (R142). -/
def rwSKIND : Lane := 0x1
def rwSSEL : Lane := 0x2
def rwSMASK : Lane := 0x4
def rwNOWIN : Lane := 0x8
def rwNOROUTE : Lane := 0x10
def rwCTLW : Lane := 0x20

/-- The switch word of a core for an input and a link. -/
def Core.switch? (c : Core) (sel link : BitVec 4) : Option (BitVec 16) := c.switches.find? fun x => swSel x == sel && swLink x == link

/-- The link of the switch word that reads a port (R128). -/
def Core.portLink (c : Core) (j : Fin 4) : Option (BitVec 4) :=
  (c.switches.find? fun x => swSel x == BitVec.ofNat 4 (4 + j)).map swLink

/-- The staging register of an input and link holds a beat (R130). -/
def Core.staged (c : Core) (sel link : BitVec 4) : Bool := c.staging.any fun x => x.sel == sel && x.link == link
def Core.stage (c : Core) (sel link : BitVec 4) (b : Beat) : Core := { c with staging := c.staging ++ [⟨sel, link, b⟩] }
def Core.unstage (c : Core) (sel link : BitVec 4) : Core :=
  { c with staging := c.staging.filter fun x => !(x.sel == sel && x.link == link) }

/-- A beat leaves a port; none while the port's staging register is taken or its SWAP is pending (R42, R234). A port that no switch word
reads discards it (R58). -/
def Core.sendPort (c : Core) (j : Fin 4) (b : Beat) : Option Core :=
  if b.empty then some c
  else match c.portLink j with
    | none => some c
    | some link =>
      let sel : BitVec 4 := BitVec.ofNat 4 (4 + j)
      if c.staged sel link || c.swapPorts[j] then none else some (c.stage sel link b)

end Sys2Proof.Machine
end

