-- ==== Sys2Proof/Machine/EdgePattern.lean ====
section
/-! DEFINITION. The descriptors of an edge stream and the elements it visits (07 R147 to R152, R156 to R161; 14 R313). -/

namespace Sys2Proof.Machine

/-! ## The pattern descriptor (R148) -/

def EdgeSlot.kind (e : EdgeSlot) : Nat := bv e.pattern[0] 60 4
def EdgeSlot.fmt (e : EdgeSlot) : Nat := bv e.pattern[0] 56 4
def EdgeSlot.base (e : EdgeSlot) : Nat := bv e.pattern[0] 0 56
def EdgeSlot.win (e : EdgeSlot) : Fin 16 := Fin.ofNat 16 (bv e.pattern[1] 60 4)
def EdgeSlot.iwin (e : EdgeSlot) : Fin 16 := Fin.ofNat 16 (bv e.pattern[1] 56 4)
def EdgeSlot.clipSkip (e : EdgeSlot) : Bool := bitAt e.pattern[1] 4
def EdgeSlot.elastic (e : EdgeSlot) : Bool := bitAt e.pattern[1] 3
def EdgeSlot.xflag (e : EdgeSlot) : Bool := bitAt e.pattern[1] 2
def EdgeSlot.acq (e : EdgeSlot) : Bool := bitAt e.pattern[1] 1
def EdgeSlot.permit (e : EdgeSlot) : Bool := bitAt e.pattern[1] 0
def EdgeSlot.dseq (e : EdgeSlot) : Bool := bitAt e.pattern[2] 63
def EdgeSlot.dwin (e : EdgeSlot) : Fin 16 := Fin.ofNat 16 (bv e.pattern[2] 59 4)
/-- DSCOPE of a store kind, KREQ of a load kind. -/
def EdgeSlot.dscope (e : EdgeSlot) : Nat := bv e.pattern[2] 55 4
def EdgeSlot.dv (e : EdgeSlot) : Bool := bitAt e.pattern[2] 54
def EdgeSlot.auxa (e : EdgeSlot) : Nat := bv e.pattern[2] 0 53 * 8
/-- The word of a dimension, D3 for dimension 0. -/
def EdgeSlot.dimWord (e : EdgeSlot) (d : Nat) : Word := e.pattern[3 + d]?.getD 0
def EdgeSlot.rank (e : EdgeSlot) (d : Nat) : Nat := bv (e.dimWord d) 62 2
/-- CNT + 1. -/
def EdgeSlot.count (e : EdgeSlot) (d : Nat) : Nat := bv (e.dimWord d) 47 15 + 1
def EdgeSlot.lim (e : EdgeSlot) (d : Nat) : Nat := bv (e.dimWord d) 32 15
def EdgeSlot.stride (e : EdgeSlot) (d : Nat) : Int := ((e.dimWord d).setWidth 32).toInt

/-- The kinds of R147. -/
def EdgeSlot.loadKind (e : EdgeSlot) : Bool := e.kind == 0 || e.kind == 2 || e.kind == 5
def EdgeSlot.storeKind (e : EdgeSlot) : Bool := e.kind == 1 || e.kind == 3 || e.kind == 4
/-- Dimension 1 is walked by index tokens (R152, R312). -/
def EdgeSlot.byToken (e : EdgeSlot) : Bool := e.kind == 2 || e.kind == 3 || e.kind == 4 || e.kind == 6
def EdgeSlot.bp (e : EdgeSlot) : Bool := e.fmt == 9 || e.fmt == 10
/-- BOOL1, LW36, BP8 and BP4 store whole units (R151); an erase run, whatever its FMT, goes element by element (R318). -/
def EdgeSlot.packed (e : EdgeSlot) : Bool := decide (7 ≤ e.fmt) && e.kind != 7
/-- P of R160. -/
def EdgeSlot.planeCount (e : EdgeSlot) : Nat := if e.fmt = 9 then 8 else 4

/-! ## The format descriptor (R159) -/

def EdgeSlot.tensorScale (e : EdgeSlot) : Nat := bv e.format[0] 32 32
def EdgeSlot.kmin (e : EdgeSlot) : Nat := bv e.format[0] 8 4
def EdgeSlot.formatFmt (e : EdgeSlot) : Nat := bv e.format[0] 0 4
def EdgeSlot.seed (e : EdgeSlot) : Word := e.format[1]
def EdgeSlot.origin (e : EdgeSlot) : Nat := bv e.format[2] 0 32
/-- FS_d of a dimension 1 to 4. -/
def EdgeSlot.frameStride (e : EdgeSlot) (d : Nat) : Int :=
  match d with
  | 1 => (BitVec.ofNat 16 (bv e.format[2] 32 16)).toInt
  | 2 => (BitVec.ofNat 16 (bv e.format[2] 48 16)).toInt
  | 3 => (BitVec.ofNat 16 (bv e.format[3] 0 16)).toInt
  | 4 => (BitVec.ofNat 16 (bv e.format[3] 16 16)).toInt
  | _ => 0

/-! ## Walking the elements (R150, R151) -/

/-- The number of indices that dimension d walks: in skip mode no more than LIM (R151); a dimension walked by tokens keeps its count (R152),
and a translation stream has one element for each token (R312). -/
def EdgeSlot.walk (e : EdgeSlot) (d : Nat) : Nat :=
  if e.kind = 6 ∧ d = 0 then 1
  else if e.clipSkip ∧ e.lim d ≠ 0 ∧ !(e.byToken && d == 1) then min (e.count d) (e.lim d) else e.count d

/-- An index lies at or above its clip limit. -/
def EdgeSlot.clippedAt (e : EdgeSlot) (d i : Nat) : Bool := e.lim d != 0 && decide (e.lim d ≤ i)

/-- The next index vector, with the length of dimension 0 given; none after the last. -/
def nextIndex (len : Nat → Nat) (cur : Vector Nat 5) : Nat → Nat → Option (Vector Nat 5)
  | _, 0 => none
  | d, fuel + 1 =>
    if (cur[d]?.getD 0) + 1 < len d then some (cur.setIfInBounds d ((cur[d]?.getD 0) + 1))
    else nextIndex len (cur.setIfInBounds d 0) (d + 1) fuel

/-- The number of an element in the order of R150: its place in the box that the stream walks. -/
def EdgeSlot.number (e : EdgeSlot) (cur : Vector Nat 5) : Nat :=
  cur[0] + e.walk 0 * (cur[1] + e.walk 1 * (cur[2] + e.walk 2 * (cur[3] + e.walk 3 * cur[4])))

/-- The index vector of an element number. -/
def EdgeSlot.indexOf (e : EdgeSlot) (n : Nat) : Vector Nat 5 :=
  let a := n / max (e.walk 0) 1
  let b := a / max (e.walk 1) 1
  let c := b / max (e.walk 2) 1
  ⟨#[n % max (e.walk 0) 1, a % max (e.walk 1) 1, b % max (e.walk 2) 1, c % max (e.walk 3) 1, c / max (e.walk 3) 1], rfl⟩

/-- How many dimensions end their runs at an element, from dimension d on, for dimension lengths len. -/
def endingDims (len : Nat → Nat) (cur : Vector Nat 5) : Nat → Nat → Nat
  | _, 0 => 0
  | d, fuel + 1 => if (cur[d]?.getD 0) + 1 < len d then 0 else endingDims len cur (d + 1) fuel + 1

/-- The rank of the boundary at an element: the highest RANK among the dimensions whose runs end there (R150). -/
def EdgeSlot.boundary (e : EdgeSlot) (len : Nat → Nat) (c : Vector Nat 5) : Nat :=
  (List.range (endingDims len c 0 5)).foldl (fun m d => max m (e.rank d)) 0

/-- The stream's tiles are marked: some dimension has RANK 2 or 3 (R150). -/
def EdgeSlot.tiled (e : EdgeSlot) : Bool := (List.range 5).any fun d => decide (2 ≤ e.rank d) && !(e.kind == 6 && d == 0)

/-! ## Addresses (R150, R152, R157, R160) -/

/-- Bytes of an element of a format of whole bytes (R156). -/
def elemBytes (fmt : Nat) : Nat :=
  match fmt with
  | 0 => 4
  | 3 => 4
  | 1 => 2
  | 2 => 2
  | 4 => 2
  | _ => 1

/-- Indices as they enter addresses: a token in place of i1, a row pointer added to i0 (R152, R153). -/
structure Where where
  i0 : Int
  i1 : Int
  i2 : Int
  i3 : Int
  i4 : Int
  deriving DecidableEq, Repr

/-- The part of the address that dimensions 1 to 4 give. -/
def EdgeSlot.outer (e : EdgeSlot) (w : Where) : Int := w.i1 * e.stride 1 + w.i2 * e.stride 2 + w.i3 * e.stride 3 + w.i4 * e.stride 4

/-- G: where the plane group of an element begins (R160). -/
def EdgeSlot.groupAddr (e : EdgeSlot) (w : Where) : Int := (e.base : Int) + w.i0 / 1024 * (128 * e.planeCount) + e.outer w

/-- The address of the byte, group or plane group that holds an element. -/
def EdgeSlot.addr (e : EdgeSlot) (w : Where) : Int :=
  if e.fmt = 7 then (e.base : Int) + w.i0 / 8 + e.outer w
  else if e.fmt = 8 then (e.base : Int) + w.i0 / 8 * 36 + e.outer w
  else if e.bp then e.groupAddr w
  else (e.base : Int) + w.i0 * e.stride 0 + e.outer w

/-- The address of the scale byte of an element's block (R160). -/
def EdgeSlot.scaleAddr (e : EdgeSlot) (w : Where) : Int :=
  (e.auxa : Int) + (e.groupAddr w - e.base) / (4 * e.planeCount) + w.i0 % 1024 / 32

/-- The frame index of an element (R161). -/
def EdgeSlot.frame (e : EdgeSlot) (w : Where) : Nat :=
  (((e.origin : Int) + w.i0 + w.i1 * e.frameStride 1 + w.i2 * e.frameStride 2 + w.i3 * e.frameStride 3 + w.i4 * e.frameStride 4)
    % 2 ^ 32).toNat

/-! ## Progress of a run -/

/-- The slot has a run in progress: running, waiting or withholding. -/
def EdgeSlot.active (e : EdgeSlot) : Bool :=
  e.state == .running || e.state == .waitAcquire || e.state == .waitPermit || e.state == .withholding

/-- The number of elements in the box that the stream walks. -/
def EdgeSlot.total (e : EdgeSlot) : Nat := e.walk 0 * (e.walk 1 * (e.walk 2 * (e.walk 3 * e.walk 4)))

/-- Elements visited by the run. -/
def EdgeSlot.visited (e : EdgeSlot) : Nat := if e.finished then e.total else e.number e.cursor

/-- The row of the element at the cursor, counted from the first of the run. -/
def EdgeSlot.rowNow (e : EdgeSlot) : Nat := e.visited / max (e.walk 0) 1

/-- The number of the first element of the packed unit or block whose elements have begun to leave WIN. -/
def EdgeSlot.unitStart (e : EdgeSlot) : Nat := e.visited - e.packBuf.length

/-- Elements of the packed unit or block that begins at element number k: those that its row still has (R151). -/
def EdgeSlot.unitSize (e : EdgeSlot) (k : Nat) : Nat :=
  let unit := if e.bp then 32 else 8
  let i0 := k % max (e.walk 0) 1
  if e.packed then min (unit - i0 % unit) (e.walk 0 - i0) else 1

/-- The numbers of the elements visited that have not performed: those that name an access, and the first of a unit being formed. -/
def EdgeSlot.pending (e : EdgeSlot) : List Nat :=
  e.issued.map (·.2) ++ e.failed.map (·.tag) ++ (if e.packBuf.isEmpty then [] else [e.unitStart])

/-- The number of the earliest element that has not performed. -/
def EdgeSlot.earliestNumber (e : EdgeSlot) : Nat := e.pending.foldl min e.visited

/-- Its index vector. -/
def EdgeSlot.earliest (e : EdgeSlot) : Vector Nat 5 :=
  if e.earliestNumber < e.visited then e.indexOf e.earliestNumber else e.cursor

/-- How many elements an access that names element k stores: those of its unit that are not clipped (R151). -/
def EdgeSlot.weight (e : EdgeSlot) (k : Nat) : Nat :=
  if e.packed then ((List.range (e.unitSize k)).filter fun j => !e.clippedAt 0 (k % max (e.walk 0) 1 + j)).length else 1

/-- Elements that the run has delivered or stored (R261). -/
def EdgeSlot.done (e : EdgeSlot) : Nat :=
  e.elements - (((e.issued.map (·.2) ++ e.failed.map (·.tag)).eraseDups.map e.weight).sum)

/-- The limit of 64 elements beyond the earliest that has not performed, for the last element of the unit to be issued next (R311). -/
def EdgeSlot.mayIssue (e : EdgeSlot) : Bool := decide (e.unitStart + e.unitSize e.unitStart ≤ e.earliestNumber + 65)

/-! ## LOW (R313) -/

/-- The outermost dimension with CNT above 0. -/
def EdgeSlot.outermost (e : EdgeSlot) : Nat := (List.range 5).foldl (fun m d => if 1 < e.count d then d else m) 0

/-- The lowest byte address that a running slot may still access (R313). -/
def EdgeSlot.low (e : EdgeSlot) : Nat :=
  if (e.kind = 0 ∨ e.kind = 1 ∨ e.kind = 7) ∧ (List.range 5).all fun d => decide (0 ≤ e.stride d) then
    let o := e.outermost
    let i : Int := ((e.earliest)[o]?.getD 0 : Nat)
    (e.addr ⟨if o = 0 then i else 0, if o = 1 then i else 0, if o = 2 then i else 0, if o = 3 then i else 0, if o = 4 then i else 0⟩).toNat
      % 2 ^ 56
  else 0

/-! ## Tokens and maxima of IWIN (R152, R162) -/

/-- The token of row r, which IWIN has been shrunk past already. -/
def EdgeSlot.rowToken (e : EdgeSlot) (r : Nat) : Option Lane :=
  if r < e.tokensTaken then e.rowTokens[e.rowTokens.length - (e.tokensTaken - r)]? else none

/-- Blocks of a row of a quantising store, and the place of the block of element k among all blocks of the run. -/
def EdgeSlot.rowBlocks (e : EdgeSlot) : Nat := (e.walk 0 + 31) / 32
def EdgeSlot.blockNumber (e : EdgeSlot) (k : Nat) : Nat := k / max (e.walk 0) 1 * e.rowBlocks + k % max (e.walk 0) 1 / 32

/-- The maximum of block b, which the run has taken already. -/
def EdgeSlot.blockMax (e : EdgeSlot) (b : Nat) : Option Lane :=
  if b < e.maximaTaken then e.maxima[e.maxima.length - (e.maximaTaken - b)]? else none

/-- The last entries of a list of which `taken` have been taken, without those before number `first`. -/
def keepFrom (l : List Lane) (taken first : Nat) : List Lane := l.drop (l.length - (taken - first))

/-- The tokens of rows, and the maxima of blocks, that are over by element k are kept no longer. -/
def EdgeSlot.keepUnits (e : EdgeSlot) (k : Nat) : EdgeSlot :=
  { e with rowTokens := keepFrom e.rowTokens e.tokensTaken (k / max (e.walk 0) 1), maxima := keepFrom e.maxima e.maximaTaken (e.blockNumber k) }

/-- How many tokens, and maxima, of rows and blocks that are not over the slot holds (log 109). -/
def EdgeSlot.tokenRoom (e : EdgeSlot) : Nat := if e.kind = 2 then 6 else if !e.storeKind then 1 else if e.bp then 4 else if e.packed then 8 else 16
def maximaRoom : Nat := 4

/-! ## Windows of a stream (R150, R152) -/

/-- The store words that show how full the beat at offset i is, or that an element is itself. -/
def Core.elemWord (c : Core) (w : Win) (i : Nat) : Nat × Win := (c.elemAddr w i + (if wdBeat (c.desc w) then 16 else 0), w)

/-- What a stream finds in a window: the offset of the element, its lane and the value there. -/
structure Found1 where
  skip : Nat
  lane : Nat
  value : Lane
  deriving DecidableEq, Repr

/-- What a stream finds at valid lane k of a window, counted from lane `used` of the element at offset i, with the store words read; beats of
COUNT 0 are passed over. -/
def Core.findLane (c : Core) (w : Win) : Nat → Nat → Nat → Nat → Option Found1 × List (Nat × Win)
  | 0, _, _, _ => (none, [])
  | fuel + 1, i, used, k =>
    if c.extent w ≤ i then (none, [])
    else if wdBeat (c.desc w) then
      let b := c.beatAt (c.elemAddr w i)
      if used + k < b.count then
        (some ⟨i, used + k, b.lanes[used + k]?.getD 0⟩, [c.elemWord w i, (c.elemAddr w i + (used + k), w)])
      else
        let (r, l) := c.findLane w fuel (i + 1) 0 (k - (b.count - used))
        (r, c.elemWord w i :: l)
    else if k = 0 then (some ⟨i, 0, c.loadWord (c.elemAddr w i)⟩, [c.elemWord w i])
    else c.findLane w fuel (i + 1) 0 (k - 1)

/-- Valid lane k beyond lane `used` of the oldest element. -/
def Core.laneAhead (c : Core) (w : Win) (used k : Nat) : Option Found1 × List (Nat × Win) := c.findLane w (c.extent w + 1) 0 used k

/-- The element that a stream takes whole from a window, behind what firings already issued will free: its offset. -/
def Core.headOffset (c : Core) (w : Win) : Option Nat :=
  let base := if wdParam (c.desc w) then 0 else (c.pipe.map fun f => (f.fixedShrinks ++ f.shrinks).foldl (fun n p => if p.1 = w then n + p.2 else n) 0).sum
  if wdBound (c.desc w) ∧ base < c.extent w then some base else none

/-- Free n valid lanes of a window, of whose oldest element `used` lanes are gone: an element is shrunk once all its valid lanes are. -/
def Core.freeLanes (c : Core) (w : Win) : Nat → Nat → Nat → Core × Nat
  | 0, used, _ => (c, used)
  | fuel + 1, used, n =>
    if c.extent w = 0 then (c, used)
    else
      let count := if wdBeat (c.desc w) then (c.beatAt (c.elemAddr w 0)).count else 1
      if n = 0 ∧ (used = 0 ∨ used < count) then (c, used)
      else if count ≤ used then (c.shrinkWin w 1 false).freeLanes w fuel 0 n
      else c.freeLanes w fuel (used + 1) (n - 1)

/-- Pass over beats of COUNT 0 at the head of a beat-wide window (R150). -/
def Core.passEmpty (c : Core) (w : Win) : Nat → Core
  | 0 => c
  | fuel + 1 =>
    if 0 < c.extent w ∧ wdBeat (c.desc w) ∧ (c.beatAt (c.elemAddr w 0)).count = 0 then (c.shrinkWin w 1 false).passEmpty w fuel else c

/-- Free from WIN the elements of a store stream up to a number. -/
def Core.edgeFree (c : Core) (e : Fin 4) (target : Nat) : Core :=
  let sl := c.edge[e]
  let n := target - sl.freed
  let (c, used) := c.freeLanes sl.win (2 * n + 1026) sl.laneUsed n
  { c with edge := c.edge.set e { c.edge[e] with laneUsed := used, freed := max sl.freed target } }

/-- The elements of a store stream that have performed, with all before them, leave WIN, and their tokens and maxima are kept no longer (R150,
R273; log 12). -/
def Core.edgeFreeDone (c : Core) (e : Fin 4) : Core :=
  let sl := c.edge[e]
  if sl.storeKind && sl.active then
    let k := min sl.earliestNumber sl.unitStart
    let c := c.edgeFree e k
    { c with edge := c.edge.set e (c.edge[e].keepUnits k) }
  else c

/-- IWIN is shrunk past a token, which the slot keeps until its row is over (R152). -/
def Core.tokenUsed (c : Core) (e : Fin 4) (t : Lane) : Core :=
  let sl := c.edge[e]
  let ends := !wdBeat (c.desc sl.iwin) || decide ((c.beatAt (c.elemAddr sl.iwin 0)).count ≤ sl.iLaneUsed)
  let c := if ends then c.shrinkWin sl.iwin 1 false else c
  { c with edge := c.edge.set e { c.edge[e] with tokensTaken := sl.tokensTaken + 1, rowTokens := sl.rowTokens ++ [t],
                                                 iLaneUsed := if ends then 0 else sl.iLaneUsed } }

/-- All accesses of the row at the cursor have been issued: IWIN is shrunk past its token. -/
def Core.rowIssued (c : Core) (e : Fin 4) : Core :=
  match c.edge[e].token with
  | none => c
  | some t => if c.edge[e].rowNow < c.edge[e].tokensTaken then c else c.tokenUsed e t

/-- The same of a row behind the one at the cursor. -/
def Core.aheadIssued (c : Core) (e : Fin 4) : Core :=
  match c.edge[e].tokenAhead with
  | none => c
  | some t => let c := c.tokenUsed e t; { c with edge := c.edge.set e { c.edge[e] with tokenAhead := none } }

/-- The row of an element, for kinds but ragged, and its token where the run has it. -/
def EdgeSlot.rowOf (e : EdgeSlot) (idx : Vector Nat 5) : Nat := e.number idx / max (e.walk 0) 1
def EdgeSlot.tokenOf (e : EdgeSlot) (r : Nat) : Option Lane :=
  if r = e.rowNow then e.token else (e.rowToken r).orElse fun _ => if r = e.tokensTaken then e.tokenAhead else none

/-- The slot as it stands in the row of an element. -/
def EdgeSlot.inRow (e : EdgeSlot) (idx : Vector Nat 5) : EdgeSlot := if e.byToken then { e with token := e.tokenOf (e.rowOf idx) } else e

end Sys2Proof.Machine
end

