-- ==== Sys2Proof/Machine/Operands.lean ====
section
/-! DEFINITION. What a stage reads: operand codes (03 R44), taps (R53, R54), their fallbacks (R58), the window reads of flow stages (05 R96),
and the windows and ports a stage word touches (R42, R39). -/

namespace Sys2Proof.Machine

/-! ## Handler records (R51 to R55) -/

def h0Valid (h : HandlerRec) : Bool := bitAt h[0] 31
def h0Mask (h : HandlerRec) : Bool := bitAt h[0] 30
def h0Prio (h : HandlerRec) : Nat := bv h[0] 27 3
def h0Graph (h : HandlerRec) : BitVec 2 := BitVec.ofNat 2 (bv h[0] 25 2)
def h0Trig (h : HandlerRec) : Win := Fin.ofNat 16 (bv h[0] 21 4)
def h0Fillw (h : HandlerRec) : Win := Fin.ofNat 16 (bv h[0] 17 4)
/-- MIN, where 0 acts as 1 (R58). -/
def h0Min (h : HandlerRec) : Nat := max (bv h[0] 6 11) 1
def h0Strict (h : HandlerRec) : Bool := bitAt h[0] 5
def h11Shrink (h : HandlerRec) : Nat := bv h[11] 21 11
/-- ILIM, where 0 means 1024. -/
def h11Ilim (h : HandlerRec) : Nat := if bv h[11] 11 10 = 0 then 1024 else bv h[11] 11 10
def h11Xrank (h : HandlerRec) : Nat := bv h[11] 9 2
def h11Xmask (h : HandlerRec) : Bool := bitAt h[11] 8

def HandlerRec.setMask (h : HandlerRec) (m : Bool) : HandlerRec :=
  h.set 0 (if m then h[0] ||| 0x40000000 else h[0] &&& 0xBFFFFFFF)

/-- The stage word of stage n, 1 to 6. -/
def stageWordOf (h : HandlerRec) (n : Nat) : Code := h[n]?.getD 0

/-- A tap of the table (R53). -/
structure Tap where
  win : Win
  off : Nat
  mode : Nat
  deriving DecidableEq, Repr

/-- Tap j, 0 to 7 (R53). -/
def tapOf (h : HandlerRec) (j : Nat) : Tap :=
  let x := bv (stageWordOf h (7 + j / 2)) (j % 2 * 16) 16
  ⟨Fin.ofNat 16 (bitsOf x 12 4), bitsOf x 2 10, bitsOf x 0 2⟩

/-- The tap that an operand code names (R44). -/
def tapCode (code : BitVec 5) : Option Nat := if 8 ≤ code.toNat ∧ code.toNat < 16 then some (code.toNat - 8) else none
/-- The window of the tap that an operand code names. -/
def codeWin (h : HandlerRec) (code : BitVec 5) : Option Win := (tapCode code).map fun j => (tapOf h j).win
def codeNone : BitVec 5 := 0b11111

/-! ## What each opcode reads (R61, R95) -/

/-- How an opcode uses an operand: not at all; as a value; as a value that may be absent; as a window only (R96); as a constant (R100). -/
inductive Use where
  | no | yes | optional | window | const
  deriving DecidableEq, Repr

structure Uses where
  a : Use
  b : Use
  c : Use
  deriving DecidableEq, Repr

def usesA : Uses := ⟨.yes, .no, .no⟩
def usesAB : Uses := ⟨.yes, .yes, .no⟩
def usesABC : Uses := ⟨.yes, .yes, .yes⟩
def usesOf (a b c : Use) : Uses := ⟨a, b, c⟩

/-- The operands that an opcode reads, given MOD (R61, R95). -/
def opcodeUses (op mod : Nat) : Uses :=
  match op with
  | 0x00 => ⟨.no, .no, .no⟩
  | 0x01 => ⟨.optional, .no, .no⟩
  | 0x02 => usesA
  | 0x03 => usesABC
  | 0x07 => usesABC
  | 0x12 => usesA
  | 0x13 => usesA
  | 0x17 => usesABC
  | 0x18 => usesABC
  | 0x1B => usesA
  | 0x1C => usesA
  | 0x1E => usesA
  | 0x1F => usesA
  | 0x20 => usesA
  | 0x21 => usesA
  | 0x22 => usesA
  | 0x23 => usesA
  | 0x25 => usesA
  | 0x26 => usesA
  | 0x27 => usesA
  | 0x28 => ⟨.yes, .yes, .optional⟩
  | 0x2A => usesA
  | 0x2B => usesA
  | 0x2C => usesA
  | 0x2E => ⟨.yes, .window, .window⟩
  | 0x2F => ⟨.window, .window, .const⟩
  | 0x30 => ⟨.yes, .optional, .no⟩
  | 0x31 => usesA
  | 0x32 => ⟨.yes, .optional, .no⟩
  | 0x33 => usesA
  | 0x35 => usesA
  | 0x36 => ⟨.yes, .optional, .no⟩
  | 0x37 => if mod = 1 ∨ mod = 2 ∨ mod = 3 then usesA else usesAB
  | 0x39 => ⟨.yes, .yes, .optional⟩
  | 0x3B => usesA
  | 0x3C => ⟨.window, .optional, .no⟩
  | 0x3D => ⟨.window, .no, .no⟩
  | 0x3E => ⟨.no, .no, .no⟩
  | 0x3F => ⟨.no, .no, .no⟩
  | _ => usesAB

/-- The heavy opcodes of R48. -/
def heavyOp (op : Nat) : Bool := [0x16, 0x17, 0x18, 0x22, 0x23, 0x06, 0x07, 0x28, 0x29].contains op

def opOf (w : Code) : Nat := bv w 26 6

/-- A firing of the record is heavy (R92). -/
def heavyRec (h : HandlerRec) : Bool := (List.range 6).any fun k => heavyOp (opOf (stageWordOf h (k + 1)))

/-- The operand codes of a stage word with the use its opcode makes of each. -/
def codesOf (w : Code) : List (BitVec 5 × Use) :=
  let f := stageFields w
  let u := opcodeUses (opOf w) f.mod.toNat
  [(f.a, u.a), (f.b, u.b), (f.c, u.c)]

/-- The operands let a stage run: R116 makes a stage a `nop` when a window that it names, or the target of a `wupd`, is not a tap code. -/
def stageRuns (w : Code) : Bool :=
  (codesOf w).all (fun (code, use) => use != .window || (tapCode code).isSome)
    && (opOf w != 0x3A || (tapCode (stageFields w).a).isSome)

/-- The stage words that a firing has still to run. -/
def remainingWords (h : HandlerRec) (stage : Nat) : List Code :=
  ((List.range 6).filter fun k => decide (stage ≤ k + 1)).map fun k => stageWordOf h (k + 1)

def allWords (h : HandlerRec) : List Code := remainingWords h 1

/-- A bound word-wide window, which R116 does not let a `join` read. -/
def Core.narrow (c : Core) (w : Win) : Bool := wdBound (c.desc w) && !wdBeat (c.desc w)

/-- The input windows of a `join`. -/
def joinWins (h : HandlerRec) (w : Code) : List Win := (codeWin h (stageFields w).a).toList ++ (codeWin h (stageFields w).b).toList

/-- A stage runs as the windows of its core stand: its operands let it, and it is no `join` of a word-wide window (R116). -/
def Core.stageRuns (c : Core) (h : HandlerRec) (w : Code) : Bool :=
  Machine.stageRuns w && !(opOf w == 0x2F && (joinWins h w).any c.narrow)

/-! ## What a stage word touches (R39, R42) -/

/-- The windows whose elements a stage reads, or whose count it reports. A `shrink` reads no element of its window (R96); a stage that runs as
`nop` reads none (R50). -/
def Core.stageReads (c : Core) (h : HandlerRec) (w : Code) : List Win :=
  if c.stageRuns h w then
    (((codesOf w).drop (if opOf w = 0x3C then 1 else 0)).filter fun (_, use) => use != .no && use != .const).filterMap fun (code, _) =>
      codeWin h code
  else []

/-- The window that a `wupd` changes: none for MOD 7 (R110), nor where the window is unbound (R126). -/
def Core.stageUpdates (c : Core) (h : HandlerRec) (w : Code) : List Win :=
  let f := stageFields w
  if opOf w = 0x3A ∧ f.mod ≠ 7 then (codeWin h f.a).toList.filter fun v => wdBound (c.desc v) else []

/-- The windows whose shrink by a stage has its count fixed only when the stage executes (R40): ordinary windows, of a stage that runs. -/
def Core.stageLate (c : Core) (h : HandlerRec) (w : Code) : List Win :=
  let f := stageFields w
  if !c.stageRuns h w then []
  else (match opOf w with
    | 0x3C => if f.b = codeNone then [] else (codeWin h f.a).toList
    | 0x2E => (codeWin h f.b).toList ++ (codeWin h f.c).toList
    | 0x2F => joinWins h w
    | _ => []).filter c.ordinary

/-- A firing in the pipeline has a shrink of a window whose count is not fixed at issue (R40, R42). -/
def Core.lateShrink (c : Core) (w : Win) : Bool :=
  c.pipe.any fun fr => (allWords c.active[fr.slot]).any fun x => (c.stageLate c.active[fr.slot] x).contains w

/-- The opcodes that deliver nothing by DST: `nop` (R50). -/
def deliversNothing (w : Code) : Bool := opOf w = 0x00 ∨ opOf w = 0x3E ∨ opOf w = 0x3F

/-- The windows that a stage fills (R46, R112). -/
def stageFills (h : HandlerRec) (w : Code) : List Win :=
  let f := stageFields w
  (if deliversNothing w then [] else if f.dst = 5 ∨ f.dst = 6 then [h0Fillw h] else [])
    ++ (if opOf w = 0x3B then [Fin.ofNat 16 f.aux.toNat] else [])

/-- The ports that a stage sends to (R46, R97). -/
def stagePorts (w : Code) : List (Fin 4) :=
  let f := stageFields w
  (if deliversNothing w then []
   else if 1 ≤ f.dst.toNat ∧ f.dst.toNat ≤ 4 then [Fin.ofNat 4 (f.dst.toNat - 1)] else if f.dst = 6 then [0] else [])
    ++ (if opOf w = 0x2D then
          (if bitAt f.mod 1 then [] else [Fin.ofNat 4 (bv f.aux 2 2)]) ++ (if bitAt f.mod 0 then [] else [Fin.ofNat 4 (bv f.aux 0 2)])
        else [])

def meet {α : Type} [BEq α] (a b : List α) : Bool := a.any b.contains

/-- A stage word of a younger firing must wait for an older firing with record g that has run its stages below m: it reads a window that the
older one will still change in a way not counted at issue (R42); or it would change a window, or send from a port, that the older one has
still to use, which R39 gives to the older one first. -/
def Core.mustWait (c : Core) (h : HandlerRec) (w : Code) (g : HandlerRec) (m : Nat) : Bool :=
  let rest := remainingWords g m
  let late := (allWords g).flatMap (c.stageLate g)
  let changed := rest.flatMap (c.stageUpdates g)
  let used := rest.flatMap fun x => c.stageReads g x ++ stageFills g x
  meet (c.stageReads h w) (late ++ changed) || meet (c.stageUpdates h w ++ stageFills h w) used || meet (stagePorts w) (rest.flatMap stagePorts)

/-! ## Shrinks that are counted at issue (R40) -/

/-- The shrinks whose count is fixed when the firing issues: each `shrink` stage with B none, in stage order, then H11's. -/
def fixedShrinksOf (c : Core) (h : HandlerRec) : List (Win × Nat) :=
  ((allWords h).filterMap fun w =>
    let f := stageFields w
    if opOf w = 0x3C ∧ f.b = codeNone ∧ f.aux ≠ 0 then
      match codeWin h f.a with
      | some v => if c.ordinary v then some (v, f.aux.toNat) else none
      | none => none
    else none)
  ++ (if h11Shrink h ≠ 0 ∧ c.ordinary (h0Trig h) then [(h0Trig h, h11Shrink h)] else [])

/-- What some shrinks take from a window. -/
def shrinkSum (l : List (Win × Nat)) (w : Win) : Nat := (l.map fun (v, n) => if v = w then n else 0).sum

/-- The shrinks of a window still pending from the first k firings of the pipeline. -/
def Core.pendingOf (c : Core) (k : Nat) (w : Win) : Nat :=
  ((c.pipe.take k).map fun f => shrinkSum f.fixedShrinks w + shrinkSum f.shrinks w).sum

/-- The elements of a window that firings still in the pipeline have filled: the last ones (R91). -/
def Core.inFlight (c : Core) (w : Win) : Nat := (c.pipe.map fun f => shrinkSum f.fills w).sum

/-- The visible count of R40: filled elements before any SWAP or DRAIN, without those that a firing still in the pipeline has filled (R91), less the
pending shrinks, debts included. -/
def Core.visible (c : Core) (w : Win) : Nat :=
  if !wdBound (c.desc w) then 0
  else if wdParam (c.desc w) then wdPsize (c.desc w)
  else min (c.extent w) ((c.win w).filled - c.inFlight w) - ((c.pipe.map fun f => shrinkSum f.fixedShrinks w).sum + (c.win w).debt)

/-! ## Reading -/

/-- What reading an operand gives. -/
structure Operand where
  beat : Beat
  /-- the operand is a tap or a stage value, so it takes part in R45 -/
  data : Bool
  /-- the operand is there -/
  present : Bool
  cwarn : Lane
  /-- the window whose element it waits for -/
  wait : Option Win
  /-- store words read, with the window -/
  reads : List (Nat × Win)
  deriving DecidableEq, Repr

def Operand.of (b : Beat) (data : Bool) (cwarn : Lane := 0) : Operand := ⟨b, data, true, cwarn, none, []⟩
/-- An operand that is not there. -/
def Operand.absent : Operand := ⟨Beat.blank 16 markNone, false, false, 0, none, []⟩
/-- The fallback of R54 and R58: zero lanes, COUNT 16, marker none. DESIGN CHOICE (log 95): R45 names taps and stage values only, and the model
lets the COUNT 16 and marker none that R58 gives a reserved or missing operand take part in R45 as theirs do. -/
def Operand.zeros (cwarn : Lane) : Operand := .of (Beat.blank 16 markNone) true cwarn

/-- What a stage knows while it runs. -/
structure StageCtx where
  core : Core
  /-- place of the firing in the pipeline -/
  index : Nat
  fr : Firing
  h : HandlerRec
  f : StageFields
  deriving DecidableEq, Repr

/-- The offset from the head at which element i stands for this firing: behind what older firings will still free (R91). -/
def StageCtx.base (x : StageCtx) (w : Win) : Nat :=
  if wdParam (x.core.desc w) then 0 else x.core.pendingOf x.index w

/-- What reading element i of a window gives. -/
inductive Elem where
  | there (addr : Nat)
  | waits
  /-- there is no such element: it reads zero and sets the warnings given -/
  | zero (cwarn : Lane)
  deriving DecidableEq, Repr

/-- Element i of a window as this firing sees it: its store address; not yet filled; or none, where the window is unbound (R126), i lies at
or beyond the capacity (R54), or beyond the bound size of a parameter window (R125). -/
def StageCtx.elem (x : StageCtx) (w : Win) (i : Nat) : Elem :=
  let d := x.core.desc w
  let beyond := if wdCap d ≤ i then cwTRANGE else 0
  if !wdBound d then .zero cwTUNB
  else if wdParam d then (if wdPsize d ≤ i then .zero (cwTUNB ||| beyond) else if wdCap d ≤ i then .zero beyond else .there (x.core.elemAddr w i))
  else if wdCap d ≤ i then .zero beyond
  else
    let j := i + x.base w
    if j < x.core.extent w ∧ (x.core.win w).debt = 0 then .there (x.core.elemAddr w j) else .waits

/-- The store words of a beat. -/
def beatReads (w : Win) (a : Nat) : List (Nat × Win) := (List.range 17).map fun k => (a + k, w)

/-- A tap in fixed or iteration mode (R53, R54). -/
def StageCtx.direct (x : StageCtx) (w : Win) (off : Nat) : Operand :=
  let d := x.core.desc w
  if !wdBound d then .zeros cwTUNB
  else if wdBeat d then
    match x.elem w off with
    | .there a => { Operand.of (x.core.beatAt a) true with reads := beatReads w a }
    | .waits => { Operand.zeros 0 with wait := some w }
    | .zero cw => .zeros cw
  else
    match x.elem w (off + 15) with
    | .there _ =>
      let addr (l : Nat) : Nat := match x.elem w (off + l) with | .there a => a | _ => 0
      { Operand.of ⟨Vector.ofFn fun l : Fin 16 => x.core.loadWord (addr l), 16, markNone, 0⟩ true with
        reads := (List.range 16).map fun l => (addr l, w) }
    | .waits => { Operand.zeros 0 with wait := some w }
    | .zero cw => .zeros cw

/-- The value of an earlier stage of the firing, where it can be read (R58). -/
def StageCtx.stageValue (x : StageCtx) (j : Nat) : Option Beat :=
  if 1 ≤ j ∧ j ≤ 5 ∧ j < x.fr.stage then (x.fr.vals[j - 1]?).join else none

/-- One lane of an indexed tap (R53, R54): its word, its warning, whether it waits, the word it read. -/
def StageCtx.indexedLane (x : StageCtx) (w : Win) (base l : Nat) (index : Lane) : Lane × Lane × Bool × List (Nat × Win) :=
  let o : Int := (base : Int) + index.toInt
  if o < 0 then (0, cwTRANGE, false, [])
  else match x.elem w o.toNat with
    | .there a =>
      let a' := if wdBeat (x.core.desc w) then a + l else a
      (x.core.loadWord a', 0, false, [(a', w)])
    | .waits => (0, 0, true, [])
    | .zero cw => (0, cw, false, [])

def orAll : List Lane → Lane
  | [] => 0
  | x :: xs => x ||| orAll xs

/-- An indexed tap (R53, R54): OFF names the index value and holds BASE. An index value that its stage discarded reads zero, with COUNT 16 and
marker none (R58). -/
def StageCtx.indexed (x : StageCtx) (w : Win) (off : Nat) : Operand :=
  let unbound : Lane := if wdBound (x.core.desc w) then 0 else cwTUNB
  let j := off / 128
  if j < 1 ∨ 5 < j ∨ x.fr.stage ≤ j then .zeros (cwTMODE ||| unbound)
  else if !wdBound (x.core.desc w) then .zeros cwTUNB
  else
    let v := (x.stageValue j).getD (Beat.blank 16 markNone)
    let r := (List.range v.count).map fun l => x.indexedLane w (off % 128) l (v.lanes[l]?.getD 0)
    { beat := ⟨Vector.ofFn fun l : Fin 16 => ((r[l.val]?).map (·.1)).getD 0, v.count, v.mark, 0⟩, data := true, present := true,
      cwarn := orAll (r.map (·.2.1)) ||| (if (x.stageValue j).isNone then cwOPND else 0),
      wait := if r.any (·.2.2.1) then some w else none, reads := r.flatMap (·.2.2.2) }

/-- A tap read in its own mode (R53, R54). -/
def StageCtx.tap (x : StageCtx) (t : Tap) : Operand :=
  match t.mode with
  | 0 => x.direct t.win t.off
  | 1 => x.direct t.win (t.off + x.fr.iter)
  | 2 => x.indexed t.win t.off
  | _ => let r := x.direct t.win t.off; { r with cwarn := r.cwarn ||| cwTMODE }

/-- An operand code read as a value (R44, R58). -/
def StageCtx.read (x : StageCtx) (code : BitVec 5) : Operand :=
  let n := code.toNat
  if 1 ≤ n ∧ n ≤ 5 then
    match x.stageValue n with
    | some v => .of v true
    | none => .zeros cwOPND
  else if 8 ≤ n ∧ n < 16 then x.tap (tapOf x.h (n - 8))
  else if 16 ≤ n ∧ n < 24 then .of ⟨Vector.replicate 16 (x.core.kActive[n - 16]?.getD 0), 16, markNone, 0⟩ false
  else if n = 24 then .of ⟨Vector.ofFn fun l : Fin 16 => BitVec.ofNat 36 l, 16, markNone, 0⟩ false
  else if n = 25 then .of (Beat.blank 16 markNone) false
  else .zeros cwOPND

/-- An operand as its use asks (R58). -/
def StageCtx.operand (x : StageCtx) (code : BitVec 5) : Use → Operand
  | .no => { Operand.absent with cwarn := if code = codeNone then 0 else cwOPND }
  | .yes => x.read code
  | .optional => if code = codeNone then .absent else x.read code
  | .window => .absent
  | .const => .absent

/-- The three operands of a stage. -/
structure Operands where
  a : Operand
  b : Operand
  c : Operand
  deriving DecidableEq, Repr

def StageCtx.operands (x : StageCtx) (u : Uses) : Operands :=
  ⟨x.operand x.f.a u.a, x.operand x.f.b u.b, x.operand x.f.c u.c⟩

def Operands.wait (o : Operands) : Option Win := o.a.wait.orElse fun _ => o.b.wait.orElse fun _ => o.c.wait
def Operands.cwarn (o : Operands) : Lane := o.a.cwarn ||| o.b.cwarn ||| o.c.cwarn
def Operands.reads (o : Operands) : List (Nat × Win) := o.a.reads ++ o.b.reads ++ o.c.reads

/-! ## COUNT and marker of a result (R45) -/

/-- The operands that take part in R45. -/
def dataBeats (l : List Operand) : List Beat := (l.filter fun o => o.present && o.data).map (·.beat)

/-- The smallest COUNT, 16 where there is no such operand. -/
def countOf (l : List Operand) : Nat := (dataBeats l).foldl (fun m b => min m b.count) 16
/-- The marker of the first. -/
def markOf (l : List Operand) : BitVec 3 := ((dataBeats l).head?.map (·.mark)).getD markNone
/-- CNTM when those operands differ in COUNT. -/
def cntmOf (l : List Operand) : Lane :=
  if (dataBeats l).any (fun b => b.count != countOf l) then cwCNTM else 0

/-- Lane l of an operand. -/
def Operand.lane (o : Operand) (l : Nat) : Lane := o.beat.lanes[l]?.getD 0
/-- COUNT of an operand by itself: 16 for one that is neither a tap nor a stage value. -/
def Operand.count (o : Operand) : Nat := o.beat.count
def Operand.mark (o : Operand) : BitVec 3 := o.beat.mark

end Sys2Proof.Machine
end

