-- ==== Sys2Proof/Machine/Flags.lean ====
section
/-! DEFINITION. The warning bits that the fields of a stage word set (03 R47, R58; 05 R95, R116), and the error counts and marks of the store
(06 R120, R144). AFLG bits come with the values that set them (Ff36.lean); the running of a stage gathers both (Stage.lean). -/

namespace Sys2Proof.Machine

/-- MOD where it must be 0. -/
def modZero (f : StageFields) : Lane := if f.mod = 0 then 0 else cwMODX
/-- AUX where it must be 0. -/
def auxZero (f : StageFields) : Lane := if f.aux = 0 then 0 else cwAUXX
/-- AUX where only its low n bits have a meaning. -/
def auxAbove (f : StageFields) (n : Nat) : Lane := if f.aux.toNat < 2 ^ n then 0 else cwAUXX
/-- A rounding code in MOD. -/
def modRounding (f : StageFields) : Lane := if rmodeReserved f.mod.toNat then cwRND else 0
/-- A saturation code in MOD. -/
def modSaturation (f : StageFields) : Lane := if 3 ≤ f.mod.toNat then cwMODX else 0
/-- A reserved bit 2 of MOD. -/
def modBit2 (f : StageFields) : Lane := if bitAt f.mod 2 then cwMODX else 0
/-- A reserved code of MOD from n on. -/
def modFrom (f : StageFields) (n : Nat) : Lane := if n ≤ f.mod.toNat then cwMODX else 0
/-- A key kind in MOD bits 1:0 (R95). -/
def modKeyKind (f : StageFields) : Lane := if bv f.mod 0 2 = 3 then cwMODX else 0
/-- L against the heaviness of the opcode (R48). -/
def lanternWarn (op : Nat) (f : StageFields) : Lane := if (f.lant == 1) == heavyOp op then 0 else cwLBIT

/-- Single-bit errors of the store words read are corrected and counted (R120, R144). -/
def Core.correctStore (c : Core) (reads : List (Nat × Win)) : Core :=
  let hits := c.softStore.filter fun a => reads.any fun r => r.1 == a
  if hits.isEmpty then c else
  { c with softStore := c.softStore.filter (fun a => !hits.contains a),
           ecnt := BitVec.ofNat 36 (min (bv c.ecnt 0 16 + hits.length) 0xFFFF) }

/-- The defined bits of AFLG, CWARN, RWARN and EWARN: the others read as 0, after a restore too (R22, R57, R142, R171). -/
def aflgBits : Lane := 0x7
def cwarnBits : Lane := 0x1FFEF
def rwarnBits : Lane := 0x3F
def ewarnBits : Lane := 0x1FF

/-- A control word as a restore reads it, with the bits of CWARN that this sets: reserved bits are ignored, a COUNT above 16 reads as 16, and a SWAP,
DRAIN or FAULT has COUNT 0 (R27, R29, R32). -/
def restoredControl (x : Lane) : Lane × Lane :=
  let count := bv x 0 5
  let point := decide (5 ≤ bv x 5 3) && count != 0
  (BitVec.ofNat 36 (at_ (bv x 5 5) 5 5 + (if point then 0 else min count 16)),
    (if 16 < count then cwBCNT else 0) ||| (if point then cwCMARK else 0))

/-- The first of the store words read whose error cannot be corrected (R120). -/
def Core.badRead (c : Core) (reads : List (Nat × Win)) : Option (Nat × Win) := reads.find? fun r => c.badStore.contains r.1

/-- A fault of a core: CFAULT and the record to the owning sequencer (R143, R261). -/
def State.coreFault (s : State) (n cause slot stage win addr : Nat) (detail extra : Word) : State :=
  let c := s.core n
  (s.setCore n { c with cfault := cfaultWith c.cfault cause slot stage win addr }).recordOfCore n (.core n) cause slot stage win detail extra

/-- An uncorrectable store word has been read: the core stops (R120). -/
def State.storeFault (s : State) (n slot stage : Nat) (hit : Nat × Win) : State :=
  let c := s.core n
  (s.setCore n { c with stop := true, stopAddr := hit.1 }).coreFault n 2 slot stage hit.2 hit.1 (BitVec.ofNat 64 hit.1) 0

end Sys2Proof.Machine
end

