-- ==== Sys2Proof/Machine/Translate.lean ====
section
/-! DEFINITION. Physical addresses, frames and slices (14 R301, R302, R321), page-table walks (R306, R307), the TLBs (10 R286, 14 R308) and
the shadow ranges of published buffers (19 R362, R364). -/

namespace Sys2Proof.Machine

/-! ## Physical addresses -/

def paDie (pa : Nat) : Nat := bitsOf pa 36 4
def paOff (pa : Nat) : Nat := bitsOf pa 0 36

/-- A physical address that R301 reserves. -/
def paReserved (pa : Nat) : Bool := decide (2 ^ 40 ≤ pa) || decide (0xC00000000 ≤ paOff pa)

/-- The 2 MiB frame of a die offset (R302). -/
def frameOf (pa : Nat) : Nat := paOff pa / 2 ^ 21

/-- A local frame (R302). -/
def frameLocal (f : Nat) : Bool := decide (f < 12288)

/-- The core whose slice holds a byte of the floor (R302). -/
def sliceOf (pa : Nat) : Nat :=
  let f := frameOf pa
  let b := paOff pa % 2 ^ 21
  if frameLocal f then
    let c := f % 256
    let q := b / 256 % 256
    coreOf (paDie pa) (c % 16 * 16 + q % 16) (c / 16 * 16 + q / 16)
  else coreOf (paDie pa) (b / 32 % 256) (b / 32 / 256)

/-- The offset of a byte within its slice (R302). -/
def sliceOffset (pa : Nat) : Nat :=
  let f := frameOf pa
  let b := paOff pa % 2 ^ 21
  if frameLocal f then 8192 * (f / 256) + 256 * (b / 65536) + b % 256 else 393216 + 32 * (f - 12288) + b % 32

/-- The cluster of a core within its die. -/
def dieCluster (n : Nat) : Nat := coreY n / 16 * 16 + coreX n / 16

/-- A page has a frame out of service (R321): a local frame of a slice's cluster, or a spread frame of its die. -/
def pageDead (dead : List Nat) (pa : Nat) (big : Bool) : Bool :=
  dead.any fun n =>
    coreDie n == paDie pa && (!frameLocal (frameOf pa) || big || dieCluster n == frameOf pa % 256)

/-- Reading some bytes meets an uncorrectable error, or an address that does not exist (R304; log 16). -/
def State.readBad (s : State) (pa n : Nat) : Bool := paReserved pa || paReserved (pa + n - 1) || s.floorBad pa n

/-! ## Ways through the die network (R298, R300) -/

/-- Where an access goes: to the controller of its slice, or to the home of its page. -/
def accessUnit : Place → UnitId
  | .floor pa => .slice (sliceOf pa)
  | .vug record => .slice (sliceOf record)

/-- Whether the way of a packet from one unit to another leads over a die-network link: a free value, since the manual gives no routes (R298; log
39). -/
opaque routeUses : UnitId → UnitId → LinkId → Bool

/-- A core's edge unit reaches its own slice, and is answered, through its own floor channel (R303). -/
def ownChannel : UnitId → UnitId → Bool
  | .edge n _, .slice m => n == m
  | .slice m, .edge n _ => n == m
  | _, _ => false

/-- The way from one unit to another needs a die-network link. -/
def wayUses (src dst : UnitId) (l : LinkId) : Bool :=
  match l with
  | .dieNet _ _ => !ownChannel src dst && routeUses src dst l
  | .fabric _ _ => false

/-- The way from one unit to another leads over a link that has stopped: what goes it waits (R300). -/
def State.wayStopped (s : State) (src dst : UnitId) : Bool := s.deadLinks.any (wayUses src dst)

/-- The way from one unit to another, or the way back, leads over a link that has stopped. -/
def State.tripStopped (s : State) (src dst : UnitId) : Bool := s.wayStopped src dst || s.wayStopped dst src

/-- The accepted feature word has a bit (R352). -/
def State.feature (s : State) (i : Nat) : Bool := bitAt s.pkg.feata i
def featElastic : Nat := 0
def featVug : Nat := 1
def featNet : Nat := 2
def featTsec : Nat := 3
def featPreempt : Nat := 4
def featHostMem : Nat := 5
def featAttest : Nat := 6

/-! ## Walks -/

def ptePA (e : Nat) : Nat := bitsOf e 12 32 * 4096
def pteV (e : Nat) : Bool := e.testBit 0
def pteLeaf (e : Nat) : Bool := e.testBit 1
def pteW (e : Nat) : Bool := e.testBit 2
def pteVug (e : Nat) : Bool := e.testBit 3
def pteDom (e : Nat) : Nat := bitsOf e 56 8

/-- Why a translation fails: the codes of R249. -/
def codeUnmapped : Nat := 1
def codeNotGranted : Nat := 2
def codeHighBits : Nat := 3
def codeFloor : Nat := 4

/-- A walk that waits, for a link which has stopped (R300) or for its next entry (R298): no code of R249. -/
def codeStopped : Nat := 5

/-- The trap cause of a failed translation (R188, R304). -/
def xlatCause (code : Nat) : Nat := if code = codeFloor then causeFLOOR else if code = codeNotGranted then causePERM else causeXLAT

/-- Read a page-table entry: reserved addresses are not mapped, an uncorrectable error ends the walk (R307, R308). -/
def State.readEntry (s : State) (pa : Nat) : Except Nat Nat × State :=
  if paReserved pa then (.error codeUnmapped, s)
  else if s.floorBad pa 8 then (.error codeFloor, s)
  else (.ok (s.readLE pa 8), s.correctFloor pa 8)

/-- The translation that a leaf gives (R307). -/
def leafTrans (dead : List Nat) (va e : Nat) (big vugOn : Bool) (domains : BitVec 256) : Except Nat Trans :=
  let pa := ptePA e
  let size := if big then 2 ^ 30 else 2 ^ 21
  let vug := pteVug e
  if (vug && (big || !vugOn)) || (!vug && pa % size != 0) || paReserved pa || pageDead dead pa big then .error codeUnmapped
  else if !bitAt domains (pteDom e) then .error codeNotGranted
  else .ok ⟨va / size * size, pa, big, pteW e, vug⟩

/-- What a walk does next, by the entries that it has read, from the root on (R306, R307). -/
inductive WalkNext where
  | read (pa : Nat)
  | ended (r : Except Nat Trans)

def State.walkNext (s : State) (root : Nat) (domains : BitVec 256) (va : Nat) : List Nat → WalkNext
  | [] => .read (root + 8 * bitsOf va 39 17)
  | [e] => if !pteV e || pteLeaf e then .ended (.error codeUnmapped) else .read (ptePA e + 8 * bitsOf va 30 9)
  | [_, e] =>
    if !pteV e then .ended (.error codeUnmapped)
    else if pteLeaf e then .ended (leafTrans s.pkg.modrec.deadSlices va e true (s.feature featVug) domains)
    else .read (ptePA e + 8 * bitsOf va 21 9)
  | _ :: _ :: e :: _ =>
    .ended (if !pteV e || !pteLeaf e then .error codeUnmapped else leafTrans s.pkg.modrec.deadSlices va e false (s.feature featVug) domains)

/-- Go on with a walk of which some entries have been read; it reads at most `fuel` more. -/
def State.walkFrom (s : State) (root : Nat) (domains : BitVec 256) (va : Nat) : Nat → List Nat → Except Nat Trans × State
  | 0, _ => (.error codeUnmapped, s)
  | fuel + 1, es =>
    match s.walkNext root domains va es with
    | .ended r => (r, s)
    | .read pa =>
      match s.readEntry pa with
      | (.error c, s) => (.error c, s)
      | (.ok e, s) => s.walkFrom root domains va fuel (es ++ [e])

/-- A walk of a page table (R306, R307), with the entries that its unit has read already. -/
def State.walk (s : State) (root : Nat) (domains : BitVec 256) (va : Nat) (es : List Nat := []) : Except Nat Trans × State :=
  s.walkFrom root domains va 4 es

/-- The addresses of the entries that a walk has still to read, as far as it goes (R306). -/
def State.walkEntries (s : State) (root va : Nat) : Nat → List Nat → List Nat
  | 0, _ => []
  | fuel + 1, es =>
    match s.walkNext root 0 va es with
    | .ended _ => []
    | .read pa => pa :: match (s.readEntry pa).1 with
      | .error _ => []
      | .ok e => s.walkEntries root va fuel (es ++ [e])

/-- The walker of a die cannot reach an entry that it has to read, or the answer cannot come back (R300, R308). -/
def State.walkStopped (s : State) (die root va : Nat) (es : List Nat := []) : Bool :=
  !s.deadLinks.isEmpty && (s.walkEntries root va 4 es).any fun pa => s.tripStopped (.die die) (accessUnit (.floor pa))

/-! ## What a unit has read of what it reads one after another (R298) -/

/-- What a reader has read at an address, or of the walk for a page. -/
def State.partOf (s : State) (who : Reader) (ctx va : Nat) (walk : Bool) : Option Part :=
  (s.parts.find? fun p => p.reader == who && p.ctx == ctx && p.va == va && (match p.part with | .entries _ => walk | .bytes _ => !walk)).map (·.part)

/-- Nothing that a reader has read at an address, or of the walk for a page, is kept any more. -/
def State.dropPart (s : State) (who : Reader) (ctx va : Nat) (walk : Bool) : State :=
  { s with parts := s.parts.filter fun p =>
      !(p.reader == who && p.ctx == ctx && p.va == va && (match p.part with | .entries _ => walk | .bytes _ => !walk)) }

/-- Two readers that are one unit: of a sequencer, blocks of other numbers are over. -/
def Reader.sameUnit (a b : Reader) : Bool :=
  match a, b with
  | .block q _, .block r _ => q == r
  | _, _ => a == b

/-- A reader keeps what it has read; what an earlier block of its sequencer had read is gone. -/
def State.keepPart (s : State) (p : PartRead) : State :=
  { s with parts := p :: s.parts.filter fun o => o.reader == p.reader || !o.reader.sameUnit p.reader }

/-- Nothing of some readers is kept any more. -/
def State.dropReaders (s : State) (gone : Reader → Bool) : State := { s with parts := s.parts.filter fun p => !gone p.reader }

/-- The entries that a unit has read of the walk for the page of an address. -/
def State.walkRead (s : State) (who : Option Reader) (ctx va : Nat) : List Nat :=
  match who with
  | none => []
  | some w => match s.partOf w ctx (va / 2 ^ 21) true with
    | some (.entries l) => l
    | _ => []

/-- The walk of a unit for the page of an address is over. -/
def State.walkOver (s : State) (who : Option Reader) (ctx va : Nat) : State :=
  match who with
  | none => s
  | some w => s.dropPart w ctx (va / 2 ^ 21) true

/-- A move that reads one thing more reads one entry of a walk, of which more are to be read then; none where it does not (R298, log 135). -/
def State.walkPart (s : State) (die : Nat) (who : Option Reader) (c : Ctx) (va : Nat) (es : List Nat) : Option State :=
  match s.slow, who, s.walkNext c.root c.domains va es with
  | true, some w, .read pa =>
    if s.tripStopped (.die die) (accessUnit (.floor pa)) then none
    else match s.readEntry pa with
      | (.error _, _) => none
      | (.ok e, s) =>
        match s.walkNext c.root c.domains va (es ++ [e]) with
        | .ended _ => none
        | .read _ => some ((s.dropPart w c.id (va / 2 ^ 21) true).keepPart ⟨w, c.id, va / 2 ^ 21, .entries (es ++ [e])⟩)
  | _, _, _ => none

/-! ## TLBs -/

def Trans.size (t : Trans) : Nat := if t.big then 2 ^ 30 else 2 ^ 21
def Trans.covers (t : Trans) (va : Nat) : Bool := decide (t.va ≤ va) && decide (va < t.va + t.size)

/-- The physical address of a byte of an ordinary page. -/
def Trans.phys (t : Trans) (va : Nat) : Nat := t.pa + (va - t.va)

def lookupTlb (l : List TlbEntry) (ctx va : Nat) : Option Trans :=
  (l.find? fun e => e.ctx == ctx && e.tr.covers va).map (·.tr)

/-- A TLB with a new entry, which keeps at most n (R286, R308). -/
def fillTlb (n : Nat) (l : List TlbEntry) (e : TlbEntry) : List TlbEntry := (e :: l).take n

def State.tlb (s : State) (cluster : Nat) : List TlbEntry := sparseGet [] s.tlbs cluster
def State.dieTlb (s : State) (die : Nat) : List TlbEntry := sparseGet [] s.dieTlbs die
def State.ctx? (s : State) (ctx : Nat) : Option Ctx := s.pkg.ctxs.find? fun c => c.id == ctx

/-- Put a translation into a cluster TLB. -/
def State.fillCluster (s : State) (cluster ctx : Nat) (t : Trans) : State :=
  { s with tlbs := sparsePut s.tlbs cluster (fillTlb 256 (s.tlb cluster) ⟨ctx, t⟩) }
def State.fillDie (s : State) (die ctx : Nat) (t : Trans) : State :=
  { s with dieTlbs := sparsePut s.dieTlbs die (fillTlb 1048576 (s.dieTlb die) ⟨ctx, t⟩) }

/-- Translate through the cluster TLB: a miss goes to the die's, a miss there walks, and a walk that succeeds fills both (R286, R308). A unit reads
the entries of a walk one after another, in one move or in several (R298, log 135), once no link that the packets need has stopped; with `waits`
false it does not look at the links, and without a reader the walk is one move. -/
def State.translateTlb (s : State) (cluster ctx va : Nat) (waits : Bool := true) (who : Option Reader := none) : Except Nat Trans × State :=
  match lookupTlb (s.tlb cluster) ctx va with
  | some t => (.ok t, s.walkOver who ctx va)
  | none =>
    match lookupTlb (s.dieTlb (seqDie cluster)) ctx va with
    | some t => (.ok t, (s.walkOver who ctx va).fillCluster cluster ctx t)
    | none =>
      match s.ctx? ctx with
      | none => (.error codeUnmapped, s)
      | some c =>
        let es := s.walkRead who ctx va
        match s.walkPart (seqDie cluster) who c va es with
        | some s => (.error codeStopped, s)
        | none =>
          if waits && s.walkStopped (seqDie cluster) c.root va es then (.error codeStopped, s)
          else match s.walk c.root c.domains va es with
          | (.ok t, s) => (.ok t, ((s.walkOver who ctx va).fillDie (seqDie cluster) ctx t).fillCluster cluster ctx t)
          | (.error e, s) => (.error e, s.walkOver who ctx va)

/-! ## Published buffers (R362, R364, R213) -/

def PubBuf.bytes (b : PubBuf) : Nat := b.pages * 2 ^ 21
def PubBuf.inVisible (b : PubBuf) (va : Nat) : Bool := decide (b.visible ≤ va) && decide (va < b.visible + b.bytes)
def PubBuf.inShadow (b : PubBuf) (va : Nat) : Bool := decide (b.shadow ≤ va) && decide (va < b.shadow + b.bytes)

/-- The bound buffer whose shadow range holds an address: only the engines translate it (R364). -/
def State.shadowed (s : State) (ctx va : Nat) : Bool := s.fabric.bufs.any fun b => b.bound && b.ctx == ctx && b.inShadow va

/-- The exchange of the two copies of a buffer, as a map of addresses (R213). It outlives the release of the buffer (R363). -/
def PubBuf.swap (b : PubBuf) (va : Nat) : Nat :=
  if !b.exchanged then va
  else if b.inVisible va then b.shadow + (va - b.visible)
  else if b.inShadow va then b.visible + (va - b.shadow)
  else va

/-- The page-table address of a byte of a context: through the exchanges of its buffers, the newest first (R213). -/
def State.mappedVa (s : State) (ctx va : Nat) : Nat :=
  s.fabric.bufs.foldl (fun v b => if b.ctx = ctx then b.swap v else v) va

/-- A translation: what the page table gives, and the address it was asked for. -/
structure Found where
  tr : Trans
  va : Nat
  deriving DecidableEq, Repr

/-- Where a translated byte lies. -/
def Found.place (f : Found) : Place := if f.tr.vug then .vug f.tr.pa else .floor (f.tr.phys f.va)

/-- Translate an address for any unit but the engines; `who` reads it. -/
def State.translate (s : State) (cluster ctx va : Nat) (waits : Bool := true) (who : Option Reader := none) : Except Nat Found × State :=
  if s.shadowed ctx va then (.error codeNotGranted, s)
  else
    let va' := s.mappedVa ctx va
    match s.translateTlb cluster ctx va' waits who with
    | (.ok t, s) => (.ok ⟨t, va'⟩, s)
    | (.error e, s) => (.error e, s)

/-- PAGE_WALK_COMPLETE (R308): a walk ends and fills the die's TLB and the cluster's. -/
def execPageWalkComplete (cluster ctx : Nat) (va : BitVec 56) (s : State) : Host.Outcome State Fault Refusal :=
  .next (s.translateTlb cluster ctx va.toNat).2

end Sys2Proof.Machine
end

