-- ==== Sys2Proof/Machine/Access.lean ====
section
/-! DEFINITION. What an access does at the floor and at the home of a vug page (14 R303, R304, R314-R318; 08 R204, R205; 07 R155), and the
delivery of packets (14 R298). -/

namespace Sys2Proof.Machine

/-! ## Loads and stores of the floor (R303, R304) -/

/-- The little-endian value of n bytes; none on an uncorrectable error. Single-bit errors are corrected and counted. -/
def State.loadFloor (s : State) (pa n : Nat) : Option Nat × State :=
  if s.readBad pa n then (none, s) else (some (s.readLE pa n), s.correctFloor pa n)

/-- Store some bytes: whole doublewords are written afresh; a doubleword covered in part is read to merge, and an uncorrectable error of it
fails the store. -/
def State.storeFloor (s : State) (pa : Nat) (data : List Byte) : Option State :=
  let n := data.length
  if paReserved pa || paReserved (pa + n - 1) || s.mergeBad pa n then none
  else some (((s.repairFloor pa n).correctFloor pa n).writeBytes pa data)

/-! ## Read-modify-writes (R204, R205, R155) -/

/-- A number of n bits read as two's complement. -/
def signedOf (n w : Nat) : Int := if w < 2 ^ (n - 1) then (w : Int) else (w : Int) - 2 ^ n

/-- op(old, b) of an atomic of n bits, by its major opcode (R204). -/
def amoValue (op : BitVec 6) (n old b : Nat) : Nat :=
  match op.toNat with
  | 0x16 => (old + b) % 2 ^ n
  | 0x17 => old &&& b
  | 0x18 => old ||| b
  | 0x19 => old ^^^ b
  | 0x1A => if signedOf n old ≤ signedOf n b then old else b
  | 0x1B => if signedOf n b ≤ signedOf n old then old else b
  | 0x1C => min old b
  | 0x1D => max old b
  | _ => b

/-- The old value as the destination of an atomic receives it (R204, R205). -/
def oldValue (op : AccessOp) (size old : Nat) : Word :=
  let unsigned := match op with | .amo c => c == 0x1C || c == 0x1D | _ => false
  if size = 4 && !unsigned then BitVec.ofInt 64 (signedOf 32 old) else BitVec.ofNat 64 old

/-- The value that an access leaves, from the value that it finds; none where it writes nothing. -/
def newValue (op : AccessOp) (size old : Nat) (data : List Byte) : Option Nat :=
  let b := leValue data
  match op with
  | .load => none
  | .store => some (b % 2 ^ (8 * size))
  | .erase => none
  | .amo c => some (amoValue c (8 * size) old (b % 2 ^ (8 * size)))
  | .cas e => if old = e.toNat % 2 ^ (8 * size) then some (b % 2 ^ (8 * size)) else none
  | .saddInt => some ((old + b) % 2 ^ 32)
  | .saddFp => some (fp32.sum .rne (fp32.value old) (ff (BitVec.ofNat 36 b))).1

/-- What performing an access comes to: done, with the old value; for a load, its value with the existence bit; failed on an uncorrectable
error; withheld on an empty pool. -/
inductive Performed where
  | done (old : Nat) (s : State)
  | loaded (v : Nat) (there : Bool) (s : State)
  | failed (s : State)
  | withheld (s : State)
  deriving DecidableEq, Repr

/-- The descriptors whose pools withheld accesses wait for (R315, R317). -/
def State.poolsWanted (s : State) : List Nat :=
  s.withheld.filterMap fun a => match a.place with
    | .vug record => if s.readBad (record + 64) 8 then none else some (bitsOf (s.readLE (record + 64) 8) 6 38 * 64)
    | .floor _ => none

/-- A store or an atomic has been applied to some bytes: a pool whose TAIL they include, and for which an access waits, has changed (R317). -/
def State.tailStored (s : State) (pa n : Nat) : State :=
  { s with poolDue := s.poolDue ++ (s.poolsWanted.filter fun d => decide (pa < d + 40) && decide (d + 32 < pa + n) && !s.poolDue.contains d).eraseDups }

/-- An access performs at a physical address, as one indivisible step (R303, R304). -/
def State.performAt (s : State) (a : Access) (pa : Nat) : Performed :=
  match a.op with
  | .erase => .done 0 s
  | .load =>
    match s.loadFloor pa a.size with
    | (some v, s') => .loaded v true s'
    | (none, s') => .failed s'
  | .store =>
    match s.storeFloor pa a.data with
    | some s' => .done 0 (s'.tailStored pa a.data.length)
    | none => .failed s
  | op =>
    match s.loadFloor pa a.size with
    | (none, s') => .failed s'
    | (some old, s') =>
      let s' := s'.tailStored pa a.size
      match newValue op a.size old a.data with
      | some v => .done old (s'.writeLE pa a.size v)
      | none => .done old s'

/-! ## Vug pages (R314 to R318) -/

def tileOf (va : Nat) : Nat := va % 2 ^ 21 / 4096

/-- The vug region descriptor of a page, with its pool (R315). -/
structure Pool where
  addr : Nat
  dflt : Nat
  ring : Nat
  cap : Nat
  head : Nat
  tail : Nat
  lost : Nat
  deriving DecidableEq, Repr

/-- Frames in the pool (R315). -/
def Pool.frames (p : Pool) : Nat := min ((p.tail + 2 ^ 64 - p.head) % 2 ^ 64) p.cap

/-- The descriptor that a metadata record names; none on an uncorrectable error in the record or the descriptor (R314, R315, R316). -/
def State.pool (s : State) (record : Nat) : Option Pool × State :=
  match s.loadFloor (record + 64) 8 with
  | (none, s) => (none, s)
  | (some vrd, s) =>
    let d := bitsOf vrd 6 38 * 64
    match s.loadFloor d 48 with
    | (none, s) => (none, s)
    | (some _, s) =>
      (some ⟨d, s.readLE d 4, bitsOf (s.readLE (d + 8) 8) 2 42 * 4, max (s.readLE (d + 16) 4) 1, s.readLE (d + 24) 8,
             s.readLE (d + 32) 8, s.readLE (d + 40) 8⟩, s)

/-- The existence bit of a tile; none on an uncorrectable error. -/
def State.tileExists (s : State) (record t : Nat) : Option Bool × State :=
  match s.loadFloor (record + t / 64 * 8) 8 with
  | (none, s) => (none, s)
  | (some w, s) => (some (w.testBit (t % 64)), s)

/-- Set or clear the existence bit of a tile. -/
def State.setTile (s : State) (record t : Nat) (b : Bool) : State :=
  let pa := record + t / 8
  let old := s.readLE pa 1
  s.writeLE pa 1 (if b then old ||| 2 ^ (t % 8) else old &&& (255 - 2 ^ (t % 8)))

/-- The frame of a tile that exists: bits 43:12 of its address. -/
def State.tileFrame (s : State) (record t : Nat) : Option Nat × State := s.loadFloor (record + 128 + 4 * t) 4

/-- DEFAULT repeated over n naturally aligned bytes at an address (R316, R199). -/
def defaultBytes (dflt va n : Nat) : List Byte := (List.range n).map fun k => BitVec.ofNat 8 (dflt / 2 ^ (8 * ((va + k) % 4)))

/-- A frame goes back to its pool, or is lost where the ring is full (R315). -/
def State.returnFrame (s : State) (p : Pool) (f : Nat) : Option State :=
  if p.frames = p.cap then some (s.writeLE (p.addr + 40) 8 (p.lost + 1))
  else match s.storeFloor (p.ring + 4 * (p.tail % p.cap)) (leBytes 4 f) with
    | some s => some ((s.writeLE (p.addr + 32) 8 (p.tail + 1)).tailStored (p.addr + 32) 8)
    | none => none

/-- The birth of a tile: a frame is taken, DEFAULT is written into all of it, and the record names it (R316). -/
def State.birth (s : State) (record t : Nat) (p : Pool) (f : Nat) : Option State :=
  match s.storeFloor (f * 4096) (defaultBytes p.dflt 0 4096), s.readBad (record + 128 + 4 * t) 4 with
  | some s, false =>
    some (((s.writeLE (p.addr + 24) 8 (p.head + 1)).writeLE (record + 128 + 4 * t) 4 f).setTile record t true)
  | _, _ => none

/-- The home applies an access to a page (R316, R318): an access that meets an uncorrectable error changes nothing. -/
def State.applyVug (s : State) (a : Access) (record : Nat) : Performed :=
  let t := tileOf a.va
  match s.tileExists record t with
  | (none, s) => .failed s
  | (some true, s) =>
    match s.tileFrame record t with
    | (none, s) => .failed s
    | (some f, s) =>
      if a.op = .erase then
        match s.pool record with
        | (none, s) => .failed s
        | (some p, s) =>
          match s.returnFrame p f with
          | some s' => .done 0 (s'.setTile record t false)
          | none => .failed s
      else s.performAt a (f * 4096 + a.va % 4096)
  | (some false, s) =>
    if a.op = .erase then .done 0 s
    else match s.pool record with
      | (none, s) => .failed s
      | (some p, s) =>
        let old := leValue (defaultBytes p.dflt a.va a.size)
        if a.op = .load then .loaded old false s
        else if (match a.op with | .cas e => old != e.toNat % 2 ^ (8 * a.size) | _ => false) then .done old s
        else if p.frames = 0 then .withheld s
        else match s.loadFloor (p.ring + 4 * (p.head % p.cap)) 4 with
          | (none, s) => .failed s
          | (some f, s) =>
            match s.birth record t p f with
            | some s' => s'.performAt a (f * 4096 + a.va % 4096)
            | none => .failed s

/-- Two accesses to one tile. -/
def sameTile (a b : Access) : Bool := a.place == b.place && tileOf a.va == tileOf b.va

/-- An access to a tile waits behind a withheld one (R317). -/
def State.tileHeld (s : State) (record va : Nat) : Bool :=
  s.withheld.any fun b => b.place == .vug record && tileOf b.va == tileOf va

/-- What a load of a translated address gives: its value with the existence bit, an uncorrectable error, or a wait behind a withheld
access. -/
inductive Loaded where
  | value (v : Nat) (there : Bool)
  | bad
  | waits
  deriving DecidableEq, Repr

/-- A load of n bytes at a place, in one access (R303, R316). -/
def State.loadAt (s : State) (p : Place) (va n : Nat) : Loaded × State :=
  match p with
  | .floor pa =>
    match s.loadFloor pa n with
    | (some v, s) => (.value v true, s)
    | (none, s) => (.bad, s)
  | .vug record =>
    if s.tileHeld record va then (.waits, s)
    else
      match s.tileExists record (tileOf va) with
      | (none, s) => (.bad, s)
      | (some true, s) =>
        match s.tileFrame record (tileOf va) with
        | (none, s) => (.bad, s)
        | (some f, s) =>
          match s.loadFloor (f * 4096 + va % 4096) n with
          | (some v, s) => (.value v true, s)
          | (none, s) => (.bad, s)
      | (some false, s) =>
        match s.pool record with
        | (none, s) => (.bad, s)
        | (some p, s) => (.value (leValue (defaultBytes p.dflt va n)) false, s)

def rangesMeet (a n b m : Nat) : Bool := decide (a < b + m) && decide (b < a + n)

/-- The bytes that an access changes: an erase, every byte of its tile (R202). -/
def Access.span (a : Access) : Nat × Nat := match a.op with | .erase => (a.va / 4096 * 4096, 4096) | _ => (a.va, a.size)

/-- The bytes that an access may change: a store or an atomic may give birth to its tile, which is a store to every byte of it (R320). -/
def Access.mayChange (a : Access) : Nat × Nat :=
  match a.place with
  | .vug _ => if a.op = .load then a.span else (a.va / 4096 * 4096, 4096)
  | .floor _ => a.span

/-! ## Loads in parts -/

/-- The answer of a load, once all of its parts have performed. -/
def Piece.answer (p : Piece) : Option LoadReply :=
  if (p.got.map (·.len)).sum < p.size then none
  else if p.got.any fun g => g.reply == .bad then some .bad
  else some (.value (p.got.map fun g => match g.reply with | .value v _ => v * 2 ^ (8 * g.off) | .bad => 0).sum
    (p.got.all fun g => match g.reply with | .value _ t => t | .bad => false))

/-- What some loads come to together: a wait, the address of the first that met an uncorrectable error, or the value of all, the first the
lowest, with the existence bit. -/
inductive Gathered where
  | value (v : Nat) (there : Bool)
  | bad (va : Nat)
  | waits
  deriving DecidableEq, Repr

def gatherPieces : List Piece → Gathered
  | [] => .value 0 true
  | p :: rest =>
    match p.answer, gatherPieces rest with
    | none, _ => .waits
    | _, .waits => .waits
    | some .bad, _ => .bad p.va
    | some (.value _ _), .bad va => .bad va
    | some (.value v t), .value v' t' => .value (v + v' * 2 ^ (8 * p.size)) (t && t')

/-- A part of a load has performed. -/
def Piece.take (a : Access) (g : LoadReply) (p : Piece) : Piece :=
  if p.id = a.id then { p with got := p.got ++ [⟨a.va - p.va, a.size, g⟩] } else p

/-- Send the loads of some bytes, each with its translation (R298). -/
def State.sendLoads (s : State) (src : UnitId) : List ((Nat × Nat) × Found) → List Piece × State
  | [] => ([], s)
  | ((va, n), f) :: rest =>
    let (id, s) := s.fresh
    let a : Access := { id := id, source := src, op := .load, va := va, place := f.place, size := n, data := [], aq := false, rl := false, tag := 0,
                        code := 0 }
    let (l, s) := (s.send .req src (accessUnit f.place) (.access a)).sendLoads src rest
    (⟨id, va, n, []⟩ :: l, s)

/-! ## What the issuer learns (R198, R268, R304, R317) -/

/-- A stream withholds its next token: EFAULT and the record, once for each time it withholds; an access that fails meanwhile, at another address or for
another cause, is a further fault in EFAULT (R170, R268, R311; log 17). -/
def State.edgeWithhold (s : State) (n : Nat) (e : Fin 4) (cause : Nat) (va : Word) : State :=
  let c := s.core n
  let sl := c.edge[e]
  if sl.state = .withholding then
    if sl.faultAddr = va ∧ sl.faultCause = cause then s
    else
      let sl' := if sl.faultAddr = va then { sl with faultCause := cause } else sl
      s.setCore n { c with edge := c.edge.set e sl', efault := efaultWith c.efault cause e }
  else
    let sl' := { sl with state := .withholding, withheldSince := some s.now, faultAddr := va, faultCause := cause, retryDue := false }
    (s.setCore n { c with edge := c.edge.set e sl', efault := efaultWith c.efault cause e }).recordOfCore n (.edge n e) cause e 0 0 va
      (BitVec.ofNat 64 sl.done)

/-- The loads that a load run's next token needs have all performed. -/
def EdgeSlot.headLoaded (sl : EdgeSlot) : Bool :=
  let good (l : List Piece) : Bool := match gatherPieces l with | .value _ _ => true | _ => false
  if sl.kind == 5 && sl.rowHi.isNone then !sl.pointers.isEmpty && good sl.pointers
  else match sl.fetches with
    | f :: _ => good f.pieces
    | [] => false

/-- What a run has withheld has performed (R268, R271). -/
def State.edgeCleared (s : State) (n : Nat) (e : Fin 4) : Bool :=
  let sl := s.edgeSlot n e
  if sl.loadKind then sl.headLoaded
  else sl.failed.isEmpty && !sl.blocked && !(sl.issued.any fun p => sl.retried.contains p.1)
    && !(s.withheld.any fun a => a.source == .edge n e && sl.issued.any fun p => p.1 == a.id)

/-- Nothing of the slot's run is withheld or failed any more: the run goes on (R268). -/
def State.edgeResume (s : State) (n : Nat) (e : Fin 4) : State :=
  let sl := s.edgeSlot n e
  if sl.state = .withholding && s.edgeCleared n e then
    s.setEdge n e { sl with state := .running, withheldSince := none, retryDue := false, blocked := false, retried := [] }
  else s

def Seq.dropItem (v : Seq) (id : Nat) : Seq :=
  { v with items := v.items.filter fun x => match x with | .access a => a.id != id | .coreCmd c => c.id != id }

/-- An access gives its old value to the sequencer that sent it. -/
def AccessOp.replies : AccessOp → Bool
  | .amo _ => true
  | .cas _ => true
  | _ => false

/-- An access has performed: it is no longer outstanding, and an atomic's old value goes back (R198, R204). -/
def State.accessDone (s : State) (a : Access) (old : Nat) : State :=
  match a.source with
  | .seq q =>
    let s := s.setSeq q ((s.seq q).dropItem a.id)
    if a.op.replies then s.reply (accessUnit a.place) q a.id [oldValue a.op a.size old] else s
  | .edge n e =>
    let e : Fin 4 := Fin.ofNat 4 e
    let sl := s.edgeSlot n e
    if sl.issued.any fun p => p.1 == a.id then
      let s := s.setEdge n e { sl with issued := sl.issued.filter fun p => p.1 != a.id }
      (s.setCore n ((s.core n).edgeFreeDone e)).edgeResume n e
    else s
  | _ => s

/-- The first byte of a load that a slot has issued. -/
def EdgeSlot.pieceVa (sl : EdgeSlot) (a : Access) : Nat :=
  match (sl.pointers ++ sl.pointersAhead.flatMap (·.2) ++ sl.fetches.flatMap (·.pieces)).find? fun p => p.id == a.id with
  | some p => p.va
  | none => a.va

/-- The answer of a load, or of a part of one, arrives at the block or the run that issued it. An uncorrectable error that a run meets while it
withholds is a further fault (R170). -/
def State.loadDone (s : State) (a : Access) (g : LoadReply) : State :=
  match a.source with
  | .seq q =>
    let v := s.seq q
    match v.blk with
    | some b => s.setSeq q { v with blk := some { b with loads := b.loads.map fun l => { l with pieces := l.pieces.map (Piece.take a g) } } }
    | none => s
  | .edge n e =>
    let e : Fin 4 := Fin.ofNat 4 e
    let sl := s.edgeSlot n e
    let s := s.setEdge n e { sl with pointers := sl.pointers.map (Piece.take a g),
                                     pointersAhead := sl.pointersAhead.map fun p => (p.1, p.2.map (Piece.take a g)),
                                     fetches := sl.fetches.map fun f => { f with pieces := f.pieces.map (Piece.take a g) } }
    (if sl.state = .withholding ∧ g = .bad then s.edgeWithhold n e 4 (BitVec.ofNat 64 (sl.pieceVa a)) else s).edgeResume n e
  | _ => s

/-- An access has met an uncorrectable error: a sequencer's is no longer outstanding, its atomic receives 0, and FLOOR becomes pending unless
it is; an edge stream's waits for a retry and withholds (R304, R316). -/
def State.accessFailed (s : State) (a : Access) : State :=
  match a.source with
  | .seq q =>
    let v := (s.seq q).dropItem a.id
    let s := s.setSeq q { v with pendFloor := v.pendFloor.orElse fun _ => some (BitVec.ofNat 64 a.va) }
    if a.op.replies then s.reply (accessUnit a.place) q a.id [0] else s
  | .edge n e =>
    let e : Fin 4 := Fin.ofNat 4 e
    let sl := s.edgeSlot n e
    if sl.issued.any fun p => p.1 == a.id then
      (s.setEdge n e { sl with issued := sl.issued.filter (fun p => p.1 != a.id), failed := sl.failed ++ [a] }).edgeWithhold n e 4
        (BitVec.ofNat 64 a.va)
    else s
  | _ => s

/-- A store that is withheld at its home is reported: VUGALLOC becomes pending with the tile's address, or the stream withholds (R317). -/
def State.reportWithheld (s : State) (a : Access) : State :=
  match a.source with
  | .seq q =>
    let v := s.seq q
    s.setSeq q { v with pendVug := v.pendVug.orElse fun _ => some (BitVec.ofNat 64 (a.va / 4096 * 4096)) }
  | .edge n e =>
    if (s.edgeSlot n (Fin.ofNat 4 e)).issued.any fun p => p.1 == a.id then s.edgeWithhold n (Fin.ofNat 4 e) 3 (BitVec.ofNat 64 a.va) else s
  | _ => s

/-- A load has performed: its answer goes back as a packet (R298). -/
def State.answerLoad (s : State) (a : Access) (g : LoadReply) : State := s.send .rsp (accessUnit a.place) a.source (.loaded a g)

/-- What has been applied is answered (R198, R304); whether the access is withheld. -/
def Performed.settle (a : Access) : Performed → Bool × State
  | .done old s => (false, s.accessDone a old)
  | .loaded v there s => (false, s.answerLoad a (.value v there))
  | .failed s => (false, if a.op = .load then s.answerLoad a .bad else s.accessFailed a)
  | .withheld s => (true, s)

/-! ## Slice controllers and homes -/

/-- Two accesses that one controller or home applies in arrival order: of one slice (R303), of one vug page (R316). -/
def Place.meets : Place → Place → Bool
  | .floor a, .floor b => sliceOf a == sliceOf b
  | .vug a, .vug b => a == b
  | _, _ => false

/-- The access at place j of the arrivals goes before the one at place k: it arrived in an earlier cycle, or in the same cycle from a unit of a
lower source number, or from the same unit before it (R303). -/
def arrivedBefore (a : Access) (j : Nat) (b : Access) (k : Nat) : Bool :=
  decide (a.arrived < b.arrived) || (a.arrived == b.arrived &&
    (decide (sourceNumber a.source < sourceNumber b.source) || (sourceNumber a.source == sourceNumber b.source && decide (j < k))))

/-- An access at the same slice or page goes before another: in the order of arrival, but that the last part of a torn access holds back only those of
its own unit (R203) and the erases of its tile, against which the whole access is one (R316). -/
def goesBefore (b : Access) (j : Nat) (a : Access) (k : Nat) : Bool :=
  b.place.meets a.place && arrivedBefore b j a k && (!b.late || b.source == a.source || (a.op == .erase && sameTile b a))

/-- The access at a place of the arrivals, in a cycle after that of its arrival, where no other of its slice or page goes first. -/
def State.nextAtSlice (s : State) (index : Nat) : Option Access :=
  match s.atSlice[index]? with
  | none => none
  | some a => if s.now ≤ a.arrived ∨ s.atSlice.zipIdx.any fun (b, j) => goesBefore b j a index then none else some a

/-- The bytes of an access below the middle of the doubleword that it lies in; 0 where it lies in one half. -/
def Access.lowBytes (a : Access) : Nat := if a.va % 8 < 4 ∧ 4 < a.va % 8 + a.size then 4 - a.va % 8 else 0

/-- One half of an access under an identity. -/
def Access.half (a : Access) (high : Bool) (id : Nat) : Access :=
  let k := if high then a.lowBytes else 0
  let n := if high then a.size - a.lowBytes else a.lowBytes
  { a with
    id := id, size := n, data := (a.data.drop k).take n, va := a.va + k
    place := match a.place with | .floor pa => .floor (pa + k) | .vug r => .vug r }

/-- The access at a place of the arrivals may tear (R203, R169): a load or store across the middle of a doubleword that is not in error, of the floor or of
a tile that exists and that no erase before it takes away (R316). -/
def State.mayTear (s : State) (index : Nat) (a : Access) : Bool :=
  (a.op == .load || a.op == .store) && a.lowBytes != 0 && match a.place with
    | .floor pa => !s.readBad pa a.size
    | .vug record =>
      (s.tileExists record (tileOf a.va)).1 == some true
        && !(s.atSlice.zipIdx.any fun (b, j) => b.op == .erase && sameTile b a && goesBefore b j a index) && match (s.tileFrame record (tileOf a.va)).1 with
        | some f => !s.readBad (f * 4096 + a.va % 4096) a.size
        | none => false

/-- A load or store tears into two parts, which are applied one after the other, with accesses of other units between them where these go first; it has
performed when the last part has (R203). The parts of a load keep its identity. -/
def State.tear (s : State) (index : Nat) (highFirst : Bool) : State :=
  match s.atSlice[index]? with
  | some a =>
    if s.mayTear index a then
      { s with nextId := s.nextId + 1,
               atSlice := s.atSlice.take index ++ [a.half highFirst (if a.op = .load then a.id else s.nextId), { a.half (!highFirst) a.id with late := true }]
                 ++ s.atSlice.drop (index + 1) }
    else s
  | none => s

/-- Two accesses of one slot to other bytes, which are on their way to one unit one behind the other, stand as if the slot had issued them in the other
order: R169 orders only accesses to the same address. -/
def State.swapAccesses (s : State) (index : Nat) : State :=
  match s.net[index]? with
  | none => s
  | some p =>
    match (s.net.zipIdx.drop (index + 1)).find? fun (o, _) => o.cls == p.cls && o.src == p.src && o.dst == p.dst with
    | none => s
    | some (o, j) =>
      match p.src, p.payload, o.payload with
      | .edge _ _, .access a, .access b =>
        if rangesMeet a.mayChange.1 a.mayChange.2 b.mayChange.1 b.mayChange.2 then s else { s with net := setNth (setNth s.net index o) j p }
      | _, _, _ => s

/-- SLICE_APPLY (R303): the controller applies one access. -/
def execSliceApply (index : Nat) (s : State) : Host.Outcome State Fault Refusal :=
  match s.nextAtSlice index with
  | some a =>
    match a.place with
    | .floor pa => .next (({ s with atSlice := dropNth s.atSlice index }.performAt a pa).settle a).2
    | .vug _ => .next s
  | none => .next s

/-- VUG_HOME_APPLY (R316): the home applies one access; one to a tile with a withheld access waits behind it (R317). -/
def execVugHomeApply (index : Nat) (s : State) : Host.Outcome State Fault Refusal :=
  match s.nextAtSlice index with
  | some a =>
    match a.place with
    | .vug record =>
      let s := { s with atSlice := dropNth s.atSlice index }
      if s.tileHeld record a.va then .next { s with withheld := s.withheld ++ [a] }
      else match (s.applyVug a record).settle a with
        | (false, s) => .next s
        | (true, s) => .next ({ s with withheld := s.withheld ++ [a] }.reportWithheld a)
    | .floor _ => .next s
  | none => .next s

/-- The page of a withheld access names a descriptor; so does one whose record cannot be read, which then fails. -/
def State.namesPool (s : State) (a : Access) (d : Nat) : Bool :=
  match a.place with
  | .vug record => match (s.loadFloor (record + 64) 8).1 with | some vrd => bitsOf vrd 6 38 * 64 == d | none => true
  | .floor _ => false

/-- Retry withheld accesses, oldest first (R317). `seen` holds those already tried, `kept` those of them that stay. -/
def State.retryWithheld (d : Nat) : State → List Access → List Access → List Access → State
  | s, _, kept, [] => { s with withheld := kept }
  | s, seen, kept, a :: rest =>
    if kept.any (sameTile a) || !s.namesPool a d then s.retryWithheld d (seen ++ [a]) (kept ++ [a]) rest
    else match a.place with
      | .floor _ => s.retryWithheld d (seen ++ [a]) (kept ++ [a]) rest
      | .vug record =>
        match ({ s with withheld := kept ++ rest }.applyVug a record).settle a with
        | (false, s) => s.retryWithheld d (seen ++ [a]) kept rest
        | (true, s) => (if seen.any (sameTile a) then s.reportWithheld a else s).retryWithheld d (seen ++ [a]) (kept ++ [a]) rest

/-- Every withholding stream of a die is due for a retry (R268, R309). -/
def State.retryStreams (s : State) (die : Nat) : State :=
  { s with cores := s.cores.map fun (n, c) =>
      if coreDie n = die then
        (n, { c with edge := c.edge.map fun sl => if sl.state = .withholding then { sl with retryDue := true } else sl })
      else (n, c) }

/-- POOL_CHANGE (R317): TAIL of a descriptor has been stored to, or stepped by the return of a frame, and the homes of its die retry what they
withhold. -/
def execPoolChange (descriptor : Nat) (s : State) : Host.Outcome State Fault Refusal :=
  if s.poolDue.contains descriptor then
    let s := { s with poolDue := s.poolDue.filter (· != descriptor) }
    .next ((s.retryStreams (paDie descriptor)).retryWithheld descriptor [] [] s.withheld)
  else .next s

/-! ## Packets -/

/-- What a packet brings to its destination. -/
def State.receive (s : State) (p : Packet) : State :=
  match p.payload, p.dst with
  | .access a, _ => { s with atSlice := s.atSlice ++ [{ a with arrived := s.now }] }
  | .loaded a g, _ => s.loadDone a g
  | .relatch t, .core n => let c := s.core n; s.setCore n { c with relatches := c.relatches ++ [t] }
  | .cmd c, _ => { s with cmds := s.cmds ++ [c] }
  | .reply id vals _, .seq q => let v := s.seq q; s.setSeq q { v with arrivedReplies := v.arrivedReplies ++ [(id, vals)] }
  | .fill f, .seq q => let v := s.seq q; s.setSeq q { v with arrivedFills := v.arrivedFills ++ [f] }
  | .record r, .seq q => let v := s.seq q; s.setSeq q { v with arrivedRecords := v.arrivedRecords ++ [r] }
  | .take t, .seq q => let v := s.seq q; s.setSeq q { v with arrivedTakes := v.arrivedTakes ++ [t] }
  | _, _ => s

/-- A packet needs a die-network link. -/
def Packet.needs (p : Packet) (l : LinkId) : Bool := wayUses p.src p.dst l

/-- DIE_PACKET_DELIVER (R298): a packet arrives; packets of one class from one unit to one unit arrive in sending order. One that needs a link that
has stopped waits, and one that arrives has passed the check of its links (R300). -/
def execDiePacketDeliver (index : Nat) (s : State) : Host.Outcome State Fault Refusal :=
  match s.net[index]? with
  | none => .next s
  | some p =>
    if s.deadLinks.any p.needs || (s.net.take index).any fun r => r.cls == p.cls && r.src == p.src && r.dst == p.dst then .next s
    else .next ({ s with net := dropNth s.net index, linkFails := s.linkFails.filter fun f => !p.needs f.1 }.receive p)

end Sys2Proof.Machine
end

