-- ==== Sys2Proof/Machine/Stage.lean ====
section
/-! DEFINITION. Running one stage of a firing (03 R39, R41, R42, R46): reading, holding, delivering, and what the stage leaves. Every stage
instruction is this operation with a body of its own. -/

namespace Sys2Proof.Machine

/-- Where a stage delivers a beat. -/
inductive Dest where
  | port (j : Fin 4)
  | win (w : Win)
  deriving DecidableEq, Repr

/-- What running a stage comes to. -/
structure StageOut where
  val : Beat
  /-- beats the stage sends by itself, before its DST -/
  outs : List (Dest × Beat)
  /-- store words it writes -/
  writes : List (Nat × Lane)
  /-- the dynamic state of its slot -/
  dyn : SlotDyn
  /-- its shrinks, which take effect after stage 6 -/
  shrinks : List (Win × Nat)
  setMask : Bool
  flags : Lane
  cwarn : Lane
  reads : List (Nat × Win)
  /-- a join key out of order under STRICT, and the window it came from (R103) -/
  keyFault : Option (Lane × Win)
  deriving DecidableEq, Repr

inductive StageRes where
  /-- it waits for an element of a window (R42) -/
  | wait (w : Win)
  /-- it executes as `nop` (R50, R116) -/
  | nop (cwarn : Lane)
  | out (o : StageOut)
  deriving DecidableEq, Repr

/-- A stage that only forms a value. -/
def StageCtx.value (x : StageCtx) (val : Beat) (flags cwarn : Lane) : StageOut :=
  { val := val, outs := [], writes := [], dyn := x.core.dyn[x.fr.slot], shrinks := [], setMask := false, flags := flags, cwarn := cwarn,
    reads := [], keyFault := none }

/-- The deliveries of DST (R46). -/
def dstDests (h : HandlerRec) (dst : BitVec 3) : List Dest :=
  match dst.toNat with
  | 1 => [.port 0]
  | 2 => [.port 1]
  | 3 => [.port 2]
  | 4 => [.port 3]
  | 5 => [.win (h0Fillw h)]
  | 6 => [.port 0, .win (h0Fillw h)]
  | _ => []

/-- A window that takes the core's own fills (R58, R112). -/
def Core.ownFill (c : Core) (w : Win) : Bool := c.ordinary w && wdSrc (c.desc w) == 2

/-- Deliver one beat: the core after it with the warning it sets, or the wait for room (R42, R46, R58). -/
def Core.deliver (c : Core) (d : Dest) (b : Beat) : Except Hold (Core × Lane) :=
  if b.empty then .ok (c, 0)
  else match d with
    | .port j =>
      if (c.portLink j).isNone then .ok (c, cwDSTX)
      else match c.sendPort j b with
        | some c' => .ok (c', 0)
        | none => .error (.port j)
    | .win w =>
      if c.ownFill w then
        match c.fillBeat w b with
        | some c' => .ok (c', 0)
        | none => .error (.room w)
      else .ok (c, cwDSTX)

/-- Deliver some beats in order, as far as they go: the core, how many went, the warnings, and why the next did not go. -/
def Core.deliverAll (c : Core) : List (Dest × Beat) → Core × Nat × Lane × Option Hold
  | [] => (c, 0, 0, none)
  | (d, b) :: rest =>
    match c.deliver d b with
    | .error h => (c, 0, 0, some h)
    | .ok (c', w) =>
      let (c'', n, w', h) := c'.deliverAll rest
      (c'', n + 1, w ||| w', h)

def Core.writeStore (c : Core) : List (Nat × Lane) → Core
  | [] => c
  | (a, x) :: rest => (c.storeWord a x).writeStore rest

/-- Replace a firing of the pipeline. -/
def Core.setFiring (c : Core) (k : Nat) (f : Firing) : Core := { c with pipe := setNth c.pipe k f }

/-- The region of a core stands frozen (R269, R272); where no region holds the core, nothing of it moves (R259). -/
def State.coreFrozen (s : State) (n : Nat) : Bool := match s.regionOfCore n with | some r => r.frozen | none => true

/-- A firing that holds, as its core stands. -/
def Core.held (c : Core) (fr : Firing) (h : Hold) : Firing := { fr with hold := some h, heldWin := h.win.map c.win }

/-- What the windows of a core hold more than before some deliveries. -/
def Core.newFills (c c' : Core) : List (Win × Nat) :=
  (allWins.filter fun w => decide ((c.win w).filled < (c'.win w).filled)).map fun w => (w, (c'.win w).filled - (c.win w).filled)

/-- A firing that has filled some elements. -/
def Firing.filling (fr : Firing) (l : List (Win × Nat)) : Firing := { fr with fills := fr.fills ++ l }

/-- A beat as the handler gives it: with the handler's graph number (R34, R45). -/
def Beat.inGraph (b : Beat) (h : HandlerRec) : Beat := { b with graph := h0Graph h }

/-- The stage has run and its beats are delivered: what it leaves (R41). The words that it read are corrected and counted before any of them is
written afresh (R120, R144). -/
def Core.commitStage (c : Core) (k : Nat) (fr : Firing) (keep : Bool) (o : StageOut) (cwarn : Lane) : Core :=
  let c := (c.correctStore o.reads).writeStore o.writes
  { c with dyn := c.dyn.set fr.slot o.dyn }.setFiring k
    { fr with stage := fr.stage + 1, sent := 0, hold := none, heldWin := none,
              vals := fr.vals.setIfInBounds (fr.stage - 1) (if keep then some o.val else none),
              shrinks := fr.shrinks ++ o.shrinks, setMask := fr.setMask || o.setMask,
              aflg := fr.aflg ||| o.flags, cwarn := fr.cwarn ||| cwarn ||| o.cwarn }

/-- The stage holds. -/
def State.holdStage (s : State) (n k : Nat) (fr : Firing) (h : Hold) : State :=
  s.setCore n ((s.core n).setFiring k ((s.core n).held fr h))

/-- After its sixth stage a firing completes in the same cycle (R39, R41): FIRING_COMPLETE is the next move (log 97). -/
def State.thenComplete (s : State) (n stage : Nat) : State :=
  if stage = 6 then { s with agenda := (0, .event (.firingComplete n)) :: s.agenda } else s

/-- Deliver what a stage has formed and finish it, or hold (R42, R46). -/
def State.finishStage (s : State) (n k : Nat) (fr : Firing) (f : StageFields) (h : HandlerRec) (o : StageOut) (dests : List Dest)
    (cwarn : Lane) : State :=
  let c := s.core n
  match c.badRead o.reads with
  | some hit => (s.holdStage n k fr .stopped).storeFault n fr.slot fr.stage hit
  | none =>
    let o := { o with val := o.val.settled.inGraph h, outs := o.outs.map fun (d, b) => (d, b.settled.inGraph h) }
    let (c', sent, w, held) := c.deliverAll ((o.outs ++ dests.map fun d => (d, o.val)).drop fr.sent)
    let fr := fr.filling (c.newFills c')
    match held with
    | some hd => s.setCore n (c'.setFiring k (c'.held { fr with sent := fr.sent + sent, cwarn := fr.cwarn ||| w } hd))
    | none =>
      let s' := s.setCore n (c'.commitStage k fr (f.dst != 7) o (cwarn ||| w))
      (match o.keyFault with
       | some (key, win) => s'.coreFault n 1 fr.slot fr.stage win 0 (key.setWidth 64) 0
       | none => s').thenComplete n fr.stage

/-- The operands that a stage reads: none where it runs as `nop` (R50, R116). -/
def StageCtx.operandsOf (x : StageCtx) (op : Nat) : Operands :=
  if x.core.stageRuns x.h (stageWord (BitVec.ofNat 6 op) x.f) then x.operands (opcodeUses op x.f.mod.toNat)
  else ⟨.absent, .absent, .absent⟩

/-- Run the next stage of a firing with the fields f of its word: hold while an older firing must go first or an operand is not there
(R42), else do what the body says. -/
def State.stageStep (s : State) (n k : Nat) (fr : Firing) (op : Nat) (f : StageFields) (body : StageCtx → Operands → StageRes) : State :=
  let c := s.core n
  let h := c.active[fr.slot]
  let w := stageWord (BitVec.ofNat 6 op) f
  let warn := lanternWarn op f
  if (c.pipe.take k).any fun g => c.mustWait h w c.active[g.slot] g.stage then s.holdStage n k fr .older
  else
    let x : StageCtx := ⟨c, k, fr, h, f⟩
    let o := x.operandsOf op
    match o.wait with
    | some v => s.holdStage n k fr (.read v)
    | none =>
      match body x o with
      | .wait v => s.holdStage n k fr (.read v)
      | .nop cw => s.finishStage n k fr f h (x.value (Beat.blank 16 markNone) 0 cw) [] warn
      | .out r => s.finishStage n k fr f h { r with reads := r.reads ++ o.reads } (dstDests h f.dst) (warn ||| o.cwarn)

/-- A stage instruction: it runs where a firing of a core stands at it, and nowhere else (log 1). -/
def State.runStage (s : State) (op : Nat) (f : StageFields) (body : StageCtx → Operands → StageRes) : Host.Outcome State Fault Refusal :=
  match s.focus with
  | .stage n k =>
    match (s.core n).pipe[k]? with
    | some fr => if fr.stage < 1 ∨ 6 < fr.stage ∨ s.coreFrozen n ∨ fr.hold = some .stopped then .next s else .next (s.stageStep n k fr op f body)
    | none => .next s
  | _ => .next s

/-- A lane-wise value: the function runs in every lane below COUNT, and no other lane sets a flag (R23, R29, R45). -/
def lanesBelow (n : Nat) (g : Nat → Flagged) : Vector Lane 16 × Lane :=
  (Vector.ofFn fun l : Fin 16 => if l.val < n then (g l).val else 0, orAll ((List.range (min n 16)).map fun l => (g l).flags))

/-- A compute stage: COUNT and marker by R45, and a function of the three operands in each lane. -/
def StageCtx.compute (x : StageCtx) (o : Operands) (cwarn : Lane) (g : Lane → Lane → Lane → Flagged) : StageRes :=
  let l := [o.a, o.b, o.c]
  let n := countOf l
  let (lanes, flags) := lanesBelow n fun i => g (o.a.lane i) (o.b.lane i) (o.c.lane i)
  .out (x.value ⟨lanes, n, markOf l, 0⟩ flags (cwarn ||| cntmOf l))

end Sys2Proof.Machine
end

