-- ==== Sys2Proof/Machine/Accumulate.lean ====
section
/-! DEFINITION. The accumulating stages and the handler accumulator (02 R33, R35; 04 R79-R90): kinds, terms, the three shapes, the boundary
group, and the result beat. -/

namespace Sys2Proof.Machine

/-! ## Kinds and terms -/

/-- What ⊕ does (R84 to R87). -/
inductive AccOp where
  | sum | greater | lesser | magnitude
  deriving DecidableEq, Repr

/-- An arithmetic kind (R47): FF36 with a rounding mode, or INT36 with a saturation. -/
structure AccKind where
  op : AccOp
  float : Bool
  mode : RMode
  sat : Sat
  deriving DecidableEq, Repr

/-- The kind of a MOD code; 0b111 acts as FF36 with RNE (R58). -/
def accKind (op : AccOp) (mod : Nat) : AccKind :=
  match mod with
  | 0 => ⟨op, true, .rne, .wrap⟩
  | 1 => ⟨op, true, .rtz, .wrap⟩
  | 2 => ⟨op, true, .rup, .wrap⟩
  | 3 => ⟨op, true, .rdn, .wrap⟩
  | 4 => ⟨op, false, .rne, .wrap⟩
  | 5 => ⟨op, false, .rne, .sat32⟩
  | 6 => ⟨op, false, .rne, .sat36⟩
  | _ => ⟨op, true, .rne, .wrap⟩

/-- A term, or a pending sum: a lane word, or the exact product of two lane words (R35). -/
inductive Term where
  | word (w : Lane)
  | prod (a b : Lane)
  deriving DecidableEq, Repr

/-- The integer value of a term. A magnitude is held unsigned (R87). -/
def Term.int (k : AccKind) : Term → Int
  | .word w => if k.op = .magnitude then w.toNat else w.toInt
  | .prod a b => a.toInt * b.toInt

/-- The float value of a term, and whether it is an undefined product (R21). -/
def Term.float : Term → FVal × Bool
  | .word w => (ff w, false)
  | .prod a b => mulVal (ff a) (ff b)

/-- A NaN stands among the words of a term. -/
def Term.hasNan : Term → Bool
  | .word w => isNan w
  | .prod a b => isNan a || isNan b

/-- One ⊕ (R35): exact, then one rounding or saturation. -/
def AccKind.join (k : AccKind) (x y : Term) : Flagged :=
  match k.op, k.float with
  | .sum, true =>
    if x.hasNan || y.hasNan then ⟨qnan, 0⟩
    else
      let (u, i) := x.float
      let (v, j) := y.float
      if i || j then ⟨qnan, flagINV⟩ else sumVal k.mode u v
  | .sum, false => satm k.sat (x.int k + y.int k)
  | .lesser, true => if x.hasNan || y.hasNan then ⟨qnan, 0⟩ else
      match x, y with | .word a, .word b => ⟨fminOp a b, 0⟩ | _, _ => ⟨qnan, 0⟩
  | _, true => if x.hasNan || y.hasNan then ⟨qnan, 0⟩ else
      match x, y with | .word a, .word b => ⟨fmaxOp a b, 0⟩ | _, _ => ⟨qnan, 0⟩
  | .lesser, false => ⟨BitVec.ofInt 36 (min (x.int k) (y.int k)), 0⟩
  | _, false => ⟨BitVec.ofInt 36 (max (x.int k) (y.int k)), 0⟩

/-- A term enters an empty sum without an addition: a product is rounded once, an integer goes through the saturation (R35). -/
def AccKind.enter (k : AccKind) (x : Term) : Flagged :=
  match k.op, k.float with
  | .sum, true =>
    match x with
    | .word w => ⟨if isNan w then qnan else w, 0⟩
    | .prod a b => fmulOp k.mode a b
  | .sum, false => satm k.sat (x.int k)
  | _, true => match x with | .word w => ⟨if isNan w then qnan else w, 0⟩ | .prod _ _ => ⟨qnan, 0⟩
  | _, false => ⟨BitVec.ofInt 36 (x.int k), 0⟩

/-- A term joins a sum that may be empty. -/
def AccKind.step (k : AccKind) (s : Option Lane) (x : Term) : Flagged :=
  match s with
  | none => k.enter x
  | some v => k.join (.word v) x

/-- The delivered word of a final value (R87: the greatest and the lesser are saturated only here). -/
def AccKind.deliver (k : AccKind) (v : Lane) : Flagged :=
  match k.op, k.float with
  | .sum, _ => ⟨v, 0⟩
  | _, true => ⟨v, 0⟩
  | _, false => satm k.sat ((Term.word v).int k)

/-! ## Shapes (R35) -/

inductive Shape where
  | seq | tree16 | split4
  deriving DecidableEq, Repr

/-- The effective shape of AUX bits 3:2. -/
def shapeOf (aux : BitVec 4) : Shape :=
  match bv aux 2 2 with
  | 1 => .tree16
  | 2 => .split4
  | _ => .seq

/-- A cell with the flags that forming it set. -/
abbrev CellStep := LaneCell × Lane

/-- A TREE16 node climbs from level l on: it waits where no sibling waits, and joins the sibling where one does; past level 3 it joins s
(R35, R80). Only at level 0 can a product wait (R79). -/
def AccKind.climb (k : AccKind) (cell : LaneCell) (x : Term) (flags : Lane) : Nat → Nat → CellStep
  | _, 0 => let r := k.step cell.s x; ({ cell with s := some r.val }, flags ||| r.flags)
  | l, n + 1 =>
    let waiting : Option Term :=
      if l = 0 ∧ cell.pair.isSome then cell.pair.map fun p => Term.prod p.1 p.2 else ((cell.node[l]?).join).map Term.word
    match waiting with
    | some y =>
      let r := k.join y x
      let cell := { cell with node := cell.node.setIfInBounds l none, pair := if l = 0 then none else cell.pair }
      k.climb cell (.word r.val) (flags ||| r.flags) (l + 1) n
    | none =>
      match x with
      | .word w => ({ cell with node := cell.node.setIfInBounds l (some w) }, flags)
      | .prod a b => if l = 0 then ({ cell with pair := some (a, b) }, flags) else (cell, flags)

/-- Add the next term to a lane cell (R80, R81). -/
def AccKind.add (k : AccKind) (shape : Shape) (cell : LaneCell) (x : Term) : CellStep :=
  let (c, f) := match shape with
    | .seq => let r := k.step cell.s x; ({ cell with s := some r.val }, r.flags)
    | .split4 =>
      let j := cell.k % 4
      let r := k.step (cell.q[j]?).join x
      ({ cell with q := cell.q.setIfInBounds j (some r.val) }, r.flags)
    | .tree16 => k.climb cell x 0 0 4
  ({ c with k := cell.k + 1 }, f)

/-- Two nodes, either of which may be absent: a node with one absent child passes the other up unrounded (R35). -/
def AccKind.pair (k : AccKind) : Option Term → Option Term → Option Term × Lane
  | none, y => (y, 0)
  | x, none => (x, 0)
  | some x, some y => let r := k.join x y; (some (.word r.val), r.flags)

/-- One level of the tree over the lanes of a beat. -/
def AccKind.level (k : AccKind) : List (Option Term) → List (Option Term) × Lane
  | x :: y :: rest =>
    let (v, f) := k.pair x y
    let (vs, g) := k.level rest
    (v :: vs, f ||| g)
  | l => (l, 0)

/-- T of R35 over sixteen lanes. -/
def AccKind.tree (k : AccKind) (l : List (Option Term)) : Option Term × Lane :=
  let (l1, f1) := k.level l
  let (l2, f2) := k.level l1
  let (l3, f3) := k.level l2
  let (l4, f4) := k.level l3
  ((l4.head?).join, f1 ||| f2 ||| f3 ||| f4)

/-- Close the open TREE16 group of a cell: the pending nodes join from the lowest level up (R35). -/
def AccKind.close (k : AccKind) (cell : LaneCell) : Option Lane × Lane :=
  let l0 : Option Term := if cell.pair.isSome then cell.pair.map fun p => Term.prod p.1 p.2 else (cell.node[0]).map Term.word
  let up (acc : Option Term × Lane) (x : Option Lane) : Option Term × Lane :=
    let (v, f) := k.pair (x.map Term.word) acc.1
    (v, acc.2 ||| f)
  let (b, f) := up (up (up (l0, 0) cell.node[1]) cell.node[2]) cell.node[3]
  match b with
  | none => (cell.s, f)
  | some x => let r := k.step cell.s x; (some r.val, f ||| r.flags)

/-- The final value of a cell by its shape; none for a cell without a term (R81). -/
def AccKind.final (k : AccKind) (shape : Shape) (cell : LaneCell) : Option Lane × Lane :=
  match shape with
  | .seq => (cell.s, 0)
  | .tree16 => k.close cell
  | .split4 =>
    let w (q : Option Lane) : Option Term := q.map Term.word
    let (a, f) := k.pair (w cell.q[0]) (w cell.q[1])
    let (b, g) := k.pair (w cell.q[2]) (w cell.q[3])
    let (v, h) := k.pair a b
    (match v with | some (.word x) => some x | _ => none, f ||| g ||| h)

/-! ## Boundary groups (R33) -/

/-- The group state after a beat with n valid lanes and a marker. DESIGN CHOICE (log 131): while no group is open, the highest rank and the mark of a
reduction keep what the last group left. -/
def GroupState.after (g : GroupState) (n : Nat) (m : BitVec 3) : GroupState :=
  let r := markRank m
  if 0 < r then (if 0 < n ∨ !g.isOpen then ⟨true, r, false⟩ else ⟨true, max g.rank r, g.reduced⟩)
  else if 0 < n ∨ m ≠ markNone then ⟨false, g.rank, g.reduced⟩ else g

/-- A boundary of at least the rank given is met for the first time in its group. -/
def GroupState.meets (g : GroupState) (m : BitVec 3) (field : Nat) : Bool := decide (field ≤ markRank m) && decide (0 < markRank m) && !g.reduced

/-! ## A firing of an accumulating stage (R81, R82) -/

/-- Add the terms of one cell, in order. -/
def AccKind.addAll (k : AccKind) (shape : Shape) (cell : LaneCell) : List Term → CellStep
  | [] => (cell, 0)
  | x :: xs =>
    let (c, f) := k.add shape cell x
    let (c', g) := k.addAll shape c xs
    (c', f ||| g)

/-- The terms of a beat join lane cell 0 of a scalar stage (R35, R80): TREE16 sums the beat first. -/
def AccKind.addScalar (k : AccKind) (shape : Shape) (cell : LaneCell) (terms : List Term) : CellStep :=
  if shape = .tree16 then
    let (b, f) := k.tree ((terms.map some) ++ List.replicate (16 - terms.length) none)
    let cell := { cell with k := cell.k + terms.length }
    match b with
    | none => (cell, f)
    | some x => let r := k.step cell.s x; ({ cell with s := some r.val }, f ||| r.flags)
  else k.addAll shape cell terms

/-- One term, where there is one, joins each lane cell of a lane-parallel stage (R80). -/
def AccKind.addLanes (k : AccKind) (shape : Shape) (cells : Vector LaneCell 16) (term : Nat → Option Term) : Vector LaneCell 16 × Lane :=
  let step (l : Fin 16) : CellStep := match term l with | some t => k.add shape cells[l] t | none => (cells[l], 0)
  (Vector.ofFn fun l => (step l).1, orAll ((List.finRange 16).map fun l => (step l).2))

/-- The empty result of R83. -/
def emptyResult (op : Nat) (k : AccKind) : Lane :=
  match op with
  | 0x2A => if k.float then inf36 true else BitVec.ofInt 36 (if k.sat = .sat32 then int32Min else int36Min)
  | 0x2B => if k.float then inf36 false else BitVec.ofInt 36 (if k.sat = .sat32 then int32Max else int36Max)
  | _ => 0

/-- The result beat of a scalar stage that reduces (R82, R83). -/
def AccKind.scalarResult (k : AccKind) (op : Nat) (shape : Shape) (cell : LaneCell) (m : BitVec 3) : Beat × Lane :=
  let (v, f) := k.final shape cell
  let r : Flagged := match v with | some x => k.deliver x | none => ⟨emptyResult op k, 0⟩
  (⟨Vector.ofFn fun l : Fin 16 => if l.val = 0 then r.val else 0, 1, m, 0⟩, f ||| r.flags)

/-- The result beat of a lane-parallel stage that reduces (R82). -/
def AccKind.laneResult (k : AccKind) (shape : Shape) (cells : Vector LaneCell 16) (m : BitVec 3) : Beat × Lane :=
  let fin (l : Fin 16) : Option Lane × Lane := k.final shape cells[l]
  let count := (List.finRange 16).foldl (fun n l => if (fin l).1.isSome then l.val + 1 else n) 0
  (⟨Vector.ofFn fun l => ((fin l).1.map fun x => (k.deliver x).val).getD 0, count, m, 0⟩, orAll ((List.finRange 16).map fun l => (fin l).2))

/-- The warnings of MOD and AUX of an accumulating stage (R47, R58). -/
def accWarn (f : StageFields) : Lane :=
  (if f.mod = 7 then cwMODX else 0) ||| (if bv f.aux 2 2 = 3 then cwSHP else 0)

/-- A firing of an accumulating stage: its terms join the section, then the stage reduces or delivers an empty beat (R81). n is the valid
count that the group state sees and m the beat marker. -/
def StageCtx.accumulate (x : StageCtx) (op : Nat) (k : AccKind) (scalar : Bool) (m : BitVec 3) (n : Nat) (cwarn : Lane)
    (term : Nat → Option Term) (terms : List Term) : StageOut :=
  let shape := shapeOf x.f.aux
  let field := bv x.f.aux 0 2
  let dyn := x.core.dyn[x.fr.slot]
  let i := x.fr.stage - 1
  let sec := (dyn.sections[i]?).getD AccSection.empty
  let (cells, flags) :=
    if scalar then
      let (c, fl) := k.addScalar shape sec.cells[0] terms
      (sec.cells.set 0 c, fl)
    else k.addLanes shape sec.cells term
  let g := sec.group.after n m
  let reduces := field = 0 ∨ g.meets m field
  let used := some (x.f.mod, x.f.aux)
  if reduces then
    let (beat, fl) := if scalar then k.scalarResult op shape cells[0] m else k.laneResult shape cells m
    let sec' : AccSection := ⟨Vector.replicate 16 LaneCell.empty, { g with reduced := g.reduced || g.isOpen }, used⟩
    { x.value beat (flags ||| fl) (accWarn x.f ||| cwarn) with dyn := { dyn with sections := dyn.sections.setIfInBounds i sec' } }
  else
    { x.value (Beat.blank 0 markNone) flags (accWarn x.f ||| cwarn) with
      dyn := { dyn with sections := dyn.sections.setIfInBounds i ⟨cells, g, used⟩ } }

/-- `acc` (R84). -/
def execAcc (f : StageFields) (s : State) : Host.Outcome State Fault Refusal :=
  s.runStage 0x27 f fun x o =>
    .out (x.accumulate 0x27 (accKind .sum f.mod.toNat) false o.a.mark o.a.count 0
      (fun l => if l < o.a.count then some (.word (o.a.lane l)) else none) [])

/-- `fmab` (R86). -/
def execFmab (f : StageFields) (s : State) : Host.Outcome State Fault Refusal :=
  s.runStage 0x28 f fun x o =>
    let i := if o.c.present then bv (o.c.lane 0) 0 4 else x.fr.iter % 16
    let m := if i = o.a.count - 1 then o.a.mark else markNone
    .out (x.accumulate 0x28 (accKind .sum f.mod.toNat) false m (if i < o.a.count then 1 else 0) 0
      (fun l => if i < o.a.count ∧ l < o.b.count then some (.prod (o.a.lane i) (o.b.lane l)) else none) [])

/-- `dot` (R85). -/
def execDot (f : StageFields) (s : State) : Host.Outcome State Fault Refusal :=
  s.runStage 0x29 f fun x o =>
    let n := countOf [o.a, o.b]
    .out (x.accumulate 0x29 (accKind .sum f.mod.toNat) true (markOf [o.a, o.b]) n (cntmOf [o.a, o.b]) (fun _ => none)
      ((List.range n).map fun l => .prod (o.a.lane l) (o.b.lane l)))

/-- `rmax` (R87). -/
def execRmax (f : StageFields) (s : State) : Host.Outcome State Fault Refusal :=
  s.runStage 0x2A f fun x o =>
    .out (x.accumulate 0x2A (accKind .greater f.mod.toNat) true o.a.mark o.a.count 0 (fun _ => none)
      ((List.range o.a.count).map fun l => .word (o.a.lane l)))

/-- `rmin` (R87). -/
def execRmin (f : StageFields) (s : State) : Host.Outcome State Fault Refusal :=
  s.runStage 0x2B f fun x o =>
    .out (x.accumulate 0x2B (accKind .lesser f.mod.toNat) true o.a.mark o.a.count 0 (fun _ => none)
      ((List.range o.a.count).map fun l => .word (o.a.lane l)))

/-- `ramax` (R87): the magnitude of each lane. -/
def execRamax (f : StageFields) (s : State) : Host.Outcome State Fault Refusal :=
  s.runStage 0x2C f fun x o =>
    let k := accKind .magnitude f.mod.toNat
    .out (x.accumulate 0x2C k true o.a.mark o.a.count 0 (fun _ => none)
      ((List.range o.a.count).map fun l =>
        .word (if k.float then fabsOp (o.a.lane l) else BitVec.ofNat 36 (o.a.lane l).toInt.natAbs)))

end Sys2Proof.Machine
end

