-- ==== Sys2Proof/Machine/Flow.lean ====
section
/-! DEFINITION. The flow stages: `stop`, `steer`, `merge`, sorting cells, compression, markers, counts and lane shuffles (05 R94-R108, R115,
R116). `join` stands in Join.lean. -/

namespace Sys2Proof.Machine

/-- A vector of sixteen lanes from a function, zero from a count on (R29). -/
def lanesOf (n : Nat) (g : Nat → Lane) : Vector Lane 16 := Vector.ofFn fun l : Fin 16 => if l.val < n then g l else 0

/-- The beat of some lanes, packed from lane 0. -/
def packed (l : List Lane) (m : BitVec 3) : Beat := ⟨lanesOf l.length fun i => l[i]?.getD 0, l.length, m, 0⟩

/-- A result whose lanes come from a function, with a COUNT and a marker of its own. -/
def StageCtx.flow (x : StageCtx) (n : Nat) (m : BitVec 3) (cwarn : Lane) (g : Nat → Lane) : StageOut :=
  x.value ⟨lanesOf n g, n, m, 0⟩ 0 cwarn

/-- bool of lane 0 of an operand with a valid lane (R106, R115). -/
def Operand.holds (o : Operand) : Bool := decide (1 ≤ o.count) && boolOf (o.lane 0)

/-- `stop` (R115). -/
def execStageStop (f : StageFields) (s : State) : Host.Outcome State Fault Refusal :=
  s.runStage 0x01 f fun x o =>
    .out { x.value (Beat.blank 0 markNone) 0 (modZero f ||| auxZero f) with setMask := !o.a.present || o.a.holds }

/-- `steer` (R97). -/
def execSteer (f : StageFields) (s : State) : Host.Outcome State Fault Refusal :=
  s.runStage 0x2D f fun x o =>
    let n := countOf [o.a, o.b]
    let side (b : Bool) : List Lane := ((List.range n).filter fun l => boolOf (o.b.lane l) == b).map o.a.lane
    let trueOut := if bitAt f.mod 1 then [] else [(Dest.port (Fin.ofNat 4 (bv f.aux 2 2)), packed (side true) markNone)]
    let falseOut := if bitAt f.mod 0 then [] else [(Dest.port (Fin.ofNat 4 (bv f.aux 0 2)), packed (side false) markNone)]
    .out { x.flow n o.a.mark (modBit2 f ||| cntmOf [o.a, o.b]) (fun l => laneOfBool (boolOf (o.b.lane l))) with
      outs := trueOut ++ falseOut }

/-! ## Merge (R98) -/

/-- Where a merge stands in a branch window: the offset, the lanes used there, and the elements wholly used. -/
structure BranchPos where
  off : Nat
  used : Nat
  done : Nat
  deriving DecidableEq, Repr

/-- What taking the next lane of a branch gives. -/
inductive Taken where
  | lane (w : Lane) (p : BranchPos) (reads : List (Nat × Win)) (cwarn : Lane)
  | waits
  deriving DecidableEq, Repr

/-- The next unused lane of a branch window, passing over beats of COUNT 0, of which only the control word is read, and which keep the lane position
for the beat behind them; at most n elements are looked at, and r has been read (R96, R98). DESIGN CHOICE (log 127): a zero lane beyond the capacity
uses up nothing, so the branch stays where it stands, and the beats of COUNT 0 passed over before it are not shrunk. -/
def StageCtx.take (x : StageCtx) (w : Win) (p : BranchPos) : Nat → List (Nat × Win) → Taken
  | 0, r => .lane 0 p r cwTRANGE
  | n + 1, r =>
    match x.elem w p.off with
    | .waits => .waits
    | .zero cw => .lane 0 p r cw
    | .there a =>
      if wdBeat (x.core.desc w) then
        let b := x.core.beatAt a
        if p.used < b.count then
          let v := b.lanes[p.used]?.getD 0
          .lane v (if p.used + 1 = b.count then ⟨p.off + 1, 0, p.off + 1⟩ else { p with used := p.used + 1 }) (r ++ beatReads w a) 0
        else x.take w ⟨p.off + 1, p.used, p.done⟩ n (r ++ [(a + 16, w)])
      else .lane (x.core.loadWord a) ⟨p.off + 1, 0, p.off + 1⟩ (r ++ [(a, w)]) 0

/-- What a merge has gathered. -/
structure Merged where
  lanes : List Lane
  t : BranchPos
  f : BranchPos
  reads : List (Nat × Win)
  cwarn : Lane
  deriving DecidableEq, Repr

/-- Replay some decisions (R98); the window that a lane waits for, where one does. DESIGN CHOICE (log 96): where both branches name one window,
each keeps a position of its own from the head, so that its lanes are taken by each, and both shrinks are applied. -/
def StageCtx.replay (x : StageCtx) (wt wf : Win) : List Bool → Merged → Except Win Merged
  | [], m => .ok m
  | d :: ds, m =>
    let w := if d then wt else wf
    match x.take w (if d then m.t else m.f) 1025 [] with
    | .waits => .error w
    | .lane v p r cw =>
      x.replay wt wf ds
        { lanes := m.lanes ++ [v], t := if d then p else m.t, f := if d then m.f else p, reads := m.reads ++ r, cwarn := m.cwarn ||| cw }

/-- `merge` (R98, R99, R116). DESIGN CHOICE (log 127): a branch on a parameter or an unbound window is not shrunk, with no warning; the lanes used in
the beat reached are kept, and count for the beat at offset 0 in the next firing. DESIGN CHOICE (log 126): one that executes as `nop` still sets MODX and
AUXX for its own fields. -/
def execMerge (f : StageFields) (s : State) : Host.Outcome State Fault Refusal :=
  s.runStage 0x2E f fun x o =>
    let cw := modZero f ||| auxZero f
    match codeWin x.h f.b, codeWin x.h f.c with
    | some wt, some wf =>
      let dyn := x.core.dyn[x.fr.slot]
      let i := x.fr.stage - 1
      let br := (dyn.branches[i]?).getD Branch.init
      let ds := (List.range o.a.count).map fun l => boolOf (o.a.lane l)
      match x.replay wt wf ds ⟨[], ⟨0, br.usedTrue, 0⟩, ⟨0, br.usedFalse, 0⟩, [], 0⟩ with
      | .error w => .wait w
      | .ok m =>
        let br' := { br with usedTrue := m.t.used, usedFalse := m.f.used }
        .out { x.value (packed m.lanes o.a.mark) 0 (cw ||| m.cwarn) with
          dyn := { dyn with branches := dyn.branches.setIfInBounds i br' }, reads := m.reads,
          shrinks := (if m.t.done = 0 ∨ !x.core.ordinary wt then [] else [(wt, m.t.done)])
            ++ (if m.f.done = 0 ∨ !x.core.ordinary wf then [] else [(wf, m.f.done)]) }
    | _, _ => .nop (cw ||| cwOPND)

/-! ## Keys (R95) -/

/-- A number that orders keys of a key kind: signed, unsigned, float with every NaN above +infinity; 0b11 acts as signed (R95, R116). -/
def keyOf (kind : Nat) (w : Lane) : Int :=
  match kind with
  | 1 => w.toNat
  | 2 => if isNan w then 2 ^ 40 else orderKey w
  | _ => w.toInt

/-- Whether lanes lo and lo + 2^d of a sorting cell swap (R104). -/
def cmpxSwaps (f : StageFields) (n : Nat) (key : Nat → Int) (lo hi : Nat) : Bool :=
  let b := bv f.aux 0 2 + 1 + bv f.aux 2 2
  let asc := (decide (4 ≤ b) || !(lo.testBit b)) != bitAt f.mod 2
  decide (lo < n) && decide (hi < n) && (if asc then decide (key hi < key lo) else decide (key lo < key hi))

/-- `cmpx` (R104). -/
def execCmpx (f : StageFields) (s : State) : Host.Outcome State Fault Refusal :=
  s.runStage 0x30 f fun x o =>
    let p := if o.b.present then o.b else o.a
    let d := 2 ^ bv f.aux 0 2
    let key (l : Nat) : Int := keyOf (bv f.mod 0 2) (o.a.lane l)
    .out (x.flow o.a.count o.a.mark (modKeyKind f) fun l =>
      if l / d % 2 = 0 then (if cmpxSwaps f o.a.count key l (l + d) then p.lane (l + d) else p.lane l)
      else if cmpxSwaps f o.a.count key (l - d) l then p.lane (l - d) else p.lane l)

/-! ## Compression (R105) -/

/-- The rank of a lane by magnitude: absent lanes lowest, NaN highest. -/
def cprKey (int : Bool) (n : Nat) (lane : Nat → Lane) (l : Nat) : Nat :=
  if n ≤ l then 0
  else if int then 1 + (lane l).toInt.natAbs
  else if isNan (lane l) then 2 ^ 40 else 1 + bv (lane l) 0 35

/-- How many lanes of the group of four rank before lane i of it: a greater magnitude, or an equal one at a lower index. -/
def cprBefore (key : Nat → Nat) (base i : Nat) : Nat :=
  ((List.range 4).filter fun j => decide (key (base + i) < key (base + j)) || (decide (key (base + i) = key (base + j)) && decide (j < i))).length

/-- The two kept lanes of a group, in ascending index. -/
def cprKept (key : Nat → Nat) (base : Nat) : List Nat := (List.range 4).filter fun i => decide (cprBefore key base i < 2)

/-- `cpr` (R105). -/
def execCpr (f : StageFields) (s : State) : Host.Outcome State Fault Refusal :=
  s.runStage 0x31 f fun x o =>
    let key := cprKey (bitAt f.mod 1) o.a.count o.a.lane
    .out (x.flow (2 * ((o.a.count + 3) / 4)) o.a.mark (modBit2 f ||| auxZero f) fun l =>
      let i := ((cprKept key (l / 2 * 4))[l % 2]?).getD 0
      if bitAt f.mod 0 then BitVec.ofNat 36 i else o.a.lane (l / 2 * 4 + i))

/-! ## Markers, gates and counts (R106, R107) -/

/-- `mark` (R106, R116). -/
def execStageMark (f : StageFields) (s : State) : Host.Outcome State Fault Refusal :=
  s.runStage 0x32 f fun x o =>
    let m := if f.mod.toNat ≤ 4 ∧ (!o.b.present || o.b.holds) then f.mod else o.a.mark
    .out (x.flow o.a.count m (modFrom f 5 ||| auxZero f) o.a.lane)

/-- The marker of `strip` (R106). -/
def stripMark (ceiling : Nat) (m : BitVec 3) : BitVec 3 :=
  if ceiling < markRank m then BitVec.ofNat 3 ceiling else if m = markSOT ∧ ceiling = 0 then markNone else m

/-- `strip` (R106). -/
def execStrip (f : StageFields) (s : State) : Host.Outcome State Fault Refusal :=
  s.runStage 0x33 f fun x o => .out (x.flow o.a.count (stripMark (bv f.mod 0 2) o.a.mark) (modBit2 f ||| auxZero f) o.a.lane)

/-- `gate` (R106). -/
def execGate (f : StageFields) (s : State) : Host.Outcome State Fault Refusal :=
  s.runStage 0x34 f fun x o =>
    let cw := modZero f ||| auxAbove f 1
    if o.b.holds then .out (x.flow o.a.count o.a.mark cw o.a.lane)
    else .out (x.value (Beat.blank 0 (if bitAt f.aux 0 then o.a.mark else markNone)) 0 cw)

/-- The number of true lanes below l. -/
def trueBelow (o : Operand) (l : Nat) : Nat := ((List.range l).filter fun i => boolOf (o.lane i)).length

/-- `cnt` (R107). -/
def execCnt (f : StageFields) (s : State) : Host.Outcome State Fault Refusal :=
  s.runStage 0x35 f fun x o =>
    let n := o.a.count
    let cw := modFrom f 3 ||| auxZero f
    match f.mod.toNat with
    | 1 => .out (x.flow 1 o.a.mark cw fun _ => BitVec.ofNat 36 (trueBelow o.a n))
    | 2 => .out (x.flow n o.a.mark cw fun l => BitVec.ofNat 36 (trueBelow o.a l))
    | _ => .out (x.flow 1 o.a.mark cw fun _ => BitVec.ofNat 36 n)

/-! ## Lane shuffles (R108) -/

/-- Lane i of A, or 0 at and above its COUNT. -/
def Operand.source (o : Operand) (i : Nat) : Lane := if i < o.count then o.lane i else 0

/-- `bcast` (R108). -/
def execBcast (f : StageFields) (s : State) : Host.Outcome State Fault Refusal :=
  s.runStage 0x36 f fun x o =>
    let i := if o.b.present then bv (o.b.lane 0) 0 4 else f.aux.toNat
    .out (x.flow o.a.count o.a.mark (modZero f) fun _ => o.a.source i)

/-- `shuf` (R108). -/
def execShuf (f : StageFields) (s : State) : Host.Outcome State Fault Refusal :=
  s.runStage 0x37 f fun x o =>
    let n := f.aux.toNat
    let from_ (l : Nat) : Nat := match f.mod.toNat with
      | 1 => (l + n) % 16
      | 2 => l ^^^ n
      | 3 => 15 - l
      | _ => if l < o.b.count then bv (o.b.lane l) 0 4 else 0
    .out (x.flow o.a.count o.a.mark (modFrom f 4) fun l => o.a.source (from_ l))

/-- `pack` (R108). -/
def execPack (f : StageFields) (s : State) : Host.Outcome State Fault Refusal :=
  s.runStage 0x38 f fun x o =>
    let kept := ((List.range o.a.count).filter fun l => boolOf (o.b.lane l)).map o.a.lane
    .out (x.value (packed kept o.a.mark) 0 (modZero f ||| auxZero f))

/-- `unpack` (R108). -/
def execUnpack (f : StageFields) (s : State) : Host.Outcome State Fault Refusal :=
  s.runStage 0x39 f fun x o =>
    .out (x.flow o.b.count o.a.mark (modZero f ||| auxZero f) fun l =>
      if boolOf (o.b.lane l) then o.a.source (trueBelow o.b l) else if o.c.present then o.c.lane l else 0)

end Sys2Proof.Machine
end

