-- ==== Sys2Proof/Machine/Join.lean ====
section
/-! DEFINITION. `join` (05 R99-R103, R116): two sorted inputs are stepped by an action word. Positions count valid lanes from lane 0 of the
beat at offset 0 of the input's window. -/

namespace Sys2Proof.Machine

/-- A beat of an input: the position of its first lane, COUNT, marker, the store words it was read from, and the warning of a fallback. -/
structure JoinBeat where
  start : Nat
  beat : Beat
  reads : List (Nat × Win)
  cwarn : Lane
  deriving DecidableEq, Repr

/-- The beats of a window from offset i on, as far as they are filled: at most n, of which extra may be the zero beats that stand for
elements outside the window (R54, R96). A `join` reads such beats as far as its steps can go, so that it never waits for one. -/
def StageCtx.scan (x : StageCtx) (w : Win) (pos i extra : Nat) : Nat → List JoinBeat
  | 0 => []
  | n + 1 =>
    match x.elem w i with
    | .waits => []
    | .there a => let b := x.core.beatAt a; ⟨pos, b, beatReads w a, 0⟩ :: x.scan w (pos + b.count) (i + 1) extra n
    | .zero cw => if extra = 0 then [] else ⟨pos, Beat.blank 16 markNone, [], cw⟩ :: x.scan w (pos + 16) (i + 1) (extra - 1) n

/-- The ending beat of an input (R101): its position, the highest rank of its group up to it, and how many beats there are through it. g is the
open boundary group: position and highest rank; i counts the beats passed. -/
def endingBeat (mark endRank : Nat) : List JoinBeat → Nat → Option (Nat × Nat) → Option (Nat × Nat × Nat)
  | [], _, _ => none
  | b :: bs, i, g =>
    let r := markRank b.beat.mark
    let g := if b.beat.count ≠ 0 ∨ (r = 0 ∧ b.beat.mark ≠ markNone) then none else g
    if r = 0 then endingBeat mark endRank bs (i + 1) g
    else
      let p := b.start + b.beat.count
      let g' : Nat × Nat := match g with | some (q, k) => (q, max k r) | none => (p, r)
      if mark ≤ g'.1 ∧ endRank ≤ g'.2 then some (g'.1, g'.2, i + 1) else endingBeat mark endRank bs (i + 1) (some g')

/-- One input while a firing steps it. -/
structure JoinSide where
  w : Win
  beats : List JoinBeat
  ending : Option (Nat × Nat × Nat)
  cur : Nat
  mark : Nat
  /-- lanes below it have been reached -/
  high : Nat
  last : Option Lane
  /-- ordinal of position 0 -/
  base : Nat
  /-- beats used so far -/
  need : Nat
  deriving DecidableEq, Repr

/-- An input that has ended, and whose ending beat was shrunk since because it lay wholly before the mark (R101): it stays ended, and keeps the
highest rank of its end group so far, until the other input has ended too (log 11). -/
def JoinInput.endingGone (st : JoinInput) : Bool := st.ended && st.groupRank != 0

/-- An input as its branch state and its window give it. -/
def StageCtx.side (x : StageCtx) (w : Win) (st : JoinInput) (endRank : Nat) : JoinSide :=
  let cur := st.markLane + st.cursor
  let extra := cur / 16 + 4
  let beats := x.scan w 0 0 extra (1026 + extra)
  { w := w, beats := beats, ending := if st.endingGone then some (0, st.groupRank, 0) else endingBeat st.markLane endRank beats 0 none,
    cur := cur, mark := st.markLane, high := st.markLane + st.highWater, last := st.lastKey,
    base := st.ordinalBase + 1024 - st.markLane % 1024, need := 0 }

/-- The index of the beat that holds a position, and the lane there. -/
def laneAt : List JoinBeat → Nat → Nat → Option (Nat × Lane)
  | [], _, _ => none
  | b :: bs, i, p =>
    if b.start ≤ p ∧ p < b.start + b.beat.count then some (i, b.beat.lanes[p - b.start]?.getD 0) else laneAt bs (i + 1) p

/-- Whether an input is ended (R101); none while the next beat is needed to tell. -/
def JoinSide.ended (v : JoinSide) : Option Bool :=
  match v.ending with
  | some (p, _, _) => if p ≤ v.cur then some true else if (laneAt v.beats 0 v.cur).isSome then some false else none
  | none => if (laneAt v.beats 0 v.cur).isSome then some false else none

/-- The head key, for an input that is not ended. -/
def JoinSide.key (v : JoinSide) : Lane := ((laneAt v.beats 0 v.cur).map (·.2)).getD 0

/-- Note which beats the head or the end has used. -/
def JoinSide.use (v : JoinSide) : JoinSide :=
  let n := match v.ended, v.ending with
    | some true, some (_, _, i) => i
    | _, _ => ((laneAt v.beats 0 v.cur).map (·.1 + 1)).getD 0
  { v with need := max v.need n }

/-- Reaching the head key for the first time: the input, and whether the key is out of order (R103). -/
def JoinSide.reach (v : JoinSide) (kind : Nat) (dup : Bool) : JoinSide × Bool :=
  if v.cur < v.high then (v, false)
  else
    let k := v.key
    let bad := match v.last with
      | none => false
      | some l => decide (keyOf kind k < keyOf kind l) || (decide (keyOf kind k = keyOf kind l) && !dup)
    ({ v with high := v.cur + 1, last := some k }, bad)

/-- The ordinal of the head (R102). -/
def JoinSide.ordinal (v : JoinSide) : Nat := (v.base + v.cur) % 1024

/-- An action on an input (R100): reuse, step, discard, reset. On an ended input step and discard do nothing. -/
def JoinSide.act (v : JoinSide) (ended : Bool) (action : Nat) : JoinSide :=
  match action with
  | 0 => v
  | 1 => if ended then v else { v with cur := v.cur + 1 }
  | 2 => if ended then v else { v with cur := v.cur + 1, mark := v.cur + 1 }
  | _ => { v with cur := v.mark }

/-- An action leaves the input as it is (R116). -/
def JoinSide.stays (v : JoinSide) (ended : Bool) (action : Nat) : Bool := ended || action == 0 || (action == 3 && v.cur == v.mark)

/-- What a firing of a join has come to. -/
structure JoinRun where
  l : JoinSide
  r : JoinSide
  emitted : List Lane
  cwarn : Lane
  /-- a key out of order under STRICT, and its window -/
  fault : Option (Lane × Win)
  deriving DecidableEq, Repr

/-- The fields of a join. -/
structure JoinCode where
  kind : Nat
  dup : Bool
  word : Nat
  action : Lane
  strict : Bool
  deriving DecidableEq, Repr

/-- The emitted word (R102): outcome 0 lt, 1 eq, 2 gt. -/
def joinWord (k : JoinCode) (l r : JoinSide) (el er : Bool) (outcome : Nat) : Lane :=
  let kl := if el then 0 else l.key
  let kr := if er then 0 else r.key
  match k.word with
  | 0 => if outcome = 2 then kr else kl
  | 1 => kl
  | 2 => kr
  | _ => BitVec.ofNat 36 ((if el then 1023 else l.ordinal) + (if er then 1023 else r.ordinal) * 2 ^ 10 + outcome * 2 ^ 20)

/-- The outcome of comparing the head keys; the key of an ended input is above every key. -/
def joinOutcome (k : JoinCode) (l r : JoinSide) (el er : Bool) : Nat :=
  if el then 2 else if er then 0
  else if keyOf k.kind l.key < keyOf k.kind r.key then 0 else if keyOf k.kind l.key = keyOf k.kind r.key then 1 else 2

/-- The steps of a firing (R101): at most n more. The window that a key is needed from, where the firing must hold. DESIGN CHOICE (log 98): where
both head keys are out of order in one step under STRICT (R103), the left key is the one reported, and the right one is not checked. -/
def joinSteps (k : JoinCode) : Nat → JoinRun → Except Win JoinRun
  | 0, j => .ok j
  | n + 1, j =>
    if 16 ≤ j.emitted.length then .ok j
    else match j.l.ended, j.r.ended with
    | none, _ => .error j.l.w
    | _, none => .error j.r.w
    | some true, some true => .ok { j with l := j.l.use, r := j.r.use }
    | some el, some er =>
      let (l, badL) := if el then (j.l.use, false) else j.l.use.reach k.kind k.dup
      if badL && k.strict then .ok { j with l := l, cwarn := j.cwarn ||| cwJKEY, fault := some (l.key, l.w) }
      else
      let (r, badR) := if er then (j.r.use, false) else j.r.use.reach k.kind k.dup
      let cw := j.cwarn ||| (if badL || badR then cwJKEY else 0)
      if badR && k.strict then .ok { j with l := l, r := r, cwarn := cw, fault := some (r.key, r.w) }
      else
      let o := joinOutcome k l r el er
      let out := if bitAt k.action (12 + o) then j.emitted ++ [joinWord k l r el er o] else j.emitted
      let al := bv k.action (4 * o) 2
      let ar := bv k.action (4 * o + 2) 2
      let stuck := l.stays el al && r.stays er ar
      let al' := if stuck && o != 2 then 2 else al
      let ar' := if stuck && o == 2 then 2 else ar
      joinSteps k n { j with l := l.act el al', r := r.act er ar', emitted := out, cwarn := cw ||| (if stuck then cwMODX else 0) }

/-- Leading beats that lie wholly before the mark (R101): a beat of COUNT 0 when a lane before the mark follows it (log 11). -/
def beforeMark (mark : Nat) : List JoinBeat → Nat
  | [] => 0
  | b :: bs =>
    if (b.beat.count ≠ 0 ∧ b.start + b.beat.count ≤ mark) ∨ (b.beat.count = 0 ∧ b.start < mark) then beforeMark mark bs + 1 else 0

/-- The branch state of an input after a firing that did not end both inputs, and the beats freed. An input that has ended stays so; when its
ending beat is among the beats freed, its end group is open, and the rank of that group is kept (log 11). DESIGN CHOICE (log 99): on a parameter or
an unbound window, whose shrink does nothing, the beats before the mark count as freed all the same, so that the mark comes back to the beat at
offset 0; no warning. DESIGN CHOICE (log 125): on an ordinary window the zero beats beyond the capacity that lie before the mark count among the
beats freed, so that the shrink leaves them as a DEBT; and positions have no bound here, though a save keeps 15 bits of them (R279). -/
def JoinSide.leave (v : JoinSide) : JoinInput × Nat :=
  let n := beforeMark v.mark v.beats
  let lanes := ((v.beats.take n).map (·.beat.count)).sum
  let isOver := v.ended == some true
  let gone := match v.ending with
    | some (_, r, k) => if isOver && decide (k ≤ n) then some (r, k) else none
    | none => none
  ({ cursor := v.cur - v.mark, highWater := v.high - v.mark, markLane := v.mark - lanes, ordinalBase := (v.base + v.mark) % 1024,
     ended := isOver, lastKey := v.last, groupOpen := gone.any fun g => g.2 != 0, groupRank := (gone.map (·.1)).getD 0 }, n)

def JoinSide.reads (v : JoinSide) : List (Nat × Win) := (v.beats.take v.need).flatMap (·.reads)
def JoinSide.cwarn (v : JoinSide) : Lane := orAll ((v.beats.take v.need).map (·.cwarn))

/-- Some shrinks, without those of no element or of a window that is not shrunk. -/
def StageCtx.shrinksOf (x : StageCtx) (l : List (Win × Nat)) : List (Win × Nat) := l.filter fun (w, n) => n != 0 && x.core.ordinary w

/-- What a firing finds at the head of an input before its first step (R101): the rank of a continuation of the open end group, none where the head
is no continuation; the store words read; the warning of a beat that is not there. -/
structure JoinHead where
  rank : Option Nat
  reads : List (Nat × Win)
  cwarn : Lane
  deriving DecidableEq, Repr

/-- The head beat of an input, read before the first step of each firing in indexed fashion (R96, R101); the window that it waits for. -/
def StageCtx.head (x : StageCtx) (w : Win) (st : JoinInput) : Except Win JoinHead :=
  match x.elem w 0 with
  | .waits => .error w
  | .there a =>
    let b := x.core.beatAt a
    .ok ⟨if st.groupOpen && b.count == 0 && decide (0 < markRank b.mark) then some (markRank b.mark) else none, beatReads w a, 0⟩
  | .zero cw => .ok ⟨none, [], cw⟩

/-- A firing of a join whose inputs both read as beats (R101 to R103). An input that has ended keeps the rank read up to its ending beat, whatever
continuation is freed while the other input runs (log 11). -/
def StageCtx.joinFiring (x : StageCtx) (wl wr : Win) (br : Branch) (k : JoinCode) (endRank : Nat) (cwarn : Lane) : StageRes :=
  let dyn := x.core.dyn[x.fr.slot]
  let put (b : Branch) : SlotDyn := { dyn with branches := dyn.branches.setIfInBounds (x.fr.stage - 1) b }
  match x.head wl br.left, x.head wr br.right with
  | .error w, _ => .wait w
  | _, .error w => .wait w
  | .ok hl, .ok hr =>
    let cwarn := cwarn ||| hl.cwarn ||| hr.cwarn
    let heads := hl.reads ++ hr.reads
    if hl.rank.isSome || hr.rank.isSome then
      let r := max (hl.rank.getD 0) (hr.rank.getD 0)
      let up := decide (br.lastEnd < r)
      let keep (st : JoinInput) (c : Option Nat) : JoinInput :=
        match c with
        | some q => if st.ended then st else { st with groupRank := max st.groupRank q }
        | none => { st with groupOpen := false }
      .out { x.value (Beat.blank 0 (if up then BitVec.ofNat 3 r else markNone)) 0 cwarn with
        dyn := put { br with left := keep br.left hl.rank, right := keep br.right hr.rank, lastEnd := if up then r else br.lastEnd },
        shrinks := x.shrinksOf [(wl, b2n hl.rank.isSome), (wr, b2n hr.rank.isSome)], reads := heads }
    else
      match joinSteps k 32 ⟨x.side wl br.left endRank, x.side wr br.right endRank, [], cwarn, none⟩ with
      | .error w => .wait w
      | .ok j =>
        let finish (marker : BitVec 3) (br' : Branch) (freed : List (Win × Nat)) (j : JoinRun) : StageRes :=
          .out { x.value (packed j.emitted marker) 0 (j.cwarn ||| j.l.cwarn ||| j.r.cwarn) with
            dyn := put br', shrinks := x.shrinksOf freed, setMask := j.fault.isSome, reads := heads ++ j.l.reads ++ j.r.reads, keyFault := j.fault }
        let open_ : StageRes :=
          let (l, n) := j.l.leave
          let (r, m) := j.r.leave
          finish markNone { br with left := l, right := r } [(wl, n), (wr, m)] j
        if j.fault.isSome then open_
        else match j.l.ended, j.r.ended with
          | some false, _ => open_
          | _, some false => open_
          | none, _ => .wait wl
          | _, none => .wait wr
          | some true, some true =>
            match j.l.ending, j.r.ending with
            | some (_, rl, il), some (_, rr, ir) =>
              let r := max rl rr
              let after (q : Nat) : JoinInput := { JoinInput.init with groupOpen := true, groupRank := q }
              finish (BitVec.ofNat 3 r) { br with left := after rl, right := after rr, lastEnd := r } [(wl, il), (wr, ir)]
                { j with l := j.l.use, r := j.r.use }
            | _, _ => open_

/-- `join` (R100 to R103, R116). DESIGN CHOICE (log 126): one that executes as `nop` still sets MODX and AUXX for
the codes of its own fields. -/
def execJoin (f : StageFields) (s : State) : Host.Outcome State Fault Refusal :=
  s.runStage 0x2F f fun x _ =>
    let e := bv f.aux 2 2
    let codes := modKeyKind f ||| (if e = 0 then cwAUXX else 0)
    match codeWin x.h f.a, codeWin x.h f.b with
    | some wl, some wr =>
      if x.core.narrow wl || x.core.narrow wr then .nop (codes ||| cwOPND)
      else
        let isConst := decide (16 ≤ f.c.toNat) && decide (f.c.toNat < 24)
        let action := if isConst then x.core.kActive[f.c.toNat - 16]?.getD 0 else 0
        let cw := codes ||| (if isConst then 0 else cwOPND)
        let br := ((x.core.dyn[x.fr.slot]).branches[x.fr.stage - 1]?).getD Branch.init
        x.joinFiring wl wr br ⟨bv f.mod 0 2, bitAt f.mod 2, bv f.aux 0 2, action, h0Strict x.h⟩ (if e = 0 then 2 else e) cw
    | _, _ => .nop (codes ||| cwOPND)

end Sys2Proof.Machine
end

