-- ==== Sys2Proof/Machine/WindowStage.lean ====
section
/-! DEFINITION. The window stages `wupd`, `wfill`, `shrink` and `wcnt` (05 R109-R114, R116). -/

namespace Sys2Proof.Machine

/-- The new element of a `wupd` (R110): for the reserved MOD 7 the old one, which is not written. -/
def wupdOp (mod : Nat) (old v : Lane) : Flagged :=
  match mod with
  | 0 => ⟨v, 0⟩
  | 1 => satm .wrap (old.toInt + v.toInt)
  | 2 => satm .sat32 (old.toInt + v.toInt)
  | 3 => satm .sat36 (old.toInt + v.toInt)
  | 4 => faddOp .rne old v
  | 5 => ⟨if old.toInt < v.toInt then v else old, 0⟩
  | 6 => ⟨fmaxOp old v, 0⟩
  | _ => ⟨old, 0⟩

/-- The store address that lane l of a target addresses (R110). -/
inductive Target where
  | addr (a : Nat)
  | nothing (cwarn : Lane)
  | waits
  deriving DecidableEq, Repr

/-- The offset that lane l of a tap addresses; none where it has none (R53, R110). -/
def StageCtx.laneOffset (x : StageCtx) (t : Tap) (l : Nat) : Option Int :=
  let wide := wdBeat (x.core.desc t.win)
  match t.mode with
  | 2 =>
    if t.off / 128 < 1 ∨ 5 < t.off / 128 ∨ x.fr.stage ≤ t.off / 128 then none
    else some (((t.off % 128 : Nat) : Int) + (((x.stageValue (t.off / 128)).getD (Beat.blank 16 markNone)).lanes[l]?.getD 0).toInt)
  | 1 => some ((t.off + x.fr.iter + (if wide then 0 else l) : Nat) : Int)
  | _ => some ((t.off + (if wide then 0 else l) : Nat) : Int)

/-- Where lane l of a target stands (R110). -/
def StageCtx.target (x : StageCtx) (t : Tap) (l : Nat) : Target :=
  if !wdBound (x.core.desc t.win) then .nothing cwTUNB
  else match x.laneOffset t l with
    | none => .nothing 0
    | some o =>
      if o < 0 then .nothing cwTRANGE
      else match x.elem t.win o.toNat with
        | .there a => .addr (if wdBeat (x.core.desc t.win) then a + l else a)
        | .waits => .waits
        | .zero cw => .nothing cw

/-- What the lanes of a `wupd` have come to: the words written, newest first, the old words, flags and warnings. -/
structure Updated where
  writes : List (Nat × Lane)
  old : List Lane
  flags : Lane
  cwarn : Lane
  reads : List (Nat × Win)
  deriving DecidableEq, Repr

/-- The word at an address after some writes, newest first. -/
def Core.wordAfter (c : Core) (writes : List (Nat × Lane)) (a : Nat) : Lane :=
  match writes.find? fun p => p.1 == a with
  | some p => p.2
  | none => c.loadWord a

/-- The lanes of a `wupd` one after another (R111); the wait of a lane whose element is not filled. -/
def StageCtx.updateLanes (x : StageCtx) (t : Tap) (mod : Nat) (a v : Nat → Lane) : List Nat → Updated → Except Win Updated
  | [], u => .ok u
  | l :: ls, u =>
    match x.target t l with
    | .waits => .error t.win
    | .nothing cw => x.updateLanes t mod a v ls { u with old := u.old ++ [a l], cwarn := u.cwarn ||| cw }
    | .addr p =>
      let old := x.core.wordAfter u.writes p
      let r := wupdOp mod old (v l)
      x.updateLanes t mod a v ls
        { writes := (p, r.val) :: u.writes, old := u.old ++ [old], flags := u.flags ||| r.flags, cwarn := u.cwarn,
          reads := (p, t.win) :: u.reads }

/-- `wupd` (R110, R111). -/
def execWupd (f : StageFields) (s : State) : Host.Outcome State Fault Refusal :=
  s.runStage 0x3A f fun x o =>
    match tapCode f.a with
    | none => .nop (auxZero f ||| cwOPND)
    | some j =>
      let l := [o.a, o.b]
      let n := countOf l
      let cw := auxZero f ||| modFrom f 7 ||| cntmOf l
      match x.updateLanes (tapOf x.h j) f.mod.toNat o.a.lane o.b.lane (List.range n) ⟨[], [], 0, 0, []⟩ with
      | .error w => .wait w
      | .ok u =>
        .out { x.flow n (markOf l) (cw ||| u.cwarn) (fun i => u.old[i]?.getD 0) with
          writes := if f.mod = 7 then [] else u.writes.reverse, flags := u.flags, reads := u.reads }

/-- `wfill` (R112). -/
def execWfill (f : StageFields) (s : State) : Host.Outcome State Fault Refusal :=
  s.runStage 0x3B f fun x o =>
    let v := x.flow o.a.count o.a.mark (modZero f) o.a.lane
    .out { v with outs := [(.win (Fin.ofNat 16 f.aux.toNat), v.val)] }

/-- The count of a `shrink` with B present (R113), with its warning. -/
def shrinkCount (b : Operand) : Nat × Lane :=
  if b.count = 0 then (0, 0)
  else
    let n := (b.lane 0).toInt
    if n < 0 then (0, cwTRANGE) else if 1024 < n then (1024, cwTRANGE) else (n.toNat, 0)

/-- `shrink` (R113). With B none the shrink has been pending since issue (R40), and takes effect with the others after stage 6. Like `wupd` and
`wcnt`, one that executes as `nop` still sets MODX and AUXX for its own fields (log 126). -/
def execShrink (f : StageFields) (s : State) : Host.Outcome State Fault Refusal :=
  s.runStage 0x3C f fun x o =>
    match codeWin x.h f.a with
    | none => .nop (modZero f ||| cwOPND)
    | some w =>
      let d := x.core.desc w
      let bind := if !wdBound d then cwTUNB else if wdParam d then cwTRANGE else 0
      let v := x.value (Beat.blank 0 markNone) 0 (modZero f ||| bind)
      if o.b.present then
        let (n, cw) := shrinkCount o.b
        .out { v with shrinks := x.shrinksOf [(w, n)], cwarn := v.cwarn ||| cw }
      else .out v

/-- `wcnt` (R114). -/
def execWcnt (f : StageFields) (s : State) : Host.Outcome State Fault Refusal :=
  s.runStage 0x3D f fun x _ =>
    let cw := modZero f ||| auxZero f
    match codeWin x.h f.a with
    | none => .nop (cw ||| cwOPND)
    | some w =>
      let d := x.core.desc w
      if !wdBound d then .out (x.flow 5 markNone (cw ||| cwTUNB) fun _ => 0)
      else .out (x.flow 5 markNone cw fun l => match l with
        | 0 => (x.core.win w).shrunk + BitVec.ofNat 36 (x.core.pendingOf x.index w)
        | 1 => BitVec.ofNat 36 (wdCap d)
        | 2 => BitVec.ofNat 36 (wdBase d)
        | 3 => laneOfBool (wdBeat d)
        | _ => laneOfBool (wdParam d))

end Sys2Proof.Machine
end

