-- ==== Sys2Proof/Machine/Firing.lean ====
section
/-! DEFINITION. Handler selection, what an issue leaves, and completion of firings (03 R39-R41, R55, R57; 06 R134, R135; 10 R267; 18 R350). The
issue itself stands in Issue.lean. -/

namespace Sys2Proof.Machine

/-! ## Lanterns (R350, R351) -/

/-- A region's pipelines that hold a lantern. -/
def State.litCount (s : State) (r : Region) : Nat := (r.cores.filter fun n => (s.core n).lit).length

/-- A heavy firing stands in the pipeline. -/
def Core.heavyInPipe (c : Core) : Bool := c.pipe.any fun f => heavyRec c.active[f.slot]

/-! ## Readiness (R40) -/

/-- The taps that a record reads as values, of stages that run. -/
def valueTaps (h : HandlerRec) : List Tap :=
  ((allWords h).filter stageRuns).flatMap fun w =>
    (codesOf w).filterMap fun (code, use) =>
      if use = .yes ∨ use = .optional then (tapCode code).map (tapOf h) else none

/-- Some stage names tap j for a use that passes a test. -/
def namesTap (h : HandlerRec) (p : Use → Bool) (j : Nat) : Bool :=
  (allWords h).any fun w => (codesOf w).any fun (code, use) => p use && tapCode code == some j

/-- The taps whose offset R56 checks: each of the eight but those that stages name as a window only, of which OFF and MODE are ignored (R96); one that
no stage reads as well (log 103). -/
def checkedTaps (h : HandlerRec) : List Tap :=
  ((List.range 8).filter fun j => namesTap h (fun u => u == .yes || u == .optional) j || !namesTap h (· == .window) j).map (tapOf h)

/-- A fixed or iteration tap is satisfiable (R40); an offset outside the window reads zeros and never waits (R54). -/
def Core.tapReady (c : Core) (iter : Nat) (t : Tap) : Bool :=
  let d := c.desc t.win
  if t.mode = 2 || !wdBound d || wdParam d then true
  else
    let top := t.off + (if t.mode = 1 then iter else 0) + (if wdBeat d then 0 else 15)
    decide (wdCap d ≤ top) || decide (top < c.visible t.win)

/-- No active guard holds the handler back (R267). -/
def Core.guardsAllow (c : Core) (h : HandlerRec) : Bool :=
  let w := h0Trig h
  c.guards.toList.all fun g =>
    !(lgActive g && lgAdmit g == w.val) ||
      decide (lgOcc g + (c.pipe.map fun f => shrinkSum f.fixedShrinks w + shrinkSum f.shrinks w).sum + (c.win w).debt + h11Shrink h
        ≤ lgLimit g)

/-- A slot is ready but for a lantern (R40, R52, R120, R135, R267). -/
def Core.readyBut (c : Core) (slot : Fin 8) : Bool :=
  let h := c.active[slot]
  h0Valid h && !h0Mask h && !c.stop && (match c.openGraph with | none => true | some g => g == h0Graph h)
    && decide (h0Min h ≤ c.visible (h0Trig h)) && decide (h11Shrink h ≤ c.visible (h0Trig h))
    && (valueTaps h).all (c.tapReady c.dyn[slot].iter) && c.guardsAllow h

/-- A firing in the pipeline will yet free elements, by a count that is not fixed at issue, of a window whose visible count makes a handler ready:
R39 has its issue wait until that count has taken effect (log 101). -/
def Core.unsettled (c : Core) (slot : Fin 8) : Bool :=
  let h := c.active[slot]
  (h0Trig h :: ((valueTaps h).filter fun t => t.mode != 2).map (·.win)).any c.lateShrink

/-- The first stage has room for a firing, and the pipeline for six. -/
def Core.stageOneFree (c : Core) : Bool := decide (c.pipe.length < 6) && c.pipe.all fun f => decide (2 ≤ f.stage)

/-- The core of a region that is stopping for a pre-emption or a checkpoint issues nothing (R269, R272). -/
def State.coreStopping (s : State) (n : Nat) : Bool := match s.regionOfCore n with | some r => r.freezing || r.frozen | none => true

/-- The issue slot of the present cycle is free (R134, R137). -/
def Core.slotFree (c : Core) (now : Nat) : Bool := c.slotCycle != some now

/-- Of the slots that pass a test, the one of highest PRIO, and the least recently fired among equals (R134). -/
def Core.selectBy (c : Core) (p : Fin 8 → Bool) : Option (Fin 8) :=
  c.lru.foldl (fun best k =>
    if p k then
      match best with
      | none => some k
      | some b => if h0Prio c.active[b] < h0Prio c.active[k] then some k else best
    else best) none

/-- The pipeline waits to issue a heavy firing: it would issue one now if it had a lantern. -/
def State.wantsLantern (s : State) (n : Nat) : Bool :=
  let c := s.core n
  !c.lit && !s.coreStopping n && c.stageOneFree && c.slotFree s.now
    && match c.selectBy c.readyBut with | some k => heavyRec c.active[k] && !c.unsettled k | none => false

/-- How far core number k comes after the last pipeline served, in the round of R350. -/
def roundAfter (size last k : Nat) : Nat := (k + size - last % max size 1 - 1) % max size 1

/-- A pipeline holds a lantern or may take one now: the pool has a free one. Where the pool has been empty and pipelines wait since, there is one for it
behind those that come earlier in the round (R350). -/
def State.lanternFor (s : State) (n : Nat) : Bool :=
  (s.core n).lit ||
    match s.regionOfCore n with
    | none => false
    | some r =>
      let free := r.pool - s.litCount r
      let size := r.w * r.h
      let place (m : Nat) : Nat := roundAfter size r.lanternLast ((coreY m - r.y) * r.w + (coreX m - r.x))
      decide (0 < free) && (!r.lanternShort ||
        decide ((r.cores.filter fun m => decide (place m < place n) && s.wantsLantern m).length < free))

/-- A slot is ready (R40). -/
def State.ready (s : State) (n : Nat) (slot : Fin 8) : Bool :=
  let c := s.core n
  c.readyBut slot && (!heavyRec c.active[slot] || s.lanternFor n)

/-- The slot that the core selects: the highest PRIO, and the least recently fired among equals (R134). -/
def State.select (s : State) (n : Nat) : Option (Fin 8) := (s.core n).selectBy (s.ready n)

/-! ## Issue -/

/-- The head beat of a beat-wide trigger, as read at issue, with its first store address (R55, R135). -/
def Core.headBeat (c : Core) (h : HandlerRec) : Option (Beat × Nat) :=
  let w := h0Trig h
  let d := c.desc w
  if wdBound d && wdBeat d then
    let a := c.elemAddr w (if wdParam d then 0 else c.pendingOf c.pipe.length w)
    some (c.beatAt a, a)
  else none

/-- The header warnings of a record (R58). -/
def headerWarn (c : Core) (h : HandlerRec) : Lane :=
  let d := c.desc (h0Trig h)
  if bv h[0] 0 5 ≠ 0 ∨ bv h[11] 0 8 ≠ 0 ∨ bv h[0] 6 11 = 0 ∨ (h11Xrank h ≠ 0 ∧ !(wdBound d && wdBeat d)) then cwHDR else 0

/-- The boundary group of the head beats of a trigger window, as the handler that read one last keeps it (R33). -/
def Core.triggerGroup (c : Core) (w : Win) : GroupState :=
  match c.lru.reverse.find? fun k => h0Trig c.active[k] == w with
  | some k => c.dyn[k].exitGroup
  | none => ⟨false, 0, false⟩

/-- A beat closes a graph: it has a marker of rank 2 or more, and is the first such beat of its boundary group, which counts as one boundary (R33,
R135; log 150). -/
def GroupState.closes (g : GroupState) (b : Beat) : Bool :=
  decide (2 ≤ markRank b.mark) && !(b.count == 0 && g.isOpen && decide (2 ≤ g.rank))

/-- The open graph after an issue (R135), where grp is the boundary group before the head beat. -/
def graphAfter (open_ : Option (BitVec 2)) (g : BitVec 2) (grp : GroupState) (head : Option Beat) : Option (BitVec 2) :=
  match head with
  | none => open_
  | some b =>
    match open_ with
    | none => if b.mark = markSOT then some g else none
    | some o => if o = g ∧ grp.closes b = true then none else open_

/-- The exit of a firing (R55, R33): the boundary group after the head beat, and whether the firing exits. -/
def exitAfter (g : GroupState) (xrank : Nat) (head : Option Beat) : GroupState × Bool :=
  match head with
  | none => (g, false)
  | some b =>
    let g' := g.after b.count b.mark
    let exits := decide (xrank ≠ 0) && g'.meets b.mark xrank
    ({ g' with reduced := g'.reduced || exits }, exits)

/-- The iteration counter that an issue leaves (R55). -/
def iterAfter (iter ilim : Nat) (exits : Bool) : Nat := if exits ∨ iter + 1 = ilim then 0 else (iter + 1) % 1024

/-- Issue one firing of a slot, which reads a head beat where it can (R39, R55, R134, R135). -/
def Core.issue (c : Core) (slot : Fin 8) (now : Nat) (head : Option Beat) (hold : Option Hold) : Core :=
  let h := c.active[slot]
  let dyn := c.dyn[slot]
  let (grp, exits) := exitAfter dyn.exitGroup (h11Xrank h) head
  let fr : Firing :=
    { slot := slot, iter := dyn.iter, stage := 1, sent := 0, vals := Vector.replicate 6 none, fixedShrinks := fixedShrinksOf c h, shrinks := [],
      aflg := 0, cwarn := headerWarn c h, exits := exits, setMask := exits && h11Xmask h, hold := hold }
  { c with
    pipe := c.pipe ++ [fr]
    dyn := c.dyn.set slot { dyn with iter := iterAfter dyn.iter (h11Ilim h) exits, exitGroup := grp }
    openGraph := graphAfter c.openGraph (h0Graph h) (c.triggerGroup (h0Trig h)) head
    lru := c.lru.filter (· != slot) ++ [slot]
    lit := c.lit || heavyRec h
    slotCycle := some now
    lastActive := now
    probeSent := false }

/-- The pipeline takes the place of its region's round (R350). -/
def State.takeLantern (s : State) (n : Nat) : State :=
  match s.regionOfCore n with
  | some r => s.setRegion { r with lanternLast := (coreY n - r.y) * r.w + (coreX n - r.x) }
  | none => s

/-- The lantern goes back in a cycle after the last heavy firing completed, in which none issues (R350). -/
def Core.returnLantern (c : Core) (now : Nat) : Core :=
  if c.lit && !c.heavyInPipe && decide (c.heavyDone < now) then { c with lit := false } else c

def State.returnLantern (s : State) (n : Nat) : State := s.setCore n ((s.core n).returnLantern s.now)

/-- Whether a pool's lanterns are given in turn after the present cycle: it is empty, or it has been and pipelines wait still (R350). -/
def State.shortAfter (s : State) (r : Region) : Bool := decide (r.pool ≤ s.litCount r) || (r.lanternShort && r.cores.any s.wantsLantern)

/-- The present cycle ends, and dt - 1 cycles after it pass with no issue: lanterns go back (R350). -/
def State.returnLanterns (s : State) (dt : Nat) : State :=
  if dt = 0 then s
  else { s with
    regions := s.regions.map fun r => { r with lanternShort := s.shortAfter r }
    cores := sparseMap (fun c : Core => c.returnLantern (s.now + dt - 1)) s.cores }

/-! ## Completion -/

/-- The shrinks of a firing, which add up for each window in whatever order (R41). -/
def Core.applyShrinks (c : Core) : List (Win × Nat) → Core
  | [] => c
  | (w, n) :: rest => (c.shrinkWin w n true).applyShrinks rest

/-- The oldest firing completes (R41): its shrinks, MASK, AFLG and CWARN. -/
def Core.complete (c : Core) (fr : Firing) (rest : List Firing) (now : Nat) : Core :=
  let heavy := heavyRec c.active[fr.slot]
  let c := ({ c with pipe := rest }).applyShrinks (fr.shrinks ++ fr.fixedShrinks)
  { c with heavyDone := if heavy then now else c.heavyDone, aflg := c.aflg ||| fr.aflg, cwarn := c.cwarn ||| fr.cwarn,
           active := if fr.setMask then c.active.set fr.slot (HandlerRec.setMask c.active[fr.slot] true) else c.active }

/-- FIRING_COMPLETE (R41): the oldest firing, once its six stages have run. -/
def execFiringComplete (core : Nat) (s : State) : Host.Outcome State Fault Refusal :=
  let c := s.core core
  if s.coreFrozen core then .next s
  else match c.pipe with
    | fr :: rest => if fr.stage = 7 then .next (s.setCore core (c.complete fr rest s.now)) else .next s
    | [] => .next s

end Sys2Proof.Machine
end

