-- ==== Sys2Proof/Machine/SeqWord.lean ====
section
/-! DEFINITION. Issuing a word of a block (08 R180, R182, R183, R186, R187): its waits, its traps, its working registers and its queued
effects; the warnings of SWARN (R214, R215); scopes (R207). -/

namespace Sys2Proof.Machine

/-! ## SWARN (R214) -/

def swHDRX : Word := bit64 0
def swEXITX : Word := bit64 1
def swCLOSEX : Word := bit64 2
def swRSVF : Word := bit64 3
def swMBZ : Word := bit64 4
def swCRD : Word := bit64 5
def swDIVZ : Word := bit64 6
def swWIDX : Word := bit64 7
def swSCOPEX : Word := bit64 8
def swPUBX : Word := bit64 9
def swVERX : Word := bit64 10
def swMWX : Word := bit64 11
def swUNSG : Word := bit64 12

/-- A warning that is set or not. -/
def warnIf (c : Bool) (w : Word) : Word := if c then w else 0

/-! ## Working on a block -/

def Block.warn (b : Block) (w : Word) : Block := { b with swarn := b.swarn ||| w }

/-- An issue effect writes a register. -/
def Block.write (b : Block) (d : Reg) (x : Word) : Block :=
  { b with regs := writeReg b.regs d x, written := d :: b.written, pendingRegs := b.pendingRegs.filter (· != d) }

/-- An issue effect writes registers in a row. -/
def Block.writeAll (b : Block) : List Reg → List Word → Block
  | r :: rs, x :: xs => (b.write r x).writeAll rs xs
  | _, _ => b

def Block.writePred (b : Block) (p : Pred) (x : Bool) : Block := { b with preds := Machine.writePred b.preds p x }

/-- Queue a commit effect; its reply will write the registers given. -/
def Block.queue (b : Block) (id tag : Nat) (e : Effect) (regs : List Reg := []) : Block :=
  { b with effects := b.effects ++ [⟨id, tag, e, regs⟩], pendingRegs := regs.filter (· != 0) ++ b.pendingRegs }

/-- Where a word stands while it issues: its sequencer and the block. -/
structure WordCtx where
  q : Nat
  v : Seq
  b : Block
  deriving DecidableEq, Repr

def WordCtx.reg (x : WordCtx) (r : Reg) : Word := readReg x.b.regs r
def WordCtx.pred (x : WordCtx) (p : Pred) : Bool := readPred x.b.preds p

/-- Number of the block: blocks committed before it. -/
def WordCtx.tag (x : WordCtx) : Nat := x.v.blocks.toNat

/-- The block as a reader of what it reads one after another (R298). -/
def WordCtx.reader (x : WordCtx) : Option Reader := some (.block x.q x.tag)

/-- The address of a memory word: bits 55:0 of a register plus an offset (R198, R199). -/
def wordAddr (u : Word) (off : Int) : Nat := (u.setWidth 56 + BitVec.ofInt 56 off).toNat

/-- What the word at a place has read ahead. -/
def Block.readAt (b : Block) (k : Nat) : Option Word := (b.reads.find? fun p => p.1 == k).map (·.2)

/-- What the word at the head reads: a value that it finds now, or the one that it has read ahead (R182). -/
def WordCtx.sees (x : WordCtx) (now : Word) : Word := (x.b.readAt x.b.idx).getD now

/-- A word that reads these registers waits: a reply to an earlier block is to write one of them (R183). -/
def WordCtx.awaits (x : WordCtx) (rs : List Reg) : Bool :=
  rs.any fun r => r != 0 && !x.b.written.contains r && x.v.awaits.any fun a => a.regs.contains r

/-- CRD when a register read is left to a reply by an earlier word of the block (R183). -/
def WordCtx.crd (x : WordCtx) (rs : List Reg) : Word := warnIf (rs.any fun r => r != 0 && x.b.pendingRegs.contains r) swCRD

/-- What issuing a word comes to: it has issued; what it has sent is under way, and the block stays at it; it waits; or it traps. -/
inductive WordRes where
  | issue (b : Block)
  | hold (b : Block)
  | wait
  | trap (cause : Nat) (addr : Word)
  deriving DecidableEq, Repr

/-- The word has issued, stays at the head, waits (R186, R189), or traps (R187). -/
def State.endWord (s : State) (q : Nat) (old : Block) : WordRes → State
  | .issue b => s.setSeq q { s.seq q with blk := some { b with idx := old.idx + 1, waiting := false } }
  | .hold b => s.setSeq q { s.seq q with blk := some b }
  | .wait => s.setSeq q { s.seq q with blk := some { old with waiting := true } }
  | .trap cause addr => s.trapWord q cause addr

/-- A sequencer word: it runs where a block in issue stands at it, and nowhere else (log 1). -/
def State.runWord (s : State) (body : State → WordCtx → WordRes × State) : Host.Outcome State Fault Refusal :=
  match s.focus with
  | .seq q =>
    match (s.seq q).blk with
    | some b => let (r, s') := body s ⟨q, s.seq q, b⟩; .next (s'.endWord q b r)
    | none => .next s
  | _ => .next s

/-- A word whose effects are all issue effects on the block: it waits for the registers that it reads (R182, R183). -/
def State.plainWord (s : State) (reads : List Reg) (mbz : Bool) (f : WordCtx → Block) : Host.Outcome State Fault Refusal :=
  s.runWord fun s x =>
    (if x.awaits reads then .wait else .issue ((f x).warn (x.crd reads ||| warnIf mbz swMBZ)), s)

/-! ## Scopes (R207) -/

/-- A scope code as it acts: 0 to 2 as CLUSTER, 11 to 15 as SYSTEM. -/
def scopeOf (code : BitVec 4) : Nat := if code.toNat ≤ 2 then 4 else if 11 ≤ code.toNat then 10 else code.toNat
/-- SCOPEX of a scope code. -/
def scopeWarn (code : BitVec 4) : Word := warnIf (decide (code.toNat ≤ 2) || decide (11 ≤ code.toNat)) swSCOPEX

/-! ## Exit and closing words (R184) -/

def isExitWord (w : Code) : Bool := bitsOf w.toNat 26 6 == 1 || (bitsOf w.toNat 26 6 == 0 && bitsOf w.toNat 6 5 == 7)
def isClosingWord (w : Code) : Bool :=
  bitsOf w.toNat 26 6 == 3 || (bitsOf w.toNat 26 6 == 0 && decide (1 ≤ bitsOf w.toNat 6 5) && decide (bitsOf w.toNat 6 5 ≤ 6))

/-- Exit words before the word at the head of the block. -/
def Block.exitsBefore (b : Block) : Nat := ((b.words.take b.idx).filter isExitWord).length

/-- A true exit: the first one names the successor (R184). -/
def Block.exit (b : Block) (target : BitVec 56) : Block := { b with exitTo := some (b.exitTo.getD target) }
def Block.close (b : Block) (c : Closing) : Block := { b with closing := some (b.closing.getD c) }

end Sys2Proof.Machine
end

