-- ==== Sys2Proof/Machine/Fetch.lean ====
section
/-! DEFINITION. What moves next (log 1), and the word that a sequencer, a pipeline stage or a command runs. -/

namespace Sys2Proof.Machine

/-- What a move of the agenda comes to: an instruction to run in a state that says where it runs, a read that a unit makes before its turn, or a state
in which all is done. -/
inductive Fetched where
  | run (i : Instr) (s : State)
  | reads (c : Cue) (s : State)
  | done (s : State)
  deriving DecidableEq, Repr

/-- The schedule that is followed when the agenda is empty (log 1): a free value of the number of steps taken. -/
opaque freeSchedule : Nat → Nat × Cue

/-- dt core cycles pass: lanterns go back, and time goes on (R350, R354). -/
def State.pass (s : State) (dt : Nat) : State := (s.returnLanterns dt).elapse dt

/-- Cycles until the next arbitration rounds: every 64 cycles, and in the cycle after that in which a region ended (R346). -/
def State.roundIn (s : State) : Nat := if s.pkg.regionEnds.any fun p => p.1 == s.now then 1 else 64 - s.now % 64

/-- Time goes on to the next arbitration rounds: of every die, or of the dies on which regions ended. -/
def State.toRounds (s : State) : State :=
  let ended := (s.pkg.regionEnds.filter fun p => p.1 == s.now).map (·.2)
  let s := s.pass s.roundIn
  { s with pkg := { s.pkg with roundsDue := (List.finRange 16).filter fun d => s.now % 64 == 0 || ended.contains d, regionEnds := [] } }

/-- A move comes after dt cycles. Where arbitration rounds fall before it, they come first; a round without a candidate changes nothing and is
left out. -/
def State.moveAfter (s : State) (dt : Nat) (c : Cue) (rest : List (Nat × Cue)) : Cue × State :=
  if dt < s.roundIn ∨ s.pkg.slots.isEmpty then (c, { s.pass dt with agenda := rest, steps := s.steps + 1, slow := false })
  else
    let t := { s.toRounds with agenda := (dt - s.roundIn, c) :: rest, steps := s.steps + 1, slow := false }
    (.event (.arbitrationRound (t.pkg.roundsDue.headD 0)), t)

/-- The next move, with the state in which the time before it has passed (log 1). The rounds of a cycle come before its other moves, in the order of
the dies (R346). -/
def State.nextCue (s : State) : Cue × State :=
  match s.pkg.roundsDue with
  | d :: _ => (.event (.arbitrationRound d), { s with steps := s.steps + 1, slow := false })
  | [] =>
    match s.agenda with
    | (dt, c) :: rest => s.moveAfter dt c rest
    | [] => s.moveAfter (freeSchedule s.steps).1 (freeSchedule s.steps).2 []

/-- The word at the head of the block in issue of a sequencer. -/
def Block.head? (b : Block) : Option Code := b.words[b.idx]?

/-- Go on to the next word of the block in issue. -/
def Seq.skipWord (v : Seq) : Seq :=
  match v.blk with
  | some b => { v with blk := some { b with idx := b.idx + 1, waiting := false } }
  | none => v

/-- A word that neither orders a load behind it nor reads what another unit has filled (R208, R212): of the integer, constant, compare and predicate
groups, `ld`, `st`, `ldx`, `exit`, `call`, `nop`, `ret` and `exitr`. -/
def quietWord (w : Code) : Bool :=
  let op := bitsOf w.toNat 26 6
  (decide (1 ≤ op ∧ op ≤ 0x14) && op != 2 && op != 0x11) || (op == 0 && [0, 4, 7].contains (bitsOf w.toNat 6 5))

/-- What a sequencer has read early as it stands when a word of its block comes to issue (log 153): nothing, behind a word that may order a load; and
none of the bytes that the word loads or stores, which R208 orders. -/
def Seq.beforeWord (v : Seq) (q : Nat) (b : Block) (w : Code) : List EarlyLoad :=
  let behind (a : Reg) (n : Nat) (off : Int) (store : Bool) : List EarlyLoad :=
    let va := wordAddr (readReg b.regs a) (off * n)
    if WordCtx.awaits ⟨q, v, b⟩ [a] then []
    else v.early.filter fun x => match x.place, store with
      | .vug _, true => x.va / 4096 != va / 4096
      | _, _ => !rangesMeet x.va x.size va n
  if !quietWord w then []
  else match decodeSeq w with
    | .ok (.ld _ a wd _ off _) => behind a (2 ^ wd.toNat) off.toInt false
    | .ok (.st _ a wd _ off _) => behind a (2 ^ wd.toNat) off.toInt true
    | .ok (.ldx _ a wd _ _ off _) => behind a (2 ^ wd.toNat) off.toInt false
    | _ => v.early

/-- A word comes to issue in a sequencer: what it has read early stays as far as the word lets it. -/
def State.beforeWord (s : State) (q : Nat) (b : Block) (w : Code) : State :=
  let v := s.seq q
  if v.early.isEmpty then s else s.setSeq q { v with early := v.beforeWord q b w }

/-- The next word of the block in issue of a sequencer: skipped when its guard is false (R180), a trap ILL when it is a reserved
opcode or a header (R188), else run. -/
def State.fetchSeq (s : State) (q : Nat) : Fetched :=
  let v := s.seq q
  match v.blk with
  | none => .done s
  | some b =>
    match b.head? with
    | none => .done s
    | some w =>
      if readPred b.preds (fld w 0 3) = false then .done (s.setSeq q v.skipWord)
      else match decodeSeq w with
        | .error _ => .done (s.trapWord q causeILL 0)
        | .ok i => .run i { s.beforeWord q b w with focus := .seq q }

/-- The stage word that a firing runs next (R39): stages run in order, and a firing runs a stage only after every older firing has run
it, and while none of them holds (R42). -/
def State.fetchStage (s : State) (n index : Nat) : Fetched :=
  let c := s.core n
  match c.pipe[index]? with
  | none => .done s
  | some f =>
    if f.stage < 1 ∨ 6 < f.stage ∨ (c.pipe.take index).any (fun g => decide (g.stage ≤ f.stage) || g.hold.isSome) then .done s
    else .run (decodeStage (c.active[f.slot][f.stage]?.getD 0)) { s with focus := .stage n index }

/-- Two units of one region for whose commands R220 keeps the order: the same unit, or a core and the region that holds it. -/
def unitsMeet (a b : UnitId) : Bool :=
  a == b || (match a, b with
    | .core _, .region _ => true
    | .region _, .core _ => true
    | _, _ => false)

/-- The commands that are on their way in the die network. -/
def State.cmdsInNet (s : State) : List Cmd := s.net.filterMap fun p => match p.payload with | .cmd c => some c | _ => none

/-- A drain holds back later core commands of its sequencer until it ends (R220, R238). -/
def Cmd.drains (d c : Cmd) : Bool :=
  match d.instr, c.unit with
  | .cfgDrain .., .core _ => true
  | _, _ => false

/-- An earlier command of the same sequencer to the same unit has not begun: this one waits behind it (R220). -/
def State.cmdBehind (s : State) (c : Cmd) : Bool :=
  (s.cmds ++ s.cmdsInNet).any fun d => d.seq == c.seq && decide (d.id < c.id) && (!d.begun || d.drains c) && unitsMeet d.unit c.unit

/-- The command at a place of the list of commands that have reached their unit. -/
def State.fetchCmd (s : State) (index : Nat) : Fetched :=
  match s.cmds[index]? with
  | none => .done s
  | some c => if s.cmdBehind c then .done s else .run c.instr { s with focus := .cmd index }

/-- A soft error strikes a doubleword of the floor; a second one makes it uncorrectable (R304). -/
def State.floorError (s : State) (d : Nat) (uncorrectable : Bool) : State :=
  if uncorrectable || s.softFloor.contains d || s.badFloor.contains d then
    { s with badFloor := d :: s.badFloor.filter (· != d), softFloor := s.softFloor.filter (· != d) }
  else { s with softFloor := d :: s.softFloor }

/-- A reading of the hottest sensor; above the hard limit, the stop comes next (R356). -/
def State.sense (s : State) (t : BitVec 16) : State :=
  let s := { s with pkg := { s.pkg with tmax := t }.rebudget }
  if s.pkg.overHard then { s with agenda := (0, .event .hardLimitStop) :: s.agenda } else s

/-- A move of a unit that may read one thing more and then wait: any but a retry, which makes its accesses as a whole (R298, R311, log 135). -/
def Cue.mayPart : Cue → Bool
  | .event (.edgeRetry _ _) => false
  | _ => true

/-- What a move of the agenda comes to. -/
def State.fetch (s : State) : Cue → Fetched
  | .event i => .run i { s with focus := .none }
  | .seqWord q => s.fetchSeq q
  | .stage n k => s.fetchStage n k
  | .cmd k => s.fetchCmd k
  | .floorError d u => .done (s.floorError d u)
  | .temperature t => .done (s.sense t)
  | .tear k high => .done (s.tear k high)
  | .swap k => .done (s.swapAccesses k)
  | .ahead q k => .reads (.ahead q k) s
  | .early q va n => .reads (.early q va n) s
  | .recall q => .reads (.recall q) s
  | .pointer n e i => .reads (.pointer n e i) s
  | .part c => { s with slow := c.mayPart }.fetch c

/-! ## Placing one word where the next step finds it -/

/-- A firing of slot 0 that stands at stage 1. -/
def Firing.first : Firing :=
  { slot := 0, iter := 0, stage := 1, sent := 0, vals := Vector.replicate 6 none, fixedShrinks := [], shrinks := [], aflg := 0, cwarn := 0,
    exits := false, setMask := false, hold := none }

/-- A stage word in H1 of slot 0 of core 0, in a region that holds the core, with one firing at stage 1, which moves next. -/
def State.placeStageWord (s : State) (w : Code) : State :=
  let c := s.core 0
  { s.setCore 0 { c with active := c.active.set 0 (c.active[0].set 1 w), pipe := [Firing.first] } with
    regions := newRegion s.nextRegion 0 0 0 1 1 0 0 0 0 :: s.regions, nextRegion := s.nextRegion + 1, agenda := [(0, .stage 0 0)] }

/-- A block in issue. -/
def Block.start (words : List Code) (regs : Vector Word 32) (preds : Vector Bool 8) : Block :=
  { words := words, idx := 0, regs := regs, preds := preds, effects := [], loads := [], reads := [], pendingRegs := [], written := [], swarn := 0, exitTo := none,
    closing := none, waiting := false }

/-- A word as the one word of the block in issue of sequencer 0, with its guard true, which moves next. -/
def State.placeSeqWord (s : State) (w : Code) : State :=
  let v := s.seq 0
  { s.setSeq 0 { v with blk := some (Block.start [w] v.regs (writePred v.preds (fld w 0 3) true)) } with agenda := [(0, .seqWord 0)] }

/-- One word placed as its kind asks. -/
def State.placeWord (s : State) (w : Code) : State :=
  match decodeAnywhere w with
  | some i => if (stageOpcode i).isSome then s.placeStageWord w else s.placeSeqWord w
  | none => s.placeSeqWord w

end Sys2Proof.Machine
end

