-- ==== Sys2Proof/Machine/Command.lean ====
section
/-! DEFINITION. Command words (09 R217 to R221): what is common to their issue, and to their application by the unit they name. -/

namespace Sys2Proof.Machine

/-! ## Status words (R219) -/

def stDONE : Nat := 0
def stREFUSED : Nat := 1
def stBUSY : Nat := 2
def stIDLE : Nat := 3
def stFAULTED : Nat := 4
def stSTOPPED : Nat := 5
def stCTXGONE : Nat := 6
def stEMPTY : Nat := 7
def stNOTREADY : Nat := 8
def stFULL : Nat := 9
def stNOQUEUE : Nat := 10
def stBADHANDLE : Nat := 11

def statusWord (code : Nat) (reason : Nat := 0) : Word := BitVec.ofNat 64 (at_ reason 8 8 + at_ code 0 8)

/-! ## Issue -/

/-- The region whose program the sequencer runs. -/
def State.regionOf (s : State) (x : WordCtx) : Option Region := s.regionOfSeq x.q

/-- Send a command at commit: its unit, the values of its registers, and the registers that its reply writes. -/
def sendCmd (s : State) (x : WordCtx) (unit : UnitId) (i : Instr) (a b d : Word) (regs : List Reg) (warn : Word) : WordRes × State :=
  let (id, s) := s.fresh
  let c : Cmd := { id := id, seq := x.q, unit := unit, instr := i, a := a, b := b, d := d, tag := x.tag, begun := false }
  (.issue ((x.b.queue id x.tag (.cmd c unit .cmd) regs).warn warn), s)

/-- A command that counts as an outstanding item (R198): a core command, or a store to a register. -/
def Cmd.isItem (c : Cmd) : Bool :=
  match c.unit, c.instr with
  | .core _, _ => true
  | _, .st .. => true
  | _, _ => false

/-- The item that a commit effect is from its commit (R198). -/
def Queued.item (e : Queued) : Option Outstanding :=
  match e.eff with
  | .access a => some (.access a)
  | .cmd c _ _ => if c.isItem then some (.coreCmd c) else none
  | _ => none

/-- Items of the block in issue that will be outstanding (R198). -/
def Block.itemCount (b : Block) : Nat := (b.effects.filterMap Queued.item).length

/-- One more outstanding item would exceed the limit (R198): the block waits, unless nothing is outstanding. -/
def WordCtx.itemsFull (x : WordCtx) : Bool :=
  decide ((if x.v.tl then 128 else 112) < x.v.items.length + x.b.itemCount + 1) && !x.v.items.isEmpty

/-! ## Application -/

/-- A command word: it issues in its sequencer, and is applied where its command has reached its unit. -/
def State.commandWord (s : State) (issue : State → WordCtx → WordRes × State) (apply : State → Nat → Cmd → State) :
    Host.Outcome State Fault Refusal :=
  match s.focus with
  | .cmd k => match s.cmds[k]? with | some c => .next (apply s k c) | none => .next s
  | _ => s.runWord issue

/-- The command has been applied: it is no longer outstanding, and its values go back (R183, R198). -/
def State.finishCmd (s : State) (k : Nat) (vals : List Word) : State :=
  match s.cmds[k]? with
  | none => s
  | some c =>
    let s := { s with cmds := dropNth s.cmds k }.dropReaders (· == Reader.cmd c.id)
    let s := s.setSeq c.seq ((s.seq c.seq).dropItem c.id)
    if vals.isEmpty then s else s.reply c.unit c.seq c.id vals

/-- The unit has begun the command, and its end is awaited. -/
def State.beginCmd (s : State) (k : Nat) (c : Cmd) : State := { s with cmds := setNth s.cmds k { c with begun := true } }

/-- The command with an identity, and its place. -/
def State.cmdById (s : State) (id : Nat) : Option (Nat × Cmd) :=
  match s.cmds.findIdx? fun c => c.id == id with
  | some k => (s.cmds[k]?).map fun c => (k, c)
  | none => none

/-- A command that was begun ends with these values. -/
def State.finishId (s : State) (id : Nat) (vals : List Word) : State :=
  match s.cmdById id with
  | some (k, _) => s.finishCmd k vals
  | none => s

/-- The next command of a sequencer that a unit is to apply, where none goes before it (R220). -/
def State.cmdFor (s : State) (unit : UnitId) (seq : Nat) : Option (Nat × Cmd) :=
  match s.cmds.findIdx? fun c => c.seq == seq && c.unit == unit && !c.begun with
  | some k => match s.cmds[k]? with
    | some c => if s.cmdBehind c then none else some (k, c)
    | none => none
  | none => none

/-! ## Reading memory for a command (R220) -/

/-- A store of the sequencer that is still outstanding touches some bytes, so reading them for a command waits. -/
def State.ownStores (s : State) (q va n : Nat) : Bool :=
  (s.seq q).items.any fun x => match x with
    | .access a => rangesMeet a.mayChange.1 a.mayChange.2 va n
    | .coreCmd _ => false

/-- What a command or a message of identity `id` reads, as a load of a later block would, it may not read yet: an access that its sequencer committed
before it may still change the bytes (R208, R220), or an earlier acquire, an atomic with AQ or a take, has not performed (R210, R245). -/
def State.waitsFor (s : State) (q id va n : Nat) : Bool :=
  let v := s.seq q
  (v.items.any fun x => match x with
    | .access a => decide (a.id < id) && (a.aq || rangesMeet a.mayChange.1 a.mayChange.2 va n)
    | .coreCmd _ => false)
    || v.awaits.any fun a => a.isTake && decide (a.id < id)

/-- What reading memory for a command comes to. -/
inductive Got where
  | bytes (l : List Byte)
  | noXlat
  | bad
  | waits
  deriving DecidableEq, Repr

/-- What a reader has kept of n bytes at an address. -/
def State.bytesRead (s : State) (who : Option Reader) (ctx va n : Nat) : Option (List Byte) :=
  who.bind fun w => match s.partOf w ctx va false with
    | some (.bytes l) => if l.length = n then some l else none
    | _ => none

/-- Bytes that have been read now; in a move that reads one thing more they are kept, and the reader waits (R298, log 135). -/
def State.bytesNow (s : State) (who : Option Reader) (ctx va : Nat) (l : List Byte) : Option (List Byte) × State :=
  match s.slow, who with
  | true, some w => (none, s.keepPart ⟨w, ctx, va, .bytes l⟩)
  | _, _ => (some l, s)

/-- A request of a unit to another has been sent and not applied: a read of the unit there goes behind it (R298). -/
def State.requestAhead (s : State) (src dst : UnitId) : Bool :=
  (s.net.any fun p => p.cls == .req && p.src == src && p.dst == dst) || s.atSlice.any fun a => a.source == src && accessUnit a.place == dst

/-- A read of a unit cannot be made now: a link that the request or its answer needs has stopped (R300), or an earlier request goes before it (R298). -/
def State.readHeld (s : State) (src dst : UnitId) : Bool := s.tripStopped src dst || s.requestAhead src dst

/-- Read bytes of one aligned doubleword for a unit of a cluster (R298, R304). -/
def State.readPiece (s : State) (cluster ctx : Nat) (who : Option Reader) (va k : Nat) : Got × State :=
  match s.bytesRead who ctx va k with
  | some l => (.bytes l, s)
  | none =>
    match s.translate cluster ctx va true who with
    | (.error e, s) => (if e = codeFloor then .bad else if e = codeStopped then .waits else .noXlat, s)
    | (.ok f, s) =>
      if s.readHeld (.seq cluster) (accessUnit f.place) then (.waits, s)
      else match s.loadAt f.place va k with
      | (.bad, s) => (.bad, s)
      | (.waits, s) => (.waits, s)
      | (.value v _, s) =>
        match s.bytesNow who ctx va (leBytes k v) with
        | (some l, s) => (.bytes l, s)
        | (none, s) => (.waits, s)

/-- Read n bytes for a unit of a cluster, in pieces of at most eight that do not cross an aligned doubleword; at most `fuel` pieces. -/
def State.readPieces (s : State) (cluster ctx : Nat) (who : Option Reader) : Nat → Nat → Nat → Got × State
  | 0, _, _ => (.bytes [], s)
  | fuel + 1, va, n =>
    if n = 0 then (.bytes [], s)
    else
      let k := min n (8 - va % 8)
      if 2 ^ 56 < va + n then (.noXlat, s)
      else match s.readPiece cluster ctx who va k with
        | (.bytes l, s) =>
          match s.readPieces cluster ctx who fuel (va + k) (n - k) with
          | (.bytes m, s) => (.bytes (l ++ m), s)
          | (g, s) => (g, s)
        | (g, s) => (g, s)

/-- Read n bytes for a unit of a cluster (R304): none of a shadow range, none without translation. -/
def State.readFor (s : State) (cluster ctx va n : Nat) (who : Option Reader := none) : Got × State := s.readPieces cluster ctx who (n / 8 + 2) va n

/-- Read n bytes for a command, as a load of a later block of its sequencer would (R220). -/
def State.readForCmd (s : State) (cluster ctx : Nat) (c : Cmd) (va n : Nat) : Got × State :=
  if s.waitsFor c.seq c.id va n then (.waits, s) else s.readFor cluster ctx va n (some (.cmd c.id))

/-- Doubleword k of some bytes. -/
def wordAt (l : List Byte) (k : Nat) : Word := BitVec.ofNat 64 (leValue ((l.drop (8 * k)).take 8))

end Sys2Proof.Machine
end

