-- ==== Sys2Proof/Machine/CoreRegs.lean ====
section
/-! DEFINITION. The registers of a core and of its edge unit (06 R138-R144; 07 R171; 10 R266, R285), and those of a die (14 R305). -/

namespace Sys2Proof.Machine

/-! ## Control addresses -/

/-- An address of the core register spaces (R138), and of the die registers (R305). -/
def isCoreControl (va : Nat) : Bool := bitsOf va 48 8 == 0xFC
def isDieControl (va : Nat) : Bool := bitsOf va 48 8 == 0xFD
def isControl (va : Nat) : Bool := isCoreControl va || isDieControl va

/-- The core and the offset that a core control address names; none where R138 traps. -/
def Region.coreControl (r : Region) (va : Nat) : Option (Nat × Nat) :=
  if bitsOf va 32 16 = 0 ∧ va % 8 = 0 then (r.target (bitsOf va 16 8) (bitsOf va 24 8)).map fun n => (n, bitsOf va 0 16) else none

/-- A core control address that names a core of the region that is not dark. -/
def State.coreControl (s : State) (r : Region) (va : Nat) : Option (Nat × Nat) := (r.coreControl va).filter fun p => !s.isDark p.1

/-- The offset that a die control address names; none where R305 traps. -/
def dieControl (va : Nat) : Option Nat := if bitsOf va 16 32 = 0 ∧ va % 8 = 0 then some (bitsOf va 0 16) else none

/-! ## Reading -/

/-- The core's clock is gated (R136). -/
def Core.gated (c : Core) : Bool :=
  (allWins.all fun w => !c.ordinary w || (c.win w).filled == 0) && c.pipe.isEmpty && c.edge.all fun e => !e.active

/-- HMASK: MASK of the active slots (R141). -/
def Core.hmask (c : Core) : Nat := ((List.finRange 8).map fun k : Fin 8 => at_ (b2n (h0Mask c.active[k])) k.val 1).sum

/-- CSTAT (R140). -/
def State.cstat (s : State) (n : Nat) : Nat :=
  let c := s.core n
  at_ (b2n c.stop) 19 1 + at_ (b2n c.gated) 18 1 + at_ (b2n (c.pipe.any fun f => f.hold.isSome)) 17 1
    + at_ (b2n c.openGraph.isSome) 16 1 + at_ (c.openGraph.getD 0).toNat 14 2
    + ((List.finRange 8).map fun k : Fin 8 => at_ (b2n (s.ready n k)) (6 + k.val) 1).sum

/-- A window state word (R139). -/
def WinState.coreWord (v : WinState) : Nat := at_ v.debt 32 11 + at_ v.head 16 10 + at_ v.filled 0 11

/-- STATE of ESTAT (R171). -/
def StreamState.code : StreamState → Nat
  | .idle => 0
  | .bound => 1
  | .running => 2
  | .waitAcquire => 3
  | .waitPermit => 4
  | .withholding => 5
  | .faulted => 6

/-- ESTAT (R171). -/
def EdgeSlot.estat (e : EdgeSlot) : Nat := at_ e.kread 16 4 + at_ e.kind 12 4 + at_ e.state.code 0 3

/-- A doubleword of a handler slot (R139). -/
def slotWord (h : HandlerRec) (j : Nat) : Nat := (stageWordOf h (2 * j)).toNat + (stageWordOf h (2 * j + 1)).toNat * 2 ^ 32

/-- The doubleword at an offset of the core register space; an offset not listed reads 0 (R139). -/
def State.readCore (s : State) (n off : Nat) : Word :=
  let c := s.core n
  let k := off % 256 / 8
  let slots (h : Vector HandlerRec 8) (o : Nat) : Nat := if o / 8 % 8 < 6 then slotWord (h[o / 64]?.getD (Vector.replicate 12 0)) (o / 8 % 8) else 0
  BitVec.ofNat 64 (
    if off = 0x0000 then n
    else if off = 0x0008 then s.cstat n
    else if off = 0x0010 then c.aflg.toNat
    else if off = 0x0018 then c.cwarn.toNat
    else if off = 0x0020 then c.rwarn.toNat
    else if off = 0x0028 then c.cfault.toNat
    else if off = 0x0030 then c.ecnt.toNat
    else if off = 0x0038 ∨ off = 0x0040 ∨ off = 0x0048 then c.hmask
    else if off = 0x0400 then c.ewarn.toNat
    else if off = 0x0408 then c.efault.toNat
    else if off = 0x0410 ∨ off = 0x0418 ∨ off = 0x0420 ∨ off = 0x0428 then (c.edge[(off - 0x0410) / 8]?.getD EdgeSlot.init).estat
    else if 0x0100 ≤ off ∧ off < 0x0180 then (c.wdesc[k]?.getD 0).toNat
    else if 0x0200 ≤ off ∧ off < 0x0280 then (c.wstate[k]?.getD WinState.init).coreWord
    else if 0x0300 ≤ off ∧ off < 0x0340 then (c.kActive[k]?.getD 0).toNat
    else if 0x0340 ≤ off ∧ off < 0x0380 then (c.kShadow[k - 8]?.getD 0).toNat
    else if 0x0500 ≤ off ∧ off < 0x0520 then (c.guards[k]?.getD 0).toNat
    else if 0x0600 ≤ off ∧ off < 0x0800 then (c.trail[(off - 0x0600) / 8]?.getD 0).toNat
    else if 0x1000 ≤ off ∧ off < 0x1200 then slots c.active (off - 0x1000)
    else if 0x1200 ≤ off ∧ off < 0x1400 then slots c.shadow (off - 0x1200)
    else 0)

/-! ## Writing -/

/-- HMSET and HMCLR (R141). -/
def Core.writeMask (c : Core) (bits : Nat) (m : Bool) : Core :=
  { c with active := Vector.ofFn fun k : Fin 8 => if bits.testBit k then HandlerRec.setMask c.active[k] m else c.active[k] }

/-- A loop guard written with a value (R266): UND is cleared by a 1. -/
def lgWritten (old value : Lane) : Lane := (value &&& 0xFFFFFFFE0) ||| (if bitAt old 4 && !bitAt value 4 then 0x10 else 0)

/-- The store of a doubleword to an offset (R139): a store to a read-only register or to an offset not listed sets CTLW. -/
def Core.writeReg (c : Core) (off : Nat) (value : Word) : Core :=
  let v : Lane := value.setWidth 36
  if off = 0x0010 then { c with aflg := c.aflg &&& ~~~v }
  else if off = 0x0018 then { c with cwarn := c.cwarn &&& ~~~v }
  else if off = 0x0020 then { c with rwarn := c.rwarn &&& ~~~v }
  else if off = 0x0028 then { c with cfault := 0 }
  else if off = 0x0030 then { c with ecnt := 0 }
  else if off = 0x0040 then c.writeMask (bv value 0 8) true
  else if off = 0x0048 then c.writeMask (bv value 0 8) false
  else if off = 0x0400 then { c with ewarn := c.ewarn &&& ~~~v }
  else if off = 0x0408 then { c with efault := 0 }
  else if 0x0500 ≤ off ∧ off < 0x0520 then
    { c with guards := c.guards.setIfInBounds ((off - 0x0500) / 8) (lgWritten (c.guards[(off - 0x0500) / 8]?.getD 0) v) }
  else { c with rwarn := c.rwarn ||| rwCTLW }

/-! ## Die registers (R305) -/

def dieOffsetListed (off : Nat) : Bool := off == 0 || off == 8 || off == 0x10 || off == 0x18 || (decide (0x1000 ≤ off) && decide (off < 0x5000))
/-- Registers of a die that a store changes. -/
def dieWritable (off : Nat) : Bool := off == 8 || off == 0x10

/-- A bit map of the cores of a list that lie on a die, one doubleword of it (R305). -/
def coreBits (l : List Nat) (die k : Nat) : Nat :=
  ((List.range 64).map fun j => if l.contains (coreOf die ((64 * k + j) % 256) ((64 * k + j) / 256)) then 2 ^ j else 0).sum

/-- The running slots of a region. -/
def State.runningSlots (s : State) (r : Region) : List EdgeSlot := r.cores.flatMap fun n => (s.core n).edge.toList.filter (·.active)

/-- RLOW of the region that reads (R305, R313). -/
def State.rlow (s : State) (r : Option Region) (die : Nat) : Nat :=
  match r with
  | none => 2 ^ 63
  | some r =>
    match (if r.die = die then (s.runningSlots r).map EdgeSlot.low else []).min? with
    | some a => a
    | none => 2 ^ 63

/-- The doubleword at an offset of the die registers, as a sequencer of a region reads it. -/
def State.readDie (s : State) (r : Option Region) (die off : Nat) : Word :=
  BitVec.ofNat 64 (
    if off = 0 then
      let dead := (s.pkg.modrec.deadSlices.filter fun n => coreDie n == die).length
      at_ (b2n (dead == 0)) 38 1 + at_ dead 21 17 + at_ (s.pkg.modrec.dark.filter fun n => coreDie n == die).length 4 17 + at_ die 0 4
    else if off = 8 then (sparseGet 0 s.fecc die).toNat
    else if off = 0x10 then (sparseGet 0 s.lretry die).toNat
    else if off = 0x18 then s.rlow r die
    else if 0x1000 ≤ off ∧ off < 0x3000 then coreBits s.pkg.modrec.dark die ((off - 0x1000) / 8)
    else if 0x3000 ≤ off ∧ off < 0x5000 then coreBits s.pkg.modrec.deadSlices die ((off - 0x3000) / 8)
    else 0)

/-- A store to a die register. -/
def State.writeDie (s : State) (die off : Nat) : State :=
  if off = 8 then { s with fecc := sparsePut s.fecc die 0 }
  else if off = 0x10 then { s with lretry := sparsePut s.lretry die 0 }
  else s

end Sys2Proof.Machine
end

