-- ==== Sys2Proof/Machine/CoreCommands.lean ====
section
/-! DEFINITION. Commands that a core applies: window words with L = 0 (09 R223, R224) and register writes (06 R137, R139, R141; 10 R266); and the
writes of die registers (14 R305). -/

namespace Sys2Proof.Machine

/-! ## Window references and fills -/

def refLane (a : Word) : Nat := bv a 30 5
def refOff (a : Word) : Nat := bv a 20 10
def refWin (a : Word) : Win := Fin.ofNat 16 (bv a 16 4)

/-- The beat of a `wfl` (R224). -/
def fillOf (b : Word) : Beat :=
  let m : BitVec 3 := BitVec.ofNat 3 (bv b 36 3)
  { lanes := (Vector.replicate 16 0).set 0 (if bitAt b 41 then 0 else b.setWidth 36), count := if bitAt b 41 then 0 else 1,
    mark := if 5 ≤ m.toNat then markNone else m, graph := BitVec.ofNat 2 (bv b 39 2) }

/-- MBZ of a `wfl` operand (R224). -/
def fillWarn (b : Word) : Word := warnIf (decide (2 ^ 42 ≤ b.toNat) || decide (5 ≤ bv b 36 3)) swMBZ

/-! ## What the core does -/

/-- Some firing of the pipeline has still to run a stage word that touches a window so. -/
def Core.willTouch (c : Core) (f : HandlerRec → Code → List Win) (w : Win) : Bool :=
  c.pipe.any fun fr => (remainingWords c.active[fr.slot] fr.stage).any fun x => (f c.active[fr.slot] x).contains w

/-- Some firing of the pipeline shrinks a window by a count that was not fixed at issue, or will still update it (R40, R42). -/
def Core.willChange (c : Core) (w : Win) : Bool :=
  c.willTouch c.stageUpdates w || c.lateShrink w

/-- The element at an offset stands in the window once every firing in the pipeline has completed (R137). -/
def Core.settled (c : Core) (w : Win) (off : Nat) : Bool :=
  wdParam (c.desc w) || (decide (off < c.visible w) && decide (off + c.pendingOf c.pipe.length w + (c.win w).debt < c.extent w))

/-- The store address that a reference names, as a firing issued now would find it. -/
def Core.refAddr (c : Core) (a : Word) : Nat :=
  let w := refWin a
  c.elemAddr w (refOff a + (if wdParam (c.desc w) then 0 else c.pendingOf c.pipe.length w)) + (if wdBeat (c.desc w) then refLane a else 0)

/-- The word that a `wrd` reads: the reserved bits of a control word read as 0 (R27). -/
def Core.refWord (c : Core) (a : Word) (addr : Nat) : Lane :=
  if wdBeat (c.desc (refWin a)) && refLane a == 16 then (beatOf (Vector.replicate 16 0) (c.loadWord addr)).control else c.loadWord addr

/-- A core refuses a window command, with no wait and no change (R223). -/
def Core.refuses (c : Core) (fn : Nat) (a : Word) : Bool :=
  let d := c.desc (refWin a)
  !wdBound d
    || (wdParam d && (fn == 1 || fn == 2 || decide (wdPsize d ≤ refOff a)))
    || (fn != 2 && decide (wdCap d ≤ refOff a))
    || (fn == 2 && decide (wdCap d < refOff a))
    || (fn == 1 && wdSrc d != 3)
    || (wdBeat d && ((fn == 3 && decide (16 ≤ refLane a)) || (fn == 0 && decide (17 ≤ refLane a))))

/-- What applying a window command comes to. -/
inductive CoreRes where
  | done (c : Core) (v : Word)
  | waits
  | bad (addr : Nat)
  deriving DecidableEq, Repr

def Core.applyWrd (c : Core) (a : Word) : CoreRes :=
  let w := refWin a
  if c.refuses 0 a then .done c (BitVec.allOnes 64)
  else if !c.settled w (refOff a) || c.willChange w then .waits
  else
    let addr := c.refAddr a
    if c.badStore.contains addr then .bad addr else .done (c.correctStore [(addr, w)]) ((c.refWord a addr).setWidth 64)

/-- The fill of a `wfl` (R224): a beat-wide window receives the beat, one with COUNT 0 and marker none too; a word-wide window its valid lane.
None while the window lacks room for it. -/
def Core.fillCommand (c : Core) (w : Win) (b : Beat) : Option Core :=
  if wdBeat (c.desc w) && b.empty then
    if c.swapDue.contains w || !c.room w 1 then none else some (c.appendData w (b.trim.lanes.toList ++ [b.control]))
  else c.fillBeat w b

/-- `wfl`, which a drain or a checkpoint may refuse beside the core (R238, R269). -/
def Core.applyWfl (c : Core) (barred : Bool) (a b : Word) : CoreRes :=
  if c.refuses 1 a || barred then .done c (statusWord stREFUSED)
  else match c.fillCommand (refWin a) (fillOf b) with
    | some c' => .done c' (statusWord stDONE)
    | none => .waits

def Core.applyWshr (c : Core) (a : Word) : CoreRes :=
  let w := refWin a
  if c.refuses 2 a then .done c (statusWord stREFUSED)
  else if c.visible w < refOff a || c.willChange w || c.willTouch c.stageReads w then .waits
  else .done (c.shrinkWin w (refOff a) false) (statusWord stDONE)

def Core.applyWst (c : Core) (a b : Word) : CoreRes :=
  let w := refWin a
  if c.refuses 3 a then .done c (statusWord stREFUSED)
  else if !c.settled w (refOff a) || c.willChange w || c.willTouch c.stageReads w then .waits
  else .done (c.storeWord (c.refAddr a) (b.setWidth 36)) (statusWord stDONE)

/-- A `wfl` is refused: from every sequencer in a checkpoint, from all but the owner in a drain. -/
def State.wflBarred (s : State) (n seq : Nat) : Bool :=
  match s.regionOfCore n with
  | some r => r.checkpoint.isSome || (r.drain.isSome && r.owner != seq)
  | none => false

/-- A core command may be applied: the core is not stopped, and its region is not being frozen for a pre-emption; a checkpoint lets only
the refusals of `wfl` through (R120, R269, R272). -/
def State.coreTakes (s : State) (n : Nat) (isWfl : Bool) : Bool :=
  !(s.core n).stop &&
    match s.regionOfCore n with
    | some r => (isWfl && r.checkpoint.isSome) || !(r.freezing || r.frozen)
    | none => true

/-- A command has been applied, and has taken the issue slot of its cycle (R137). -/
def Core.takesSlot (c : Core) (now : Nat) : Core := { c.active_ now with slotCycle := some now }

/-- A core applies a window command, one in a cycle (R137). -/
def State.applyWindow (s : State) (isWfl : Bool) (f : Core → Cmd → CoreRes) (k : Nat) (c : Cmd) : State :=
  match c.unit with
  | .core n =>
    if !s.coreTakes n isWfl || !(s.core n).slotFree s.now then s
    else match f (s.core n) c with
      | .waits => s
      | .bad addr => s.storeFault n 0 0 (addr, refWin c.a)
      | .done c' v => (s.setCore n (c'.takesSlot s.now)).finishCmd k [v]
  | _ => s

/-- The wait condition of a window command holds, on the visible counts of R40, or the command is refused (R137, R223, R224). -/
def State.windowDue (s : State) (n : Nat) (c : Cmd) : Bool :=
  let u := s.core n
  let w := refWin c.a
  let stands := decide (refOff c.a < u.visible w)
  match c.instr with
  | .wrdCore .. => u.refuses 0 c.a || stands
  | .wflCore .. => match u.applyWfl (s.wflBarred n c.seq) c.a c.b with | .waits => false | _ => true
  | .wshrCore .. => u.refuses 2 c.a || decide (refOff c.a ≤ u.visible w)
  | .wstCore .. => u.refuses 3 c.a || stands
  | _ => false

/-! ## Issue -/

/-- A window word with L = 0: TGT where the reference names no core of the region (R221, R223). -/
def windowIssue (i : Instr) (d a b : Reg) (useB mbz : Bool) (warnB : Word → Word) (s : State) (x : WordCtx) : WordRes × State :=
  let reads := if useB then [a, b] else [a]
  if x.awaits reads || x.itemsFull then (.wait, s)
  else match (s.regionOf x).bind fun r => s.target r (bv (x.reg a) 0 8) (bv (x.reg a) 8 8) with
    | none => (.trap causeTGT 0, s)
    | some n =>
      sendCmd s x (.core n) i (x.reg a) (if useB then x.reg b else 0) 0 [d]
        (x.crd reads ||| warnIf (mbz || decide (2 ^ 35 ≤ (x.reg a).toNat)) swMBZ ||| (if useB then warnB (x.reg b) else 0))

/-- `wrd sd, (sa)` (R223). -/
def execWrdCore (d a b : Reg) (x : Bool) (g : Pred) (s : State) : Host.Outcome State Fault Refusal :=
  s.commandWord (windowIssue (.wrdCore d a b x g) d a b false x fun _ => 0)
    fun s k c => s.applyWindow false (fun u c => u.applyWrd c.a) k c

/-- `wfl sd, (sa), sb` (R223, R224). -/
def execWflCore (d a b : Reg) (x : Bool) (g : Pred) (s : State) : Host.Outcome State Fault Refusal :=
  s.commandWord (windowIssue (.wflCore d a b x g) d a b true x fillWarn)
    fun s k c => s.applyWindow true (fun u c => u.applyWfl (match c.unit with | .core n => s.wflBarred n c.seq | _ => false) c.a c.b) k c

/-- `wshr sd, (sa)` (R223). -/
def execWshrCore (d a b : Reg) (x : Bool) (g : Pred) (s : State) : Host.Outcome State Fault Refusal :=
  s.commandWord (windowIssue (.wshrCore d a b x g) d a b false x fun _ => 0)
    fun s k c => s.applyWindow false (fun u c => u.applyWshr c.a) k c

/-- `wst sd, (sa), sb` (R223). -/
def execWstCore (d a b : Reg) (x : Bool) (g : Pred) (s : State) : Host.Outcome State Fault Refusal :=
  s.commandWord (windowIssue (.wstCore d a b x g) d a b true x fun _ => 0)
    fun s k c => s.applyWindow false (fun u c => u.applyWst c.a c.b) k c

/-! ## Register writes -/

def cmdOff (c : Cmd) : Nat := bv c.a 0 16

/-- A firing has still to run a stage that may set MASK of its slot: `stop`, or a `join` under STRICT (R103, R115). -/
def mayMask (h : HandlerRec) (stage : Nat) : Bool := (remainingWords h stage).any fun w => opOf w == 0x01 || (h0Strict h && opOf w == 0x2F)

/-- A write of MASK, or one that sets or replaces an active loop guard, waits for the firings in the pipeline that would still change what it
writes: as a firing issued now (R137). -/
def Core.regWaits (c : Core) (off : Nat) (v : Word) : Bool :=
  if off = 0x0048 then c.pipe.any fun fr => bitAt v fr.slot.val && (fr.setMask || mayMask c.active[fr.slot] fr.stage)
  else if 0x0500 ≤ off ∧ off < 0x0520 then
    let g := c.guards[(off - 0x0500) / 8]?.getD 0
    let n : Lane := v.setWidth 36
    c.pipe.any fun fr =>
      let live := [g, n].filter lgActive
      let ws := live.map fun x => (Fin.ofNat 16 (lgAdmit x) : Win)
      let fs := live.map fun x => (Fin.ofNat 16 (lgCredit x) : Win)
      let h := c.active[fr.slot]
      (ws.any fun w => shrinkSum fr.fixedShrinks w + shrinkSum fr.shrinks w != 0 ||
          (remainingWords h fr.stage).any fun x => (c.stageLate h x).contains w)
        || (remainingWords h fr.stage).any fun x => meet (stageFills h x) fs
  else false

/-- A write of HMSET or HMCLR, which takes the issue slot of a cycle (R137). -/
def isMaskOff (off : Nat) : Bool := off == 0x0040 || off == 0x0048

/-- A core applies a register write (R137, R139). -/
def State.applyRegister (s : State) (k : Nat) (c : Cmd) : State :=
  match c.unit with
  | .core n =>
    let u := s.core n
    let slot := isMaskOff (cmdOff c)
    if !s.coreTakes n false || u.regWaits (cmdOff c) c.d || (slot && !u.slotFree s.now) then s
    else
      let u := u.writeReg (cmdOff c) c.d
      (s.setCore n (if slot then u.takesSlot s.now else u.active_ s.now)).finishCmd k []
  | .die d => (s.writeDie d (cmdOff c)).finishCmd k []
  | _ => s

/-! ## The events -/

/-- A command that a core is to apply is a register write. -/
def isRegisterWrite (c : Cmd) : Bool := match c.instr with | .st .. => true | _ => false

/-- A command that stands at its core takes the issue slot ahead of every handler from the first cycle in which its own wait condition holds (R137, R394): a
write of MASK has none. The core applies it in that cycle, or, where firings in the pipeline have still to touch what it touches, once they have, with no
firing issued in between, so that it is ordered as a firing issued in that first cycle (log 152). -/
def State.slotClaimed (s : State) (n : Nat) : Bool :=
  s.cmds.any fun c =>
    c.unit == .core n && !c.begun && !s.cmdBehind c &&
      s.coreTakes n (match c.instr with | .wflCore .. => true | _ => false) &&
      (if isRegisterWrite c then isMaskOff (cmdOff c) else s.windowDue n c)

/-- The register write that a unit applies next, to an offset that passes a test. -/
def State.registerEvent (s : State) (unit : UnitId) (seq : Nat) (p : Nat → Bool) : State :=
  match s.cmdFor unit seq with
  | some (k, c) => if isRegisterWrite c && p (cmdOff c) then s.applyRegister k c else s
  | none => s

def isGuardOff (off : Nat) : Bool := decide (0x0500 ≤ off) && decide (off < 0x0520)

/-- CORE_WINDOW_COMMAND_APPLY (R137). -/
def execCoreWindowCommandApply (core seq : Nat) (s : State) : Host.Outcome State Fault Refusal :=
  match s.cmdFor (.core core) seq with
  | some (k, c) =>
    match c.instr with
    | .wrdCore .. => .next (s.applyWindow false (fun u c => u.applyWrd c.a) k c)
    | .wflCore .. => .next (s.applyWindow true (fun u c => u.applyWfl (s.wflBarred core c.seq) c.a c.b) k c)
    | .wshrCore .. => .next (s.applyWindow false (fun u c => u.applyWshr c.a) k c)
    | .wstCore .. => .next (s.applyWindow false (fun u c => u.applyWst c.a c.b) k c)
    | _ => .next s
  | none => .next s

/-- HMSET_WRITE (R141). -/
def execHmsetWrite (core seq : Nat) (s : State) : Host.Outcome State Fault Refusal := .next (s.registerEvent (.core core) seq (· == 0x0040))
/-- HMCLR_WRITE (R141). -/
def execHmclrWrite (core seq : Nat) (s : State) : Host.Outcome State Fault Refusal := .next (s.registerEvent (.core core) seq (· == 0x0048))
/-- LOOP_GUARD_WRITE (R266). -/
def execLoopGuardWrite (core seq : Nat) (s : State) : Host.Outcome State Fault Refusal := .next (s.registerEvent (.core core) seq isGuardOff)
/-- CORE_REGISTER_WRITE (R139): a write of any other core register. -/
def execCoreRegisterWrite (core seq : Nat) (s : State) : Host.Outcome State Fault Refusal :=
  .next (s.registerEvent (.core core) seq fun off => !isMaskOff off && !isGuardOff off)
/-- DIE_REGISTER_WRITE (R305). -/
def execDieRegisterWrite (die : Fin 16) (seq : Nat) (s : State) : Host.Outcome State Fault Refusal :=
  .next (s.registerEvent (.die die) seq fun _ => true)

end Sys2Proof.Machine
end

