-- ==== Sys2Proof/Machine/SeqMemory.lean ====
section
/-! DEFINITION. Memory words of the sequencer (08 R198 to R205), fences (R209) and `publish` (R213). -/

namespace Sys2Proof.Machine

/-! ## Addresses -/

/-- Translate an access of a word: XLAT, PERM or FLOOR where it fails (R188); it waits while its walk does (R300). -/
def State.reach (s : State) (x : WordCtx) (va : Nat) (write : Bool) : Except WordRes Found × State :=
  let addr := BitVec.ofNat 64 va
  match s.regionOf x with
  | none => (.error (.trap causeXLAT addr), s)
  | some r =>
    match s.translate x.q r.ctx va true x.reader with
    | (.error e, s) => (.error (if e = codeStopped then .wait else .trap (xlatCause e) addr), s)
    | (.ok f, s) => (if write && !f.tr.writable then .error (.trap causePERM addr) else .ok f, s)

/-- The checks that come before translation: ADDR, a control address where none is allowed, and alignment (R198). DESIGN CHOICE (log 143): they
are made in this order, and the first that fails is taken. -/
def addrCheck (u : Word) (va n : Nat) : Option (Nat × Word) :=
  if 2 ^ 56 ≤ u.toNat then some (causeADDR, u)
  else if isControl va then some (causeCTL, BitVec.ofNat 64 va)
  else if va % n ≠ 0 then some (causeALIGN, BitVec.ofNat 64 va)
  else none

/-! ## Loads -/

/-- What the earlier effects of a block do to a byte: the value of its latest store, and whether an atomic or an erase changes it after that
(R183, R200). -/
def seenByte (effs : List Queued) (va : Nat) : Option Byte × Bool :=
  effs.foldl (fun st e =>
    match e.eff with
    | .access a =>
      if a.span.1 ≤ va ∧ va < a.span.1 + a.span.2 then
        match a.op with
        | .store => (a.data[va - a.va]?, false)
        | _ => (st.1, true)
      else st
    | _ => st) (none, false)

/-- An acquire of an earlier block has not performed: an atomic with AQ (R210), or a take (R245). -/
def Seq.acquiring (v : Seq) : Bool :=
  v.awaits.any (·.isTake) || v.items.any fun i => match i with | .access a => a.aq | .coreCmd _ => false

/-- A load waits for the acquires of earlier blocks, and for an outstanding access that overlaps it (R208). -/
def Seq.loadWaits (v : Seq) (va n : Nat) : Bool :=
  v.acquiring || v.items.any fun i => match i with | .access a => rangesMeet a.mayChange.1 a.mayChange.2 va n | .coreCmd _ => false

/-- A fence stands before the word at a place of the block, and an access of an earlier block has not performed: R208 orders a load behind it (R209). -/
def WordCtx.fenceHolds (x : WordCtx) (k : Nat) : Bool :=
  ((x.b.effects.any fun e => match e.eff with | .fence _ => true | _ => false)
      || ((x.b.words.take k).drop x.b.idx).any fun w => bitsOf w.toNat 26 6 == 0x20)
    && ((x.v.items.any fun i => match i with | .access _ => true | .coreCmd _ => false)
      || (x.v.suspended ++ x.v.outbox).any fun e => match e.eff with | .access _ => true | _ => false)

/-- A load of the word at a place of the block has to wait (R208, R209, R210). -/
def WordCtx.loadHeld (x : WordCtx) (k va n : Nat) : Bool := x.v.loadWaits va n || x.fenceHolds k

/-- A store to a register of a unit is outstanding. -/
def Seq.writesRegister (v : Seq) (unit : UnitId) : Bool :=
  v.items.any fun i => match i with | .coreCmd c => c.unit == unit && isRegisterWrite c | .access _ => false

/-- The value of n bytes as a load of the block sees them, from what memory holds; and CRD (R183, R200). -/
def seenValue (effs : List Queued) (va n m : Nat) : Nat × Bool :=
  let bs := (List.range n).map fun k => seenByte effs (va + k)
  (leValue (bs.zipIdx.map fun (b, k) => b.1.getD (BitVec.ofNat 8 (m / 2 ^ (8 * k)))), bs.any (·.2))

/-- A loaded value as its register receives it (R199). -/
def extended (n : Nat) (unsigned : Bool) (v : Nat) : Word := if unsigned then BitVec.ofNat 64 v else BitVec.ofInt 64 (signedOf (8 * n) v)

/-- The register that a control address names, of a die or of a core of the region, with its value; none where no register stands there. -/
def State.controlRead (s : State) (x : WordCtx) (va : Nat) : Option (UnitId × Word) :=
  if isDieControl va then (dieControl va).map fun off => (.die (seqDie x.q), s.readDie (s.regionOf x) (seqDie x.q) off)
  else ((s.regionOf x).bind fun r => s.coreControl r va).map fun (n, off) => (.core n, s.readCore n off)

/-- A load of a register of a unit waits for the sequencer's earlier register writes there (R208, R220), and for the acquires of earlier blocks
(R210). -/
def Seq.registerWaits (v : Seq) (unit : UnitId) : Bool := v.acquiring || v.writesRegister unit

/-- A register load of a control address (R138, R305), only by `ld.d`. -/
def loadControl (s : State) (x : WordCtx) (va : Nat) (d : Reg) (warn : Word) : WordRes × State :=
  match s.controlRead x va with
  | none => (.trap causeCTL (BitVec.ofNat 64 va), s)
  | some (unit, v) => (if x.v.registerWaits unit || x.fenceHolds x.b.idx then .wait else .issue ((x.b.write d (x.sees v)).warn warn), s)

/-- The load of the word at a place of the block has been issued. -/
def Block.loadOf (b : Block) (idx : Nat) : Option BlockLoad := b.loads.find? fun l => l.idx == idx

/-- Issue the load of the word at a place of the block (R198). -/
def State.issueLoad (s : State) (x : WordCtx) (idx va n : Nat) (found : Found) : Block × State :=
  let (l, s) := s.sendLoads (.seq x.q) [((va, n), found)]
  ({ x.b with loads := ⟨idx, l⟩ :: x.b.loads, waiting := false }, s)

/-- What a load has answered: the word stays while it is under way, and waits where a withheld access holds it back (R317); an uncorrectable error
traps (R304); and what is to be done with the value and the existence bit is given. -/
def finishLoad (s : State) (x : WordCtx) (l : BlockLoad) (va n : Nat) (f : Block → Nat → Bool → Block) (warn : Word) : WordRes :=
  match gatherPieces l.pieces with
  | .waits => .hold { x.b with waiting := s.withheld.any fun a => l.pieces.any fun p => p.id == a.id }
  | .bad _ => .trap causeFLOOR (BitVec.ofNat 64 va)
  | .value m there =>
    let (v, crd) := seenValue x.b.effects va n m
    .issue ((f { x.b with loads := x.b.loads.filter fun l => l.idx != x.b.idx } v there).warn (warn ||| warnIf crd swCRD))

/-- A load of n bytes from memory (R199 to R201). -/
def loadMemory (s : State) (x : WordCtx) (va n : Nat) (f : Block → Nat → Bool → Block) (warn : Word) : WordRes × State :=
  match x.b.loadOf x.b.idx with
  | some l => (finishLoad s x l va n f warn, s)
  | none =>
    if x.loadHeld x.b.idx va n then (.wait, s)
    else match s.reach x va false with
      | (.error w, s) => (w, s)
      | (.ok found, s) => let (b, s) := s.issueLoad x x.b.idx va n found; (.hold b, s)

/-! ## Loads that issue ahead (R182, R183) -/

/-- A word from the head of the block to the one before a place may write a register as an issue effect: the one in its D field, or the four that
an element of a window fills. -/
def Block.mayWrite (b : Block) (k : Nat) (r : Reg) : Bool :=
  r != 0 && ((b.words.take k).drop b.idx).any fun w => decide ((r - fld w 21 5).toNat < (if bitsOf w.toNat 26 6 = 0x22 then 4 else 1))

/-- Such a word may write a predicate: a compare, a predicate word or an `ldx`. -/
def Block.mayWritePred (b : Block) (k : Nat) : Bool :=
  ((b.words.take k).drop b.idx).any fun w => [0x0F, 0x10, 0x14].contains (bitsOf w.toNat 26 6)

/-- The register, the address and the size of the load at a place of the block, where no word before it that has not issued may change them. -/
def Block.loadAddress (b : Block) (k : Nat) : Option (Reg × Nat × Nat) :=
  let of (a : Reg) (w : BitVec 2) (off : Int) : Option (Reg × Nat × Nat) :=
    if b.mayWrite k a then none else some (a, wordAddr (readReg b.regs a) (off * (2 ^ w.toNat : Nat)), 2 ^ w.toNat)
  match (b.words[k]?).map decodeSeq with
  | some (.ok (.ld _ a w _ off _)) => of a w off.toInt
  | some (.ok (.ldx _ a w _ _ off _)) => of a w off.toInt
  | _ => none

/-- A load between the head of the block and a place has not been issued and may overlap some bytes: R208 orders the two. -/
def Block.loadBefore (b : Block) (k va n : Nat) : Bool :=
  ((List.range k).drop b.idx).any fun j =>
    (match b.words[j]? with | some w => bitsOf w.toNat 26 6 == 0x12 || bitsOf w.toNat 26 6 == 0x14 | none => false)
      && (b.loadOf j).isNone && (b.readAt j).isNone && (match b.loadAddress j with | some (_, va', n') => rangesMeet va' n' va n | none => true)

/-- The guard of the word at a place is true, and no word before it that has not issued may change it. -/
def Block.guardKnown (b : Block) (k : Nat) : Bool :=
  match b.words[k]? with | some w => readPred b.preds (fld w 0 3) && (fld w 0 3 == (0 : Pred) || !b.mayWritePred k) | none => false

/-- A load of the block in issue of a sequencer issues before earlier words: its guard, its address and its translation are known, and nothing
orders it behind what has not performed. Its word finishes when the words before it have issued, so the trap taken stays that of the earliest word
(R187). -/
def State.loadAhead (s : State) (q k : Nat) : State :=
  let v := s.seq q
  match v.blk with
  | none => s
  | some b =>
    let x : WordCtx := ⟨q, v, b⟩
    match b.loadAddress k with
    | some (a, va, n) =>
      if k ≤ b.idx ∨ !b.guardKnown k ∨ (b.loadOf k).isSome ∨ x.awaits [a] ∨ (addrCheck (x.reg a) va n).isSome ∨ x.loadHeld k va n ∨ b.loadBefore k va n then s
      else match s.reach x va false with
        | (.ok found, s) => 
        let (b', s) := s.issueLoad x k va n found
        s.setSeq q { s.seq q with blk := some { b' with waiting := b.waiting }
                                  early := (s.seq q).early.filter fun e => !rangesMeet e.va e.size va n }
        | (.error _, s) => s
    | none => s

/-! ## Loads that perform early (R208) -/

/-- A plain store, to other bytes. -/
def Access.storesElsewhere (a : Access) (va n : Nat) : Bool :=
  a.op == .store && !a.aq && !a.rl && !rangesMeet a.mayChange.1 a.mayChange.2 va n

/-- Nothing that a sequencer has issued, or that stands in its block in issue, orders a load of some bytes that comes later: it has issued nothing but
stores to other bytes and commands without a reply, and its block reads no window and no register of another unit (R208 to R212). -/
def Seq.unordered (v : Seq) (va n : Nat) : Bool :=
  let plain (e : Queued) : Bool := match e.eff with | .access a => a.storesElsewhere va n | _ => false
  v.wait == .none && v.awaits.isEmpty && (v.suspended ++ v.outbox).all plain
    && (v.items.all fun i => match i with | .access a => a.storesElsewhere va n | .coreCmd _ => true)
    && match v.blk with
      | none => true
      | some b => b.words.all quietWord && b.effects.all plain && !b.loads.any fun l => l.pieces.any fun p => rangesMeet p.va p.size va n

/-- A sequencer reads bytes early, for a load of a later word or block: R208 orders the loads of one sequencer only where they overlap or something
stands between them (log 153). Only what a load could read without a trap, a wait or a correction is read. -/
def State.readEarly (s : State) (q va n : Nat) : State :=
  let v := s.seq q
  match s.regionOfSeq q with
  | none => s
  | some r =>
    if !([1, 2, 4, 8].contains n) ∨ (addrCheck (BitVec.ofNat 64 va) va n).isSome ∨ 2 ^ 56 ≤ va ∨ r.freezing ∨ v.halted ∨ v.doubleTrapped ∨ v.frozen
      ∨ v.unordered va n = false then s
    else match s.translate q r.ctx va with
      | (.error _, _) => s
      | (.ok f, t) =>
        if t.readHeld (.seq q) (accessUnit f.place) then s
        else match t.loadAt f.place va n with
          | (.value x there, t) =>
            if t.softFloor = s.softFloor then t.setSeq q { v with early := ⟨va, n, x, there, f.place, v.tl⟩ :: v.early } else s
          | _ => s

/-- What a load finds of what its sequencer has read early: all of it, or its two halves, into which a load of the floor may tear (R203). -/
def Seq.earlyParts (v : Seq) (va n : Nat) (place : Place) : Option (List LoadPart) :=
  let find (va n : Nat) (place : Place) : Option EarlyLoad := v.early.find? fun e => e.va == va && e.size == n && e.place == place && e.tl == v.tl
  match find va n place, place with
  | some e, _ => some [⟨0, n, .value e.value e.there⟩]
  | none, .floor pa =>
    match find va 4 (.floor pa), find (va + 4) 4 (.floor (pa + 4)) with
    | some e, some e' => if n = 8 then some [⟨0, 4, .value e.value e.there⟩, ⟨4, 4, .value e'.value e'.there⟩] else none
    | _, _ => none
  | none, .vug _ => none

/-- The load at the head of the block takes what has been read early as its answer (log 153). -/
def State.recall (s : State) (q : Nat) : State :=
  let v := s.seq q
  match v.blk with
  | none => s
  | some b =>
    let x : WordCtx := ⟨q, v, b⟩
    match b.loadAddress b.idx with
    | none => s
    | some (a, va, n) =>
      if !b.guardKnown b.idx ∨ (b.loadOf b.idx).isSome ∨ x.awaits [a] ∨ (addrCheck (x.reg a) va n).isSome ∨ x.loadHeld b.idx va n then s
      else match s.reach x va false with
        | (.error _, _) => s
        | (.ok f, t) =>
          match v.earlyParts va n f.place with
          | none => s
          | some parts =>
            let (id, t) := t.fresh
            t.setSeq q { v with blk := some { b with loads := ⟨b.idx, [⟨id, va, n, parts⟩]⟩ :: b.loads }
                                early := v.early.filter fun e => !rangesMeet e.va e.size va n }

/-- `ld` (R199). -/
def execLd (d a : Reg) (w : BitVec 2) (u : BitVec 1) (off : BitVec 10) (_ : Pred) (s : State) : Host.Outcome State Fault Refusal :=
  s.runWord fun s x =>
    let n : Nat := 2 ^ w.toNat
    let base := x.reg a
    let va := wordAddr base (off.toInt * n)
    let warn := x.crd [a] ||| warnIf (u == 1 && n == 8) swUNSG
    if x.awaits [a] then (.wait, s)
    else if base.toNat < 2 ^ 56 ∧ isControl va ∧ n = 8 then loadControl s x va d warn
    else match addrCheck base va n with
      | some (c, addr) => (.trap c addr, s)
      | none => loadMemory s x va n (fun b v _ => b.write d (extended n (u == 1) v)) warn

/-- `ldx` (R201). -/
def execLdx (d a : Reg) (w : BitVec 2) (u : BitVec 1) (p : Pred) (off : BitVec 7) (_ : Pred) (s : State) : Host.Outcome State Fault Refusal :=
  s.runWord fun s x =>
    let n : Nat := 2 ^ w.toNat
    let va := wordAddr (x.reg a) (off.toInt * n)
    if x.awaits [a] then (.wait, s)
    else match addrCheck (x.reg a) va n with
      | some (c, addr) => (.trap c addr, s)
      | none =>
        loadMemory s x va n (fun b v there => (b.write d (extended n (u == 1) v)).writePred p there)
          (x.crd [a] ||| warnIf (u == 1 && n == 8) swUNSG)

/-! ## Stores, erases and atomics -/

/-- Queue an access of the block (R183). -/
def queueAccess (s : State) (x : WordCtx) (op : AccessOp) (va : Nat) (place : Place) (size : Nat) (data : List Byte) (aq rl : Bool) (code : Code)
    (regs : List Reg) (warn : Word) : WordRes × State :=
  let (id, s) := s.fresh
  let acc : Access := { id := id, source := .seq x.q, op := op, va := va, place := place, size := size, data := data, aq := aq, rl := rl,
                        tag := x.tag, code := code }
  (.issue ((x.b.queue id x.tag (.access acc) regs).warn warn), s)

/-- The word that an instruction stands for. -/
def codeOf (i : Instr) : Code := (encode i).getD 0

/-- A store of a doubleword to a control address (R138, R305). -/
def storeControl (s : State) (x : WordCtx) (va : Nat) (i : Instr) (v : Word) (warn : Word) : WordRes × State :=
  let trap : WordRes × State := (.trap causeCTL (BitVec.ofNat 64 va), s)
  if isDieControl va then
    match dieControl va with
    | none => trap
    | some off => sendCmd s x (.die (seqDie x.q)) i (BitVec.ofNat 64 va) 0 v [] (warn ||| warnIf (!dieWritable off) swMBZ)
  else
    match (s.regionOf x).bind fun r => s.coreControl r va with
    | none => trap
    | some (n, _) => sendCmd s x (.core n) i (BitVec.ofNat 64 va) 0 v [] warn

/-- The issue of `st` (R199). -/
def stIssue (d a : Reg) (w : BitVec 2) (u : BitVec 1) (off : BitVec 10) (g : Pred) (s : State) (x : WordCtx) : WordRes × State :=
  let n : Nat := 2 ^ w.toNat
  let va := wordAddr (x.reg a) (off.toInt * n)
  let warn := x.crd [a, d] ||| warnIf (u == 1) swUNSG
  if x.awaits [a, d] || x.itemsFull then (.wait, s)
  else if (x.reg a).toNat < 2 ^ 56 ∧ isControl va ∧ n = 8 then storeControl s x va (.st d a w u off g) (x.reg d) warn
  else match addrCheck (x.reg a) va n with
    | some (c, addr) => (.trap c addr, s)
    | none =>
      match s.reach x va true with
      | (.error w, s) => (w, s)
      | (.ok f, s) => queueAccess s x .store va f.place n (leBytes n (x.reg d).toNat) false false (codeOf (.st d a w u off g)) [] warn

/-- `st` (R199); a register write is applied where its command has reached its core or die. -/
def execSt (d a : Reg) (w : BitVec 2) (u : BitVec 1) (off : BitVec 10) (g : Pred) (s : State) : Host.Outcome State Fault Refusal :=
  s.commandWord (stIssue d a w u off g) fun s k c => s.applyRegister k c

/-- `verase` (R202). -/
def execVerase (a : Reg) (x : Bool) (g : Pred) (s : State) : Host.Outcome State Fault Refusal :=
  s.runWord fun s c =>
    let va := (c.reg a).toNat
    let warn := c.crd [a] ||| warnIf x swMBZ
    if c.awaits [a] || c.itemsFull then (.wait, s)
    else match addrCheck (c.reg a) va 1 with
      | some (cause, addr) => (.trap cause addr, s)
      | none =>
        match s.reach c va false with
        | (.error w, s) => (w, s)
        | (.ok f, s) =>
          if !f.tr.vug then (.issue (c.b.warn (warn ||| swVERX)), s)
          else if !f.tr.writable then (.trap causePERM (c.reg a), s)
          else queueAccess s c .erase va f.place 1 [] false false (codeOf (.verase a x g)) [] warn

/-- A read-modify-write (R204, R205): the registers it reads, and what it does with the old value. -/
def State.atomicWord (s : State) (d a b : Reg) (f : AmoFields) (x : Bool) (reads : List Reg) (op : WordCtx → AccessOp) (code : Code) :
    Host.Outcome State Fault Refusal :=
  s.runWord fun s c =>
    let n : Nat := if f.sz = 1 then 8 else 4
    let va := (c.reg a).toNat
    let warn := c.crd reads ||| warnIf x swMBZ ||| (if f.aq = 1 ∨ f.rl = 1 then scopeWarn f.scope else 0)
    if c.awaits reads || c.itemsFull then (.wait, s)
    else match addrCheck (c.reg a) va n with
      | some (cause, addr) => (.trap cause addr, s)
      | none =>
        match s.reach c va true with
        | (.error w, s) => (w, s)
        | (.ok found, s) => queueAccess s c (op c) va found.place n (leBytes n (c.reg b).toNat) (f.aq == 1) (f.rl == 1) code [d] warn

def execAmoAdd (d a b : Reg) (f : AmoFields) (x : Bool) (g : Pred) (s : State) : Host.Outcome State Fault Refusal :=
  s.atomicWord d a b f x [a, b] (fun _ => .amo 0x16) (codeOf (.amoAdd d a b f x g))
def execAmoAnd (d a b : Reg) (f : AmoFields) (x : Bool) (g : Pred) (s : State) : Host.Outcome State Fault Refusal :=
  s.atomicWord d a b f x [a, b] (fun _ => .amo 0x17) (codeOf (.amoAnd d a b f x g))
def execAmoOr (d a b : Reg) (f : AmoFields) (x : Bool) (g : Pred) (s : State) : Host.Outcome State Fault Refusal :=
  s.atomicWord d a b f x [a, b] (fun _ => .amo 0x18) (codeOf (.amoOr d a b f x g))
def execAmoXor (d a b : Reg) (f : AmoFields) (x : Bool) (g : Pred) (s : State) : Host.Outcome State Fault Refusal :=
  s.atomicWord d a b f x [a, b] (fun _ => .amo 0x19) (codeOf (.amoXor d a b f x g))
def execAmoMin (d a b : Reg) (f : AmoFields) (x : Bool) (g : Pred) (s : State) : Host.Outcome State Fault Refusal :=
  s.atomicWord d a b f x [a, b] (fun _ => .amo 0x1A) (codeOf (.amoMin d a b f x g))
def execAmoMax (d a b : Reg) (f : AmoFields) (x : Bool) (g : Pred) (s : State) : Host.Outcome State Fault Refusal :=
  s.atomicWord d a b f x [a, b] (fun _ => .amo 0x1B) (codeOf (.amoMax d a b f x g))
def execAmoMinu (d a b : Reg) (f : AmoFields) (x : Bool) (g : Pred) (s : State) : Host.Outcome State Fault Refusal :=
  s.atomicWord d a b f x [a, b] (fun _ => .amo 0x1C) (codeOf (.amoMinu d a b f x g))
def execAmoMaxu (d a b : Reg) (f : AmoFields) (x : Bool) (g : Pred) (s : State) : Host.Outcome State Fault Refusal :=
  s.atomicWord d a b f x [a, b] (fun _ => .amo 0x1D) (codeOf (.amoMaxu d a b f x g))
def execAmoSwap (d a b : Reg) (f : AmoFields) (x : Bool) (g : Pred) (s : State) : Host.Outcome State Fault Refusal :=
  s.atomicWord d a b f x [a, b] (fun _ => .amo 0x1E) (codeOf (.amoSwap d a b f x g))
/-- `cas`: the expected value is sd as it stands before the word (R205). -/
def execCas (d a b : Reg) (f : AmoFields) (x : Bool) (g : Pred) (s : State) : Host.Outcome State Fault Refusal :=
  s.atomicWord d a b f x [a, b, d] (fun c => .cas (c.reg d)) (codeOf (.cas d a b f x g))

/-! ## Order -/

/-- `fence` (R209): it waits at commit. -/
def execFence (scope : BitVec 4) (x : Bool) (_ : Pred) (s : State) : Host.Outcome State Fault Refusal :=
  s.runWord fun s c =>
    let (id, s) := s.fresh
    (.issue ((c.b.queue id c.tag (.fence (scopeOf scope))).warn (warnIf x swMBZ ||| scopeWarn scope)), s)

/-- `publish` (R213): it acts at commit. -/
def execPublish (d a : Reg) (scope : BitVec 4) (x : Bool) (_ : Pred) (s : State) : Host.Outcome State Fault Refusal :=
  s.runWord fun s c =>
    if c.awaits [a] then (.wait, s)
    else
      let (id, s) := s.fresh
      (.issue ((c.b.queue id c.tag (.publish (c.reg a)) [d]).warn (c.crd [a] ||| warnIf x swMBZ ||| scopeWarn scope)), s)

end Sys2Proof.Machine
end

