-- ==== Sys2Proof/Machine/SeqWindow.lean ====
section
/-! DEFINITION. The windows of a sequencer (08 R177), its CSRs and work ID (R174 to R176, R197; 09 R254), the local window words (09 R222) and the
task words (R243 to R247). -/

namespace Sys2Proof.Machine

/-! ## Sequencer windows (R177) -/

def mdV (d : Word) : Bool := bitAt d 63
def mdElem (d : Word) : Bool := bitAt d 62
def mdCap (d : Word) : Nat := bv d 32 13
def mdBase (d : Word) : Nat := bv d 0 12
/-- Doublewords of an element. -/
def mdStep (d : Word) : Nat := if mdElem d then 4 else 1
def mdSize (d : Word) : Nat := mdStep d * mdCap d

def Seq.desc (v : Seq) (m : BitVec 3) : Word := v.mdesc[m.toFin]
def Seq.win (v : Seq) (m : BitVec 3) : WinState := v.mstat[m.toFin]
def Seq.setWin (v : Seq) (m : BitVec 3) (x : WinState) : Seq := { v with mstat := v.mstat.set m.toFin x }
def Seq.recordWin (v : Seq) (m : BitVec 3) : Bool := mdV (v.desc m) && mdElem (v.desc m)

def Seq.loadLocal (v : Seq) (a : Nat) : Word := sparseGet 0 v.mem a
def Seq.storeLocal (v : Seq) (a : Nat) (x : Word) : Seq := { v with mem := sparseSet 0 v.mem a x }

/-- The first doubleword of the element at offset i from the oldest. -/
def Seq.elemAddr (v : Seq) (m : BitVec 3) (i : Nat) : Nat :=
  let d := v.desc m
  mdBase d + mdStep d * (((v.win m).head + i) % max (mdCap d) 1)

/-- An element: one doubleword, or four. -/
def Seq.elem (v : Seq) (m : BitVec 3) (i : Nat) : List Word := (List.range (mdStep (v.desc m))).map fun k => v.loadLocal (v.elemAddr m i + k)

def Seq.storeWords (v : Seq) (a : Nat) : List Word → Seq
  | [] => v
  | x :: xs => (v.storeLocal a x).storeWords (a + 1) xs

/-- Some elements of a window are gone. -/
def Seq.noteFreed (v : Seq) (m : BitVec 3) (k : Nat) : Seq := { v with freed := v.freed.set m.toFin (v.freed[m.toFin] + k) }

/-- The element at a place of a window, counted from its first element ever, has been filled and not been freed. -/
def Seq.stands (v : Seq) (m : BitVec 3) (p : Nat) : Bool :=
  decide (v.freed[m.toFin] ≤ p) && decide (p < v.freed[m.toFin] + (v.win m).filled)

/-- Free the oldest elements that are filled; the rest is a debt (R123). -/
def Seq.shrinkWin (v : Seq) (m : BitVec 3) (n : Nat) : Seq :=
  let x := v.win m
  let k := min n x.filled
  (v.noteFreed m k).setWin m { x with head := (x.head + k) % max (mdCap (v.desc m)) 1, filled := x.filled - k, debt := min (x.debt + (n - k)) 8191 }

/-- Append one element; while a debt stands it pays it and is freed at once (R124). -/
def Seq.appendElem (v : Seq) (m : BitVec 3) (e : List Word) : Seq :=
  let x := v.win m
  let v := (v.storeWords (v.elemAddr m x.filled) e).setWin m { x with filled := x.filled + 1 }
  if x.debt = 0 then v else ({ v with mstat := v.mstat.set m.toFin { v.win m with debt := x.debt - 1 } }).shrinkWin m 1

def Seq.appendAll (v : Seq) (m : BitVec 3) : List (List Word) → Seq
  | [] => v
  | e :: es => (v.appendElem m e).appendAll m es

/-- A commit effect on the sequencer's own windows. -/
def Seq.applyLocal (v : Seq) : Effect → Seq
  | .winFill m e => v.appendElem m e
  | .winShrink m n => v.shrinkWin m n
  | .winWrite m off e => v.storeWords (v.elemAddr m off) e
  | _ => v

/-- The effect frees or adds elements; a take frees one (R222). -/
def viewEffect (q : Nat) : Effect → Option Effect
  | .winFill m e => some (.winFill m e)
  | .winShrink m n => some (.winShrink m n)
  | .take m victim => if victim = q then some (.winShrink m 1) else none
  | _ => none

/-- The sequencer's windows as the earlier words of the block leave them (R222): everything committed, then what the block frees and adds. -/
def WordCtx.view (x : WordCtx) : Seq :=
  let committed := (x.v.suspended ++ x.v.outbox).foldl (fun v e => v.applyLocal ((viewEffect x.q e.eff).getD e.eff)) x.v
  x.b.effects.foldl (fun v e => match viewEffect x.q e.eff with | some y => v.applyLocal y | none => v) committed

/-- Elements of a window that `wfl` and `task.fill` have reserved room for (R222). -/
def Seq.reserved (v : Seq) (m : BitVec 3) : Nat :=
  let fills (l : List Queued) : Nat := (l.filter fun e => match e.eff with | .winFill m' _ => m' == m | _ => false).length
  fills v.outbox + (match v.blk with | some b => fills b.effects | none => 0)

/-! ## The work ID (R176, R197) -/

def widfWidth (widf : Word) (f : Nat) : Nat := min (bv widf (7 * f) 7) 64
def widfLow (widf : Word) (f : Nat) : Nat := min (((List.range f).map (widfWidth widf)).sum) 64
def widfEff (widf : Word) (f : Nat) : Nat := min (widfWidth widf f) (64 - widfLow widf f)
/-- WIDF as it is stored: a width above 64 as 64, and bits 63:42 zero. -/
def widfStored (x : Word) : Word := BitVec.ofNat 64 (((List.range 6).map fun f => at_ (widfWidth x f) (7 * f) 7).sum)
/-- The total of the widths of WIDF as they are written. DESIGN CHOICE (log 130): a single width above 64 counts in full. -/
def widfTotal (f : Nat) : Nat := ((List.range 6).map fun k => bitsOf f (7 * k) 7).sum
/-- WIDX of a write to WIDF. -/
def widfWarn (x : Word) : Word := warnIf (decide (64 < widfTotal x.toNat)) swWIDX

def widField (wid widf : Word) (f : Nat) : Word :=
  if 6 ≤ f then wid else BitVec.ofNat 64 (bv wid (widfLow widf f) (widfEff widf f))

/-- Write a field of WID. -/
def Seq.setWid (v : Seq) (f : Nat) (x : Word) : Seq :=
  if 6 ≤ f then { v with wid := x }
  else
    let lo := widfLow v.widf f
    let e := widfEff v.widf f
    let old := bv v.wid lo e
    { v with wid := BitVec.ofNat 64 (v.wid.toNat - old * 2 ^ lo + x.toNat % 2 ^ e * 2 ^ lo),
             swarn := v.swarn ||| warnIf (decide (2 ^ e ≤ x.toNat)) swWIDX }

/-! ## CSRs (R174, R175) -/

def csrSSTAT : Nat := 0x001
def csrSWARN : Nat := 0x006
def csrWID : Nat := 0x008
def csrWIDF : Nat := 0x009

/-- MSTAT of a window. -/
def WinState.seqWord (x : WinState) : Word := BitVec.ofNat 64 (at_ x.debt 32 13 + at_ x.filled 16 13 + at_ x.head 0 12)

/-- Read a CSR; a number not listed reads 0. -/
def State.readCsr (s : State) (q : Nat) (n : Nat) : Word :=
  let v := s.seq q
  if n = 0x000 then BitVec.ofNat 64 (q % 4096)
  else if n = 0x001 then BitVec.ofNat 64 (2 * b2n v.eie + b2n v.tl)
  else if n = 0x002 then v.tvec
  else if n = 0x003 then v.epc
  else if n = 0x004 then v.ecause
  else if n = 0x005 then v.eaddr
  else if n = 0x006 then v.swarn
  else if n = 0x008 then v.wid
  else if n = 0x009 then v.widf
  else if n = 0x00A then v.wake
  else if n = 0x00B then v.evwin
  else if n = 0x00C then v.echoi
  else if n = 0x010 then BitVec.ofNat 64 s.now - v.startCycle
  else if n = 0x011 then v.blocks
  else if 0x020 ≤ n ∧ n < 0x028 then v.mdesc[n - 0x020]?.getD 0
  else if 0x028 ≤ n ∧ n < 0x030 then (v.mstat[n - 0x028]?.getD WinState.init).seqWord
  else 0

/-- MDESC as it is stored. -/
def mdescStored (x : Word) : Word := x &&& 0xC0001FFF00000FFF

/-- A descriptor that would be a bound window with a fault (R177). -/
def Seq.mdescBad (v : Seq) (m : BitVec 3) (d : Word) : Bool :=
  mdV d && (mdCap d == 0 || decide (4096 < mdBase d + mdSize d) || (List.finRange 8).any fun k : Fin 8 =>
    k != m.toFin && mdV v.mdesc[k] && decide (mdBase d < mdBase v.mdesc[k] + mdSize v.mdesc[k])
      && decide (mdBase v.mdesc[k] < mdBase d + mdSize d))

/-- A write of MDESC (R177). -/
def Seq.writeMdesc (v : Seq) (m : BitVec 3) (x : Word) : Seq :=
  let d := mdescStored x
  if v.mdescBad m d then { v with swarn := v.swarn ||| swMWX }
  else { v.noteFreed m (v.win m).filled with mdesc := v.mdesc.set m.toFin d, mstat := v.mstat.set m.toFin WinState.init }

/-- The bits of TVEC, ECAUSE and SWARN that are not reserved; the others read as 0, after a restore too (R174, R188, R214). -/
def tvecBits : Word := 0x00FFFFFFFFFFFFFC
def ecauseBits : Word := 0x7FFFFF0F
def swarnBits : Word := 0x1FFF

/-- Write a CSR: a write to one that is read-only or not listed sets MBZ (R174). -/
def Seq.writeCsr (v : Seq) (n : Nat) (x : Word) : Seq :=
  if n = 0x001 then { v with eie := bitAt x 1 }
  else if n = 0x002 then { v with tvec := x &&& tvecBits }
  else if n = 0x003 then { v with epc := x }
  else if n = 0x004 then { v with ecause := x &&& ecauseBits }
  else if n = 0x005 then { v with eaddr := x }
  else if n = 0x006 then { v with swarn := v.swarn &&& ~~~x }
  else if n = 0x008 then { v with wid := x }
  else if n = 0x009 then { v with widf := widfStored x, swarn := v.swarn ||| widfWarn x }
  else if n = 0x00A then { v with wake := x &&& 0xFF }
  else if n = 0x00B then { v with evwin := x &&& 7 }
  else if n = 0x00C then { v with echoi := x }
  else if 0x020 ≤ n ∧ n < 0x028 then v.writeMdesc (BitVec.ofNat 3 (n - 0x020)) x
  else { v with swarn := v.swarn ||| swMBZ }

/-- An earlier word of the block changes a CSR at commit, or a take of it writes WID (R183, R247). -/
def Block.changesCsr (b : Block) (n : Nat) : Bool :=
  b.effects.any fun e =>
    match e.eff with
    | .csrWrite c _ => c.toNat == n
    | .widWrite _ _ => n == csrWID
    | .take _ _ => n == csrWID
    | _ => false

/-- A block that reads WID waits for every take of its sequencer that is outstanding (R247). -/
def Seq.takeOutstanding (v : Seq) : Bool := v.awaits.any (·.isTake)

/-! ## CSR, time and work-ID words -/

/-- `csrr` (R254). -/
def execCsrr (d _ : Reg) (csr : BitVec 10) (_ : Pred) (s : State) : Host.Outcome State Fault Refusal :=
  s.runWord fun s c =>
    if csr.toNat = csrWID ∧ c.v.takeOutstanding then (.wait, s)
    else (.issue ((c.b.write d (c.sees (s.readCsr c.q csr.toNat))).warn (warnIf (c.b.changesCsr csr.toNat) swCRD)), s)

/-- `csrw` (R254). -/
def execCsrw (a : Reg) (csr : BitVec 10) (x : Bool) (_ : Pred) (s : State) : Host.Outcome State Fault Refusal :=
  s.runWord fun s c =>
    if c.awaits [a] then (.wait, s)
    else
      let (id, s) := s.fresh
      (.issue ((c.b.queue id c.tag (.csrWrite csr (c.reg a))).warn (c.crd [a] ||| warnIf x swMBZ)), s)

/-- `time` (R254). -/
def execTime (d : Reg) (x : Bool) (_ : Pred) (s : State) : Host.Outcome State Fault Refusal :=
  s.runWord fun s c => (.issue ((c.b.write d (c.sees s.time)).warn (warnIf x swMBZ)), s)

/-- A `time` word between the head of the block and a place has not read the time: time stamps do not decrease in program order (R254). -/
def Block.timeBefore (b : Block) (k : Nat) : Bool :=
  ((List.range k).drop b.idx).any fun j => (b.readAt j).isNone && match (b.words[j]?).map decodeSeq with | some (.ok (.time ..)) => true | _ => false

/-- What the word at a place that reads no memory reads now, where nothing orders it behind what has not been read or written: the time, a CSR, or a
register at a control address (R182). -/
def State.readsAhead (s : State) (x : WordCtx) (k : Nat) : Option Word :=
  match (x.b.words[k]?).map decodeSeq with
  | some (.ok (.time ..)) => if x.b.timeBefore k then none else some s.time
  | some (.ok (.csrr _ _ csr _)) => if csr.toNat = csrWID ∧ x.v.takeOutstanding then none else some (s.readCsr x.q csr.toNat)
  | some (.ok (.ld ..)) =>
    match x.b.loadAddress k with
    | some (a, va, 8) =>
      if x.awaits [a] ∨ 2 ^ 56 ≤ (x.reg a).toNat ∨ !isControl va ∨ x.b.loadBefore k va 8 then none
      else match s.controlRead x va with
        | some (unit, v) => if x.v.registerWaits unit || x.fenceHolds k then none else some v
        | none => none
    | _ => none
  | _ => none

/-- A word of the block in issue of a sequencer reads before the words before it issue (R182): a load of memory, or what R395 names. -/
def State.issueAhead (s : State) (q k : Nat) : State :=
  let v := s.seq q
  match v.blk with
  | none => s
  | some b =>
    if k ≤ b.idx ∨ !b.guardKnown k ∨ (b.readAt k).isSome then s
    else match s.readsAhead ⟨q, v, b⟩ k with
      | some x => s.setSeq q { v with blk := some { b with reads := (k, x) :: b.reads } }
      | none => s.loadAhead q k

/-- `wid.get` (R197). -/
def execWidGet (d _ : Reg) (f : BitVec 3) (x : Bool) (_ : Pred) (s : State) : Host.Outcome State Fault Refusal :=
  s.runWord fun s c =>
    if c.v.takeOutstanding then (.wait, s)
    else (.issue ((c.b.write d (widField c.v.wid c.v.widf f.toNat)).warn
      (warnIf (f == 7) swRSVF ||| warnIf x swMBZ ||| warnIf (c.b.changesCsr csrWID || (decide (f.toNat < 6) && c.b.changesCsr csrWIDF)) swCRD)), s)

/-- `wid.set` (R197). -/
def execWidSet (_ a : Reg) (f : BitVec 3) (x : Bool) (_ : Pred) (s : State) : Host.Outcome State Fault Refusal :=
  s.runWord fun s c =>
    if c.awaits [a] then (.wait, s)
    else
      let (id, s) := s.fresh
      (.issue ((c.b.queue id c.tag (.widWrite f (c.reg a))).warn (c.crd [a] ||| warnIf (f == 7) swRSVF ||| warnIf x swMBZ)), s)

/-! ## Local window words (R222) -/

/-- The registers that hold an element. -/
def elemRegs (d : Word) (r : Reg) : List Reg := regRun r (mdStep d)

/-- A local window word: WIN where its window is not bound, or where it asks for what the window can never hold. -/
def State.localWord (s : State) (m : BitVec 3) (bad : Word → Bool) (body : State → WordCtx → WordRes × State) : Host.Outcome State Fault Refusal :=
  s.runWord fun s c =>
    let d := c.v.desc m
    if !mdV d || bad d then (.trap causeWIN 0, s) else body s c

/-- `wrd sd, mn, off`. -/
def execWrdLocal (d : Reg) (imm : BitVec 12) (m : BitVec 3) (_ : Pred) (s : State) : Host.Outcome State Fault Refusal :=
  s.localWord m (fun w => decide (mdCap w ≤ imm.toNat)) fun s c =>
    let v := c.view
    if (v.win m).filled ≤ imm.toNat then (.wait, s)
    else (.issue (c.b.writeAll (elemRegs (c.v.desc m) d) (v.elem m imm.toNat)), s)

/-- `wfl mn, sd`: the element is appended at commit, and its room is reserved (R222). -/
def execWflLocal (d : Reg) (_ : BitVec 12) (m : BitVec 3) (_ : Pred) (s : State) : Host.Outcome State Fault Refusal :=
  s.localWord m (fun _ => false) fun s c =>
    let rs := elemRegs (c.v.desc m) d
    if c.awaits rs || decide (mdCap (c.v.desc m) ≤ (c.view.win m).filled) then (.wait, s)
    else
      let (id, s) := s.fresh
      (.issue ((c.b.queue id c.tag (.winFill m (rs.map c.reg))).warn (c.crd rs)), s)

/-- `wshr mn, n`. -/
def execWshrLocal (imm : BitVec 12) (m : BitVec 3) (x : Bool) (_ : Pred) (s : State) : Host.Outcome State Fault Refusal :=
  s.localWord m (fun w => decide (mdCap w < imm.toNat)) fun s c =>
    if (c.view.win m).filled < imm.toNat then (.wait, s)
    else
      let (id, s) := s.fresh
      (.issue ((c.b.queue id c.tag (.winShrink m imm.toNat)).warn (warnIf x swMBZ)), s)

/-- `wst sd, mn, off`: the element is written at commit. -/
def execWstLocal (d : Reg) (imm : BitVec 12) (m : BitVec 3) (_ : Pred) (s : State) : Host.Outcome State Fault Refusal :=
  s.localWord m (fun w => decide (mdCap w ≤ imm.toNat)) fun s c =>
    let rs := elemRegs (c.v.desc m) d
    if c.awaits rs || decide ((c.view.win m).filled ≤ imm.toNat) then (.wait, s)
    else
      let (id, s) := s.fresh
      (.issue ((c.b.queue id c.tag (.winWrite m imm.toNat (rs.map c.reg))).warn (c.crd rs)), s)

/-! ## Tasks (R243 to R247) -/

/-- `task.fill mn, sa` (R244). -/
def execTaskFill (a _ : Reg) (m : BitVec 3) (x : Bool) (_ : Pred) (s : State) : Host.Outcome State Fault Refusal :=
  s.localWord m (fun w => !mdElem w) fun s c =>
    let rs := regRun a 4
    if c.awaits rs || decide (mdCap (c.v.desc m) ≤ (c.view.win m).filled) then (.wait, s)
    else
      let (id, s) := s.fresh
      (.issue ((c.b.queue id c.tag (.winFill m (rs.map c.reg))).warn (c.crd rs ||| warnIf x swMBZ)), s)

/-- `task.take sd, mn` (R244). -/
def execTaskTake (d _ _ : Reg) (m : BitVec 3) (x : Bool) (_ : Pred) (s : State) : Host.Outcome State Fault Refusal :=
  s.localWord m (fun w => !mdElem w) fun s c =>
    let (id, s) := s.fresh
    (.issue ((c.b.queue id c.tag (.take m c.q) (regRun d 5)).warn (warnIf x swMBZ)), s)

/-- `task.steal sd, mn, sa` (R244): TGT where the cluster has no sequencer of the region. -/
def execTaskSteal (d a _ : Reg) (m : BitVec 3) (x : Bool) (_ : Pred) (s : State) : Host.Outcome State Fault Refusal :=
  s.runWord fun s c =>
    let victim := c.q / 256 * 256 + bv (c.reg a) 0 8
    if c.awaits [a] then (.wait, s)
    else if !(match s.regionOf c with | some r => r.seqs.contains victim | none => false) then (.trap causeTGT 0, s)
    else
      let (id, s) := s.fresh
      (.issue ((c.b.queue id c.tag (.take m victim) (regRun d 5)).warn (c.crd [a] ||| warnIf x swMBZ)), s)

/-- `task.done sd, sa`: an `amo.add.d.rl.region` of −1 (R244). -/
def execTaskDone (d a b : Reg) (m : BitVec 3) (x : Bool) (g : Pred) (s : State) : Host.Outcome State Fault Refusal :=
  s.runWord fun s c =>
    let va := (c.reg a).toNat
    if c.awaits [a] || c.itemsFull then (.wait, s)
    else match addrCheck (c.reg a) va 8 with
      | some (cause, addr) => (.trap cause addr, s)
      | none =>
        match s.reach c va true with
        | (.error w, s) => (w, s)
        | (.ok found, s) =>
          queueAccess s c (.amo 0x16) va found.place 8 (leBytes 8 (2 ^ 64 - 1)) false true (codeOf (.taskDone d a b m x g)) [d]
            (c.crd [a] ||| warnIf x swMBZ)

/-- Load one dependence counter of a record; 0 where the record names none (R243). -/
def State.counter (s : State) (r : Region) (q : Nat) (t : Word) : Got × State :=
  let va := bv t 3 53 * 8
  if va = 0 then (.bytes (leBytes 8 0), s) else s.readFor q r.ctx va 8

/-- A take, of identity `id`, from a window of a sequencer: what its reply holds; none where it has to wait for a counter (R245, R220). -/
def State.takeRecord (s : State) (holder thief id : Nat) (m : BitVec 3) : Option (List Word × State) :=
  let v := s.seq holder
  if !v.recordWin m then some ([statusWord stREFUSED], s)
  else if (v.win m).filled = 0 then some ([statusWord stEMPTY], s)
  else
    let e := v.elem m 0
    let t2 := e[2]?.getD 0
    let t3 := e[3]?.getD 0
    let back (st : Word) (s : State) : Option (List Word × State) :=
      some ([st], s.setSeq holder (((s.seq holder).shrinkWin m 1).appendElem m e))
    match s.regionOfSeq holder with
    | none => back (statusWord stREFUSED) s
    | some r =>
      if s.waitsFor thief id (bv t2 3 53 * 8) 8 || s.waitsFor thief id (bv t3 3 53 * 8) 8 then none
      else match s.counter r holder t2 with
        | (.waits, _) => none
        | (.noXlat, s) => back (statusWord stREFUSED) s
        | (.bad, s) => back (statusWord stREFUSED 0xFF) s
        | (.bytes c0, s) =>
          match s.counter r holder t3 with
          | (.waits, _) => none
          | (.noXlat, s) => back (statusWord stREFUSED) s
          | (.bad, s) => back (statusWord stREFUSED 0xFF) s
          | (.bytes c1, s) =>
            if leValue c0 = 0 ∧ leValue c1 = 0 then some (statusWord stDONE :: e, s.setSeq holder ((s.seq holder).shrinkWin m 1))
            else back (statusWord stNOTREADY) s

/-- A word of the block touches a sequencer window. -/
def wordTouches (m : BitVec 3) (w : Code) : Bool :=
  match decodeSeq w with
  | .ok (.wrdLocal _ _ n _) => n == m
  | .ok (.wflLocal _ _ n _) => n == m
  | .ok (.wshrLocal _ n _ _) => n == m
  | .ok (.wstLocal _ _ n _) => n == m
  | .ok (.taskFill _ _ n _ _) => n == m
  | .ok (.taskTake _ _ _ n _ _) => n == m
  | _ => false

/-- A commit effect that is still to be applied touches a sequencer window. -/
def effectTouches (q : Nat) (m : BitVec 3) (e : Queued) : Bool :=
  match e.eff with
  | .winFill n _ => n == m
  | .winShrink n _ => n == m
  | .winWrite n _ _ => n == m
  | .take n victim => n == m && victim == q
  | _ => false

/-- STEAL_APPLY (R246): a take or steal that has reached its window, in order of arrival; it waits while a block of the window's own sequencer
that uses the window is in issue. -/
def execStealApply (seq index : Nat) (s : State) : Host.Outcome State Fault Refusal :=
  let v := s.seq seq
  match v.arrivedTakes[index]? with
  | none => .next s
  | some t =>
    if (v.arrivedTakes.take index).any (fun u => u.win == t.win) || (v.suspended ++ v.outbox).any (effectTouches seq t.win)
        || (match v.blk with | some b => b.words.any (wordTouches t.win) | none => false) then .next s
    else match s.takeRecord seq t.thief t.id t.win with
      | none => .next s
      | some (vals, s) =>
        let v := s.seq seq
        .next ((s.setSeq seq { v with arrivedTakes := dropNth v.arrivedTakes index }).reply (.seq seq) t.thief t.id vals true)

end Sys2Proof.Machine
end

