-- ==== Sys2Proof/Machine/Formats.lean ====
section
/-! DEFINITION. Storage formats of the edge unit: conversions (07 R156 to R158), the bit-plane family (R160 to R164), and LW36 packing (R157). -/

namespace Sys2Proof.Machine

/-! ## EWARN (R171) -/

def ewCONV : Lane := 0x1
def ewQCLAMP : Lane := 0x2
def ewQNAN : Lane := 0x4
def ewESCL : Lane := 0x8
def ewGIDX : Lane := 0x10
def ewRAGP : Lane := 0x20
def ewSCOPE : Lane := 0x40
def ewELAS : Lane := 0x80
def ewRSVD : Lane := 0x100

/-! ## Elements of whole bytes, and single bits (R158) -/

/-- A lane word from a stored element. -/
def loadElem (fmt raw : Nat) : Lane :=
  match fmt with
  | 0 => fp32.toFf36 raw
  | 1 => bf16.toFf36 raw
  | 2 => fp16.toFf36 raw
  | 3 => BitVec.ofInt 36 (BitVec.ofNat 32 raw).toInt
  | 4 => BitVec.ofInt 36 (BitVec.ofNat 16 raw).toInt
  | 5 => BitVec.ofInt 36 (BitVec.ofNat 8 raw).toInt
  | _ => BitVec.ofNat 36 raw

/-- A value clamped to a range, in n bits, and whether the clamp changed it. -/
def clampTo (lo hi : Int) (n : Nat) (w : Lane) : Nat × Bool :=
  let v := max lo (min hi w.toInt)
  ((BitVec.ofInt n v).toNat, v != w.toInt)

/-- A stored element from a lane word, and whether the conversion changed the value. -/
def storeElem (fmt : Nat) (w : Lane) : Nat × Bool :=
  match fmt with
  | 0 => fp32.ofFf36 w
  | 1 => bf16.ofFf36 w
  | 2 => fp16.ofFf36 w
  | 3 => clampTo (-(2 ^ 31)) (2 ^ 31 - 1) 32 w
  | 4 => clampTo (-(2 ^ 15)) (2 ^ 15 - 1) 16 w
  | 5 => clampTo (-(2 ^ 7)) (2 ^ 7 - 1) 8 w
  | 6 => clampTo 0 255 8 w
  | 7 => (w.toNat % 2, false)
  | _ => (w.toNat, false)

/-! ## LW36 (R157) -/

/-- The 36 bytes of up to eight lane words; a missing word is 0. -/
def lw36Group (l : List Lane) : List Byte :=
  leBytes 36 (((l.take 8).zipIdx.map fun (w, n) => w.toNat * 2 ^ (36 * n)).sum)

/-- Lane words packed in groups of eight; n groups. -/
def lw36Pack : Nat → List Lane → List Byte
  | 0, _ => []
  | n + 1, l => lw36Group (l.take 8) ++ lw36Pack n (l.drop 8)

/-- Lane word k of LW36 bytes. -/
def lw36At (bytes : List Byte) (k : Nat) : Lane :=
  BitVec.ofNat 36 (leValue ((bytes.drop (k / 8 * 36)).take 36) / 2 ^ (36 * (k % 8)))

/-- The first n lane words of LW36 bytes. -/
def lw36Unpack (bytes : List Byte) (n : Nat) : List Lane := (List.range n).map (lw36At bytes)

/-! ## The helictite function (R161) -/

/-- Di and Df of a seed and a frame index. -/
def helictite (seed : Word) (i : Nat) : Nat × Nat :=
  let x := seed ^^^ BitVec.ofNat 64 i
  let x := x ^^^ (x >>> 31)
  let x := x * 0x9F6A31C5D2E48B37
  let x := x ^^^ (x >>> 29)
  let d := x.toNat / 2 ^ 40
  (d / 2 ^ 16, d % 2 ^ 16)

/-! ## Block scales and codes (R160, R162, R163) -/

/-- t as m × 2^e; none unless it is finite and positive (R163). -/
def tensorScale (t : Nat) : Option (Nat × Int) :=
  match fp32.value t with
  | .fin false m e => if m = 0 then none else some (m, e)
  | _ => none

/-- S = t × 2^(E − 127). -/
def blockScale (t e : Nat) : Nat × Int :=
  match tensorScale t with
  | some (m, x) => (m, x + e - 127)
  | none => (1, 0)

/-- a × 2^x ≤ b × 2^y. -/
def scaledLe (a : Nat) (x : Int) (b : Nat) (y : Int) : Bool :=
  let lo := min x y
  decide (a * 2 ^ (x - lo).toNat ≤ b * 2 ^ (y - lo).toNat)

/-- The scale byte of a block from its maximum M, and whether ESCL is set (R162). -/
def blockExponent (mx : Lane) (t kmin : Nat) : Nat × Bool :=
  match ff mx with
  | .nan => (255, true)
  | .inf neg => if neg then (0, false) else (255, true)
  | .fin neg m e =>
    if neg || m == 0 then (0, false)
    else
      let fits (k : Nat) : Bool := let (sm, se) := blockScale t k; scaledLe m e (sm * (128 - 2 ^ (8 - kmin))) se
      match (List.range 256).find? fits with
      | some k => (k, false)
      | none => (255, true)

/-- floor(x / S + 128 + Df × 2^-16) for x = ± m × 2^e. -/
def quantised (neg : Bool) (m : Nat) (e : Int) (s : Nat × Int) (df : Nat) : Int :=
  let sh := e - s.2
  let num : Int := (m : Int) * 2 ^ sh.toNat * 2 ^ 16
  let den : Int := (s.1 : Int) * 2 ^ (-sh).toNat
  ((if neg then -num else num) + (128 * 2 ^ 16 + (df : Int)) * den) / (den * 2 ^ 16)

/-- The code of an element and the EWARN bits that storing it sets (R162). -/
def qcode (x : Lane) (e t di df kmin : Nat) : Nat × Lane :=
  let top : Int := 256 - 2 ^ (8 - kmin)
  let (a, w) : Int × Lane :=
    match ff x with
    | .nan => (128, ewQNAN)
    | v =>
      let a := match v with
        | .inf neg => if neg then -1 else top + 1
        | .fin neg m ex => quantised neg m ex (blockScale t e) df
        | .nan => 128
      if a < 0 then (0, ewQCLAMP) else if top < a then (top, ewQCLAMP) else (a, 0)
  ((a + di).toNat % 256, w)

/-- The value of a code read with k planes, and whether the product overflowed (R163). -/
def bpval (c e t di df k : Nat) : Lane × Bool :=
  let m := 8 - k
  let q : Int := ((c / 2 ^ m : Nat) - (di / 2 ^ m : Nat) : Int) % 2 ^ k
  let v : Int := q * 2 ^ m * 2 ^ 16 + 2 ^ (m + 15) - 128 * 2 ^ 16 - (di % 2 ^ m : Nat) * 2 ^ 16 - df
  let (sm, se) := blockScale t e
  let r := rndFin .rne (decide (v < 0)) (v.natAbs * sm) (se - 16)
  (r.val, r.flags != 0)

end Sys2Proof.Machine
end

