-- ==== Sys2Proof/Machine/EdgeStream.lean ====
section
/-! DEFINITION. What the runs of an edge slot do: their accesses and translations (14 R310, R311), loads (07 R150 to R154, R158, R163, R167; 14
R319), stores (07 R150, R155, R162), erases (14 R318), translation streams (14 R312), tokens and permits (07 R152, R154, R169), completion
(07 R168). -/

namespace Sys2Proof.Machine

/-! ## Translation (R310, R311) -/

/-- The cause of EFAULT for a failed translation (R304, R311); 0 for one that waits for a link (R300). -/
def edgeCause (code : Nat) : Nat := if code = codeFloor then 4 else if code = codeStopped then 0 else 2

/-- Latch a translation, at most four of them, the least recently used replaced (R310). -/
def latch (l : List Trans) (t : Trans) : List Trans := (t :: l.filter (· != t)).take 4

/-- An edge slot translates an address, with its latches; the error is an EFAULT cause. -/
def State.edgeTranslate (s : State) (n : Nat) (e : Fin 4) (va : Int) (write : Bool) : Except Nat Found × State :=
  match s.regionOfCore n with
  | none => (.error 2, s)
  | some r =>
    if va < 0 ∨ 2 ^ 56 ≤ va ∨ s.shadowed r.ctx va.toNat then (.error 2, s)
    else
      let a := s.mappedVa r.ctx va.toNat
      let sl := s.edgeSlot n e
      let found : Except Nat Trans × State := match sl.latches.find? fun t => t.covers a with
        | some t => (.ok t, s)
        | none => s.translateTlb (clusterOf n) r.ctx a true (some (.run n e))
      match found with
      | (.error c, s) => (.error (edgeCause c), s)
      | (.ok t, s) =>
        if write && !t.writable then (.error 2, s)
        else (.ok ⟨t, a⟩, s.setEdge n e { s.edgeSlot n e with latches := latch (s.edgeSlot n e).latches t })

/-- An address as EFAULT's record and a retry see it. -/
def addrWord (va : Int) : Word := BitVec.ofInt 64 (va % 2 ^ 56)

/-- Pieces of at most eight bytes that do not cross an aligned doubleword: how an element is accessed whose address is not a multiple of its
size, which the manual does not say (log 110). -/
def pieces : Nat → Int → Nat → List (Int × Nat)
  | 0, _, _ => []
  | fuel + 1, va, n =>
    if n = 0 then [] else
      let k := min n (8 - (va % 8).toNat)
      (va, k) :: pieces fuel (va + k) (n - k)

def splitAt8 (va : Int) (n : Nat) : List (Int × Nat) := pieces (n / 8 + 2) va n

/-- Translate some addresses, in order; the error is a cause and the address that it is of. -/
def State.edgePlaces (s : State) (n : Nat) (e : Fin 4) (write : Bool) : List Int → Except (Nat × Int) (List Found) × State
  | [] => (.ok [], s)
  | va :: rest =>
    match s.edgeTranslate n e va write with
    | (.error c, s) => (.error (c, va), s)
    | (.ok f, s) =>
      match s.edgePlaces n e write rest with
      | (.ok l, s) => (.ok (f :: l), s)
      | r => r

/-- Issue the loads of some pieces, where all of them translate (R298). -/
def State.edgeFetch (s : State) (n : Nat) (e : Fin 4) (l : List (Int × Nat)) : Except (Nat × Int) (List Piece) × State :=
  match s.edgePlaces n e false (l.map (·.1)) with
  | (.error x, s) => (.error x, s)
  | (.ok fs, s) =>
    let (ps, s) := s.sendLoads (.edge n e) ((l.map fun (va, k) => (va.toNat, k)).zip fs)
    (.ok ps, s)

/-- A token is withheld for want of an access to an address (R268); for cause 0 the run only waits (R300). -/
def State.edgeFault (s : State) (n : Nat) (e : Fin 4) (cause : Nat) (va : Int) : State :=
  if cause = 0 then s
  else
    let s := s.edgeWithhold n e cause (addrWord va)
    s.setEdge n e { s.edgeSlot n e with blocked := true, faultAddr := addrWord va, faultCause := cause }

/-- An edge unit has read some store words and goes on: single errors are corrected and counted; an uncorrectable one stops the core, and
nothing that was read is used (R120, R144; log 107). -/
def State.edgeRead (s : State) (n : Nat) (reads : List (Nat × Win)) (f : State → State) : State :=
  let c := s.core n
  match c.badRead reads with
  | some hit => if c.stop then s else s.storeFault n 0 0 hit
  | none => f (s.setCore n (c.correctStore reads))

/-! ## Where an element lies -/

/-- The indices of the element at the cursor as they enter addresses, for tokens and row starts (R152, R153). -/
def EdgeSlot.place (e : EdgeSlot) (cur : Vector Nat 5) (rowStart : Int) : Where :=
  { i0 := rowStart + cur[0], i1 := if e.byToken then (e.token.getD 0).toInt else if e.kind = 5 then 0 else cur[1], i2 := cur[2], i3 := cur[3],
    i4 := cur[4] }

/-- A row taken by a token is clipped as a whole (R152). -/
def EdgeSlot.tokenOut (e : EdgeSlot) (t : Lane) : Bool := decide (t.toInt < 0) || (e.lim 1 != 0 && decide ((e.lim 1 : Int) ≤ t.toInt))

/-- The element at the cursor is clipped by its place (R151). -/
def EdgeSlot.clipped (e : EdgeSlot) (cur : Vector Nat 5) : Bool :=
  (e.kind != 5 && e.clippedAt 0 cur[0]) || (!e.byToken && e.clippedAt 1 cur[1]) || e.clippedAt 2 cur[2] || e.clippedAt 3 cur[3] || e.clippedAt 4 cur[4]

/-- Its row is clipped as a whole by its token. -/
def EdgeSlot.rowOut (e : EdgeSlot) : Bool := e.byToken && e.tokenOut (e.token.getD 0)

/-! ## Ends of runs (R146, R226) -/

/-- A run ends: the slot stands bound again (R146), and its latches go (R310). -/
def EdgeSlot.endRun (e : EdgeSlot) (how : RunEnd) : EdgeSlot :=
  { e with state := .bound, runEnd := how, latches := [], planes := none, partialBeat := Beat.blank 0 0, partialExists := Vector.replicate 16 0,
           closed := false, token := none, rowTokens := [], tokenAhead := none, maxima := [], fetches := [], pointersAhead := [], rowLo := none, rowHi := none,
           pointers := [], rowEnds := [],
           tokenPending := false, withheldSince := none, retryDue := false, blocked := false, retried := [], waitFlip := false, parked := false,
           stopping := false, failed := [], packBuf := [], passed := [] }

/-- The slot may move: it runs, and neither the core's flip nor a freeze holds it (R235, R269, R272). -/
def State.edgeRuns (s : State) (n : Nat) (e : Fin 4) : Bool :=
  let sl := s.edgeSlot n e
  sl.state == .running && !sl.waitFlip && !sl.parked && !s.coreStopping n

/-- As `edgeRuns`, for a load run that goes on to its beat boundary while the region stops (R269, R272). -/
def State.loadRuns (s : State) (n : Nat) (e : Fin 4) : Bool :=
  let sl := s.edgeSlot n e
  sl.state == .running && !sl.waitFlip && !sl.parked
    && (match s.regionOfCore n with | some r => !r.frozen && (!r.freezing || sl.closed || sl.partialBeat.count != 0) | none => false)

/-! ## Loads: the beat being assembled -/

/-- Close the beat being assembled, with a marker. -/
def EdgeSlot.close (e : EdgeSlot) (m : BitVec 3) : EdgeSlot := { e with partialBeat := { e.partialBeat with mark := m, graph := e.graph }, closed := true }

/-- A beat of COUNT 0 with a marker, closed. -/
def EdgeSlot.mark (e : EdgeSlot) (m : BitVec 3) : EdgeSlot :=
  { e with partialBeat := { Beat.blank 0 m with graph := e.graph }, partialExists := Vector.replicate 16 0, closed := true }

/-- Put a value into the next lane of the beat being assembled; the sixteenth closes it (R150). -/
def EdgeSlot.push (e : EdgeSlot) (v : Lane) (there : Bool) : EdgeSlot :=
  let b := e.partialBeat
  let e := { e with partialBeat := { b with lanes := b.lanes.setIfInBounds b.count v, count := b.count + 1 },
                    partialExists := e.partialExists.setIfInBounds b.count (laneOfBool there), elements := e.elements + 1 }
  if e.partialBeat.count = 16 then e.close markNone else e

/-- The index vector after one, with dimension 0 of a given length; none after the last. -/
def EdgeSlot.after (e : EdgeSlot) (len0 : Nat) (cur : Vector Nat 5) : Option (Vector Nat 5) :=
  nextIndex (fun d => if d = 0 then len0 else e.walk d) cur 0 5

/-- Step the cursor, with dimension 0 of a given length; after the last element the run has no more. -/
def EdgeSlot.advance (e : EdgeSlot) (len0 : Nat) : EdgeSlot :=
  match e.after len0 e.cursor with
  | some c => { e with cursor := c }
  | none => { e with finished := true }

/-- The fill of a closed beat into WIN, and of its existence words into IWIN (R150, R319): before any SWAP that is to follow the run (R232). -/
def Core.edgeFill (c : Core) (e : Fin 4) : Option Core :=
  let sl := c.edge[e]
  match c.fillFree sl.win sl.partialBeat with
  | none => none
  | some c1 =>
    let filled := if sl.xflag && (sl.kind == 0 || sl.kind == 5) then c1.fillFree sl.iwin { sl.partialBeat with lanes := sl.partialExists } else some c1
    filled.map fun c2 =>
      { c2 with edge := c2.edge.set e { c2.edge[e] with partialBeat := Beat.blank 0 0, partialExists := Vector.replicate 16 0, closed := false } }

/-! ## Loads: what an element needs -/

/-- The planes that a slot names for a group (R163). -/
def EdgeSlot.planesNamed (sl : EdgeSlot) : Nat := if sl.dscope = 0 then sl.planeCount else sl.dscope

/-- The planes that a plane group is read with, chosen once for the group (R163, R167). -/
def State.planesFor (s : State) (n : Nat) (e : Fin 4) (g : Int) : Nat × State :=
  let sl := s.edgeSlot n e
  match sl.planes with
  | some (g', k) => if (g' : Int) = g then (k, s) else choose s sl
  | none => choose s sl
where
  choose (s : State) (sl : EdgeSlot) : Nat × State :=
    let named := sl.planesNamed
    let free := sl.elastic && s.pkg.degbw && s.feature featElastic && decide (sl.kmin < named)
    let k := if free then sl.kmin + Config.elasticPlanes s.frees % (named - sl.kmin + 1) else named
    let s := if free then { s with frees := s.frees + 1 } else s
    (k, s.setEdge n e { sl with planes := some (g.toNat, k) })

/-- k planes are read: KREAD, and ELAS where the slot names more (R167, R171). -/
def Core.planesRead (c : Core) (e : Fin 4) (k : Nat) : Core :=
  let sl := c.edge[e]
  { c with edge := c.edge.set e { sl with kread := if sl.kread = 0 then k else min sl.kread k },
           ewarn := if k < sl.planesNamed then c.ewarn ||| ewELAS else c.ewarn }

/-- The bytes of an element, lowest first: of BP8 and BP4 a byte of each plane that is read, and the scale byte (R156, R157, R160). -/
def EdgeSlot.elementPieces (sl : EdgeSlot) (w : Where) (planes : Nat) : List (Int × Nat) :=
  if sl.fmt = 7 then splitAt8 (sl.addr w) 1
  else if sl.fmt = 8 then
    let lo := 36 * (w.i0 % 8).toNat
    splitAt8 (sl.addr w + (lo / 8 : Nat)) ((lo + 35) / 8 - lo / 8 + 1)
  else if sl.bp then
    ((List.range planes).map fun p => (sl.groupAddr w + (128 * p + (w.i0 % 1024).toNat / 8 : Nat), 1)) ++ [(sl.scaleAddr w, 1)]
  else splitAt8 (sl.addr w) (elemBytes sl.fmt)

/-- The word that an element is delivered as, from its bytes, and whether a product overflowed (R157, R158, R163). -/
def EdgeSlot.elementValue (sl : EdgeSlot) (w : Where) (planes raw : Nat) : Lane × Bool :=
  if sl.fmt = 7 then (BitVec.ofNat 36 (raw / 2 ^ (w.i0 % 8).toNat % 2), false)
  else if sl.fmt = 8 then (BitVec.ofNat 36 (raw / 2 ^ (36 * (w.i0 % 8).toNat % 8)), false)
  else if sl.bp then
    let c := ((List.range planes).map fun p => raw / 2 ^ (8 * p + (w.i0 % 8).toNat) % 2 * 2 ^ (7 - p)).sum
    let (di, df) := helictite sl.seed (sl.frame w)
    bpval c (raw / 2 ^ (8 * planes) % 256) sl.tensorScale di df planes
  else (loadElem sl.fmt raw, false)

/-- The lengths of dimension 0 and the rank at the end of the row at the cursor, for kinds but ragged. -/
def EdgeSlot.rankHere (sl : EdgeSlot) : Nat := sl.boundary sl.walk sl.cursor

/-- A load run delivers one element of a row: a word, and the marker where the row ends (R150). -/
def EdgeSlot.deliver (sl : EdgeSlot) (v : Lane) (there : Bool) (len0 rank : Nat) : EdgeSlot :=
  let sl' := ({ sl with fetches := sl.fetches.drop 1 }.push v there).advance len0
  let sl' := if 1 ≤ rank then sl'.close (BitVec.ofNat 3 rank) else sl'
  let sl' := if 2 ≤ rank then { sl' with tileOpen := false } else sl'
  if sl'.finished ∧ !sl'.closed then sl'.close markNone else sl'

/-- The row of the element delivered is over, where it was its last: a token, or row pointers, are needed for the next (R152, R153). -/
def EdgeSlot.endRow (sl : EdgeSlot) (ends : Bool) : EdgeSlot :=
  if !ends then sl
  else if sl.kind = 5 then { sl with rowLo := sl.rowHi, rowHi := sl.rowEnds.head?, rowEnds := sl.rowEnds.drop 1 }
  else if sl.byToken then { sl with token := none }.keepUnits sl.visited
  else sl

/-- A permit has to be taken before the element at the cursor, and before its token (R154, log 112). -/
def EdgeSlot.wantsPermit (sl : EdgeSlot) : Bool :=
  sl.loadKind && sl.permit && sl.tiled && !sl.tileOpen && !sl.firstTile && !sl.permitTaken

/-- A tile has to be opened before the next element: SOT, or a permit first (R150, R154). -/
def EdgeSlot.openTile (sl : EdgeSlot) : EdgeSlot :=
  if sl.wantsPermit then { sl with state := .waitPermit }
  else { sl.mark markSOT with tileOpen := true, firstTile := false, permitTaken := false }

/-! ## Loads: issue and delivery -/

/-- The row of a load run as its elements are issued and delivered: the length of dimension 0, what is added to i0, the rank at its last element,
and whether it is clipped as a whole. -/
structure RowShape where
  len0 : Nat
  start : Int
  rank : Vector Nat 5 → Nat
  out : Bool

/-- The row of an element of a load or gather. -/
def EdgeSlot.rowAt (sl : EdgeSlot) (idx : Vector Nat 5) : RowShape := ⟨sl.walk 0, 0, sl.boundary sl.walk, (sl.inRow idx).rowOut⟩

/-- Row r of a ragged run, where its pointers have been read (R153): at the cursor or behind it. -/
def EdgeSlot.raggedRow (sl : EdgeSlot) (r : Nat) : Option RowShape :=
  let ends := sl.rowLo :: sl.rowHi :: sl.rowEnds.map some
  let k := r - sl.cursor[1]
  match ends[k]?.join, ends[k + 1]?.join with
  | some p, some p' =>
    let lo := (BitVec.ofNat 32 p).toInt
    let len := ((BitVec.ofNat 32 p').toInt - lo).toNat
    let rank := if sl.walk 1 ≤ r + 1 then max (sl.rank 0) (sl.rank 1) else sl.rank 0
    some ⟨len, lo, fun i => if len ≤ i[0] + 1 then rank else 0, false⟩
  | _, _ => none

/-- What a load run may do behind the elements that it has issued, while the one at its cursor has not performed (R169): issue an element, read the
token or the pointer that the next row needs, or take the permit of the next tile. -/
inductive Beyond where
  | element (idx : Vector Nat 5) (row : RowShape)
  | token
  | permit
  | pointer
  | nothing

/-- From the first element of a row of a gather on: the first row that is not passed over (R152). -/
def EdgeSlot.gatherBeyond (sl : EdgeSlot) : Nat → Vector Nat 5 → Beyond
  | 0, _ => .nothing
  | fuel + 1, idx =>
    match sl.tokenOf (sl.rowOf idx) with
    | none => if sl.rowTokens.length < sl.tokenRoom ∧ sl.tokensTaken = sl.rowOf idx then .token else .nothing
    | some t =>
      if sl.tokenOut t && sl.clipSkip then
        match sl.after (sl.walk 0) (idx.set 0 (sl.walk 0 - 1)) with
        | some i => sl.gatherBeyond fuel i
        | none => .nothing
      else .element idx (sl.rowAt idx)

/-- From row r of a ragged run on: the first row that is not empty; a tile is entered only where a permit for it stands in IWIN (R154). -/
def EdgeSlot.raggedBeyond (sl : EdgeSlot) (permits : Nat) : Nat → Nat → Beyond
  | 0, _ => .nothing
  | fuel + 1, r =>
    if sl.walk 1 ≤ r ∨ (sl.permit ∧ 2 ≤ sl.rank 0 ∧ permits < r - sl.cursor[1]) then .nothing
    else match sl.raggedRow r with
      | none => if sl.rowEnds.length < 64 then .pointer else .nothing
      | some row => if row.len0 = 0 then sl.raggedBeyond permits fuel (r + 1) else .element ((sl.cursor.set 0 0).set 1 r) row

/-- What comes behind the elements in flight: at most 64 of them (R311), and no tile without its permit: one that stands in IWIN, or, where tokens come
behind it there, one that the run has taken, for one tile behind that at the cursor (R154; log 111). -/
def EdgeSlot.beyond (sl : EdgeSlot) (permits : Nat) : Beyond :=
  match sl.fetches.getLast? with
  | none => .nothing
  | some f =>
    if 64 < sl.fetches.length then .nothing
    else if sl.kind = 5 then
      match sl.raggedRow f.index[1] with
      | none => .nothing
      | some row => if f.index[0] + 1 < row.len0 then .element (f.index.set 0 (f.index[0] + 1)) row else sl.raggedBeyond permits 65 (f.index[1] + 1)
    else
      let tiles := (sl.fetches.filter fun g => decide (2 ≤ sl.boundary sl.walk g.index)).length
      if sl.permit && !sl.byToken && decide (permits < tiles) then .nothing
      else if sl.permit && sl.byToken && tiles != 0 && !(tiles == 1 && sl.tileOpen && sl.permitTaken) then
        if tiles = 1 ∧ sl.tileOpen ∧ !sl.permitTaken ∧ 0 < permits then .permit else .nothing
      else match sl.after (sl.walk 0) f.index with
      | none => .nothing
      | some i => if sl.byToken && i[0] == 0 then sl.gatherBeyond 65 i else .element i (sl.rowAt i)

/-- Issue an element of a load run: it makes its loads, or none where it is clipped. Where it does not translate, the element at the cursor
withholds, and a later one is left for then (R311). -/
def State.loadIssue (s : State) (n : Nat) (e : Fin 4) (row : RowShape) (idx : Vector Nat 5) : State :=
  let sl := s.edgeSlot n e
  let w := (sl.inRow idx).place idx row.start
  let none_ := row.out || sl.clipped idx
  let (k, s') := if none_ || !sl.bp then (0, s) else s.planesFor n e (sl.groupAddr w)
  match s'.edgeFetch n e (if none_ then [] else sl.elementPieces w k) with
  | (.error (cause, va), s') => if sl.fetches.isEmpty then s'.edgeFault n e cause va else s
  | (.ok ps, s') =>
    let c := s'.core n
    let c := if none_ || !sl.bp then c else c.planesRead e k
    let c := if sl.byToken && decide (row.len0 ≤ idx[0] + 1) then (if sl.rowOf idx = sl.rowNow then c.rowIssued e else c.aheadIssued e) else c
    let sl := c.edge[e]
    s'.setCore n { c with edge := c.edge.set e { sl with fetches := sl.fetches ++ [⟨idx, k, ps⟩] } }

/-- The token at the head of IWIN is read, a valid lane or a word; it stays there until its row has been issued. GIDX where it is out of range
(R152). -/
def State.readToken (s : State) (n : Nat) (e : Fin 4) (f : Lane → State → State) : State :=
  let c := s.core n
  let sl := c.edge[e]
  let (found, reads) := c.laneAhead sl.iwin sl.iLaneUsed 0
  match found with
  | none => s
  | some x =>
    s.edgeRead n reads fun s =>
      let c := s.core n
      let c := if x.skip = 0 then c else c.shrinkWin sl.iwin x.skip false
      f x.value (s.setCore n { c with edge := c.edge.set e { c.edge[e] with iLaneUsed := x.lane + 1 },
                                      ewarn := if sl.kind != 6 && sl.tokenOut x.value then c.ewarn ||| ewGIDX else c.ewarn })

/-- A token is read for a row behind the one at the cursor; one whose row is passed over is done with. -/
def State.nextToken (s : State) (n : Nat) (e : Fin 4) : State :=
  s.readToken n e fun t s =>
    let c := s.core n
    let sl := c.edge[e]
    let c := { c with edge := c.edge.set e { sl with tokenAhead := some t } }
    s.setCore n (if sl.tokenOut t && sl.clipSkip then c.aheadIssued e else c)

/-- RAGP where a row of a ragged run has pointers that decrease (R153). -/
def ragWarn (lo hi : Nat) : Lane := if (BitVec.ofNat 32 hi).toInt < (BitVec.ofNat 32 lo).toInt then ewRAGP else 0

/-- The pieces of row pointer i (R153). -/
def EdgeSlot.pointerAt (sl : EdgeSlot) (i : Nat) : List (Int × Nat) := splitAt8 ((sl.auxa + 4 * i : Nat) : Int) 4

/-- Row pointer i has been read ahead: its load stands for that of the row that needs it now. -/
def EdgeSlot.takePointer (sl : EdgeSlot) (i : Nat) : Option EdgeSlot :=
  match sl.pointersAhead.find? fun p => p.1 == i with
  | some p => some { sl with pointers := p.2, pointersAhead := sl.pointersAhead.filter fun o => o.1 != i }
  | none => none

/-- The pointer that the row behind those known needs is read, once; where it cannot be, it is left until its row is at the cursor. -/
def State.nextPointer (s : State) (n : Nat) (e : Fin 4) : State :=
  let sl := s.edgeSlot n e
  let i := sl.cursor[1] + sl.rowEnds.length + 2
  if sl.pointers.isEmpty then
    match sl.takePointer i with
    | some sl' => s.setEdge n e sl'
    | none =>
      match s.edgeFetch n e (sl.pointerAt i) with
      | (.error _, _) => s
      | (.ok ps, s) => s.setEdge n e { s.edgeSlot n e with pointers := ps }
  else match gatherPieces sl.pointers with
    | .value raw _ =>
      let c := s.core n
      let hi := raw % 2 ^ 32
      let lo := match sl.rowEnds.getLast? with | some p => p | none => sl.rowHi.getD 0
      s.setCore n { c with edge := c.edge.set e { sl with rowEnds := sl.rowEnds ++ [hi], pointers := [] }, ewarn := c.ewarn ||| ragWarn lo hi }
    | _ => s

/-- A load run goes on behind the elements that it has issued. -/
def State.loadBeyond (s : State) (n : Nat) (e : Fin 4) : State :=
  let c := s.core n
  match c.edge[e].beyond (c.extent c.edge[e].iwin) with
  | .element idx row => s.loadIssue n e row idx
  | .token => s.nextToken n e
  | .permit =>
    if (c.headOffset c.edge[e].iwin).isNone then s
    else s.setCore n { c.shrinkWin c.edge[e].iwin 1 false with
      edge := (c.shrinkWin c.edge[e].iwin 1 false).edge.set e { c.edge[e] with permitTaken := true, iLaneUsed := 0 } }
  | .pointer => s.nextPointer n e
  | .nothing => s

/-- The existence bit of an element that has been loaded: of BP8 and BP4 that of its records, whatever holds the scale (R319). -/
def EdgeSlot.exists_ (sl : EdgeSlot) (f : Fetch) : Bool :=
  match gatherPieces (if sl.bp then f.pieces.take f.planes else f.pieces) with
  | .value _ there => there && !f.pieces.isEmpty
  | _ => false

/-- One move of a load run at the element at its cursor: deliver it, once all its loads have performed, or go on behind it. -/
def State.loadElement (s : State) (n : Nat) (e : Fin 4) (row : RowShape) : State :=
  let sl := s.edgeSlot n e
  match sl.fetches with
  | [] => s.loadIssue n e row sl.cursor
  | f :: _ =>
    match gatherPieces f.pieces with
    | .waits => s.loadBeyond n e
    | .bad va => s.edgeFault n e 4 va
    | .value raw _ =>
      let (v, ovf) := if f.pieces.isEmpty then (0, false) else sl.elementValue (sl.place sl.cursor row.start) f.planes raw
      let c := s.core n
      let sl' := (sl.deliver v (sl.exists_ f) row.len0 (row.rank sl.cursor)).endRow (decide (row.len0 ≤ sl.cursor[0] + 1))
      s.setCore n { c with edge := c.edge.set e sl', ewarn := if ovf then c.ewarn ||| ewCONV else c.ewarn }

/-- One move of a load or gather run, between beats that are closed. -/
def State.loadNext (s : State) (n : Nat) (e : Fin 4) : State :=
  let sl := s.edgeSlot n e
  if sl.wantsPermit then s.setEdge n e { sl with state := .waitPermit }
  else if sl.byToken && sl.token.isNone then s
  else if sl.tiled && !sl.tileOpen then s.setEdge n e sl.openTile
  else s.loadElement n e (sl.rowAt sl.cursor)

/-- The row pointers that row r still needs: P[r], where the row before has not left it, and P[r + 1] (R153). -/
def EdgeSlot.pointerPieces (sl : EdgeSlot) : List (Int × Nat) :=
  let r := sl.cursor[1]
  (if sl.rowLo.isNone then splitAt8 ((sl.auxa + 4 * r : Nat) : Int) 4 else []) ++ splitAt8 ((sl.auxa + 4 * r + 4 : Nat) : Int) 4

/-- A ragged run reads the pointers of the row at its cursor, once (R153, log 113). -/
def State.readPointers (s : State) (n : Nat) (e : Fin 4) : State :=
  let sl := s.edgeSlot n e
  if sl.pointers.isEmpty then
    match if sl.rowLo.isSome then sl.takePointer (sl.cursor[1] + 1) else none with
    | some sl' => s.setEdge n e sl'
    | none =>
      match s.edgeFetch n e sl.pointerPieces with
      | (.error (cause, va), s) => s.edgeFault n e cause va
      | (.ok ps, s) => s.setEdge n e { s.edgeSlot n e with pointers := ps }
  else match gatherPieces sl.pointers with
    | .waits => s
    | .bad va => s.edgeFault n e 4 va
    | .value raw _ =>
      let lo := match sl.rowLo with | some p => p | none => raw % 2 ^ 32
      let hi := match sl.rowLo with | some _ => raw % 2 ^ 32 | none => raw / 2 ^ 32
      let c := s.core n
      s.setCore n { c with edge := c.edge.set e { sl with rowLo := some lo, rowHi := some hi, pointers := [] }, ewarn := c.ewarn ||| ragWarn lo hi }

/-- A row of length 0 (R153): the SOT and the end marker of a row whose rank is 1 or more; nothing, else. An empty row that opens a tile sends one
SOT, which opens the tile too (log 114). -/
def EdgeSlot.emptyRow (sl : EdgeSlot) (rank : Nat) : EdgeSlot :=
  if rank = 0 then
    let sl' := (sl.advance 0).endRow true
    if sl'.finished && sl'.partialBeat.count != 0 then sl'.close markNone else sl'
  else if sl.token.isNone then
    if sl.partialBeat.count ≠ 0 then sl.close markNone
    else
      let sl' := if sl.tiled && !sl.tileOpen then sl.openTile else sl.mark markSOT
      if sl'.closed then { sl' with token := some 0 } else sl'
  else
    let sl' := (({ sl with token := none }.advance 0).endRow true).mark (BitVec.ofNat 3 rank)
    if 2 ≤ rank then { sl' with tileOpen := false } else sl'

/-- One move of a ragged run, between beats that are closed (R153). -/
def State.raggedNext (s : State) (n : Nat) (e : Fin 4) : State :=
  let sl := s.edgeSlot n e
  match sl.raggedRow sl.cursor[1] with
  | none => s.readPointers n e
  | some row =>
    if row.len0 = 0 then s.setEdge n e (sl.emptyRow (row.rank sl.cursor))
    else if sl.tiled && !sl.tileOpen then s.setEdge n e sl.openTile
    else s.loadElement n e row

/-- A load run has no more to deliver. -/
def EdgeSlot.loadOver (sl : EdgeSlot) : Bool := (sl.finished || sl.stopping) && !sl.closed && sl.partialBeat.count == 0

/-- Fill a closed beat, and end the run after its last. -/
def State.fillClosed (s : State) (n : Nat) (e : Fin 4) : State :=
  match (s.core n).edgeFill e with
  | none => s
  | some c =>
    let sl := c.edge[e]
    let sl := if sl.loadOver then sl.endRun (if sl.stopping then .stopped else .done) else sl
    s.setCore n { c with edge := c.edge.set e sl }

/-- One move of a load run. -/
def State.loadStep (s : State) (n : Nat) (e : Fin 4) : State :=
  let sl := s.edgeSlot n e
  if sl.closed then s.fillClosed n e
  else if sl.loadOver then s.setEdge n e (sl.endRun (if sl.stopping then .stopped else .done))
  else if sl.stopping then s.setEdge n e (sl.close markNone)
  else if sl.kind = 5 then s.raggedNext n e
  else s.loadNext n e

/-- The region of a core is on its way to a checkpoint (R269). -/
def State.checkpointing (s : State) (n : Nat) : Bool :=
  match s.regionOfCore n with
  | some r => r.checkpoint.isSome && !r.frozen && !r.freezing
  | none => false

/-- A load run stands at a beat boundary. -/
def EdgeSlot.atBoundary (sl : EdgeSlot) : Bool := !sl.closed && sl.partialBeat.count == 0

/-- A load run is to stop at the boundary where it stands: the region is on its way to a checkpoint, and the run neither withholds nor is over
(R269). -/
def State.parks (s : State) (n : Nat) (e : Fin 4) : Bool :=
  let sl := s.edgeSlot n e
  s.checkpointing n && sl.loadKind && sl.active && sl.state != .withholding && !sl.parked && sl.atBoundary && !sl.finished

/-- The run stops: a DRAIN is filled into WIN, once it has room, and the cursor stays (R269). -/
def State.park (s : State) (n : Nat) (e : Fin 4) : State :=
  let c := s.core n
  let sl := c.edge[e]
  match c.fillBeat sl.win { Beat.blank 0 markDRAIN with graph := sl.graph } with
  | none => s
  | some c => s.setCore n { c with edge := c.edge.set e { sl with parked := true } }

/-- EDGE_LOAD_BEAT (R150): a load, gather or ragged run issues or delivers an element, or fills a beat that it has closed. -/
def execEdgeLoadBeat (core : Nat) (slot : Fin 4) (s : State) : Host.Outcome State Fault Refusal :=
  if s.parks core slot then .next (s.park core slot)
  else if s.loadRuns core slot && (s.edgeSlot core slot).loadKind then .next (s.loadStep core slot) else .next s

/-! ## Acquires, permits and index tokens -/

/-- ACQUIRE_TAKE (R169): a load run with ACQ takes an element from DWIN before its first access. -/
def execAcquireTake (core : Nat) (slot : Fin 4) (s : State) : Host.Outcome State Fault Refusal :=
  let c := s.core core
  let sl := c.edge[slot]
  if sl.state != .waitAcquire || sl.waitFlip || sl.parked || s.parks core slot || s.coreStopping core || (c.headOffset sl.dwin).isNone then .next s
  else .next ((s.setCore core (c.shrinkWin sl.dwin 1 false)).setEdge core slot { sl with state := .running, acquireTaken := true })

/-- PERMIT_TAKE (R154): a permit for the next tile, the oldest element of IWIN whole (log 112). -/
def execPermitTake (core : Nat) (slot : Fin 4) (s : State) : Host.Outcome State Fault Refusal :=
  let c := s.core core
  let sl := c.edge[slot]
  if sl.state != .waitPermit || sl.parked || s.parks core slot || s.coreStopping core || (c.headOffset sl.iwin).isNone then .next s
  else .next ((s.setCore core (c.shrinkWin sl.iwin 1 false)).setEdge core slot { sl with state := .running, permitTaken := true, iLaneUsed := 0 })

/-- The run stands at the first element of a row that needs a token. -/
def EdgeSlot.wantsToken (sl : EdgeSlot) : Bool :=
  sl.byToken && sl.token.isNone && !sl.finished && !sl.stopping && !sl.closed && sl.packBuf.isEmpty && !sl.wantsPermit

/-- The token of a quantising scatter: lane 0 of an element of IWIN, which is shrunk at once, since the maxima of the row stand behind it
(log 115). -/
def State.wholeToken (s : State) (n : Nat) (e : Fin 4) : State :=
  let c := s.core n
  let sl := c.edge[e]
  match c.headOffset sl.iwin with
  | none => s
  | some i =>
    let a := c.elemAddr sl.iwin i
    s.edgeRead n [(a, sl.iwin)] fun s =>
      let c := s.core n
      let t := c.loadWord a
      let c := c.shrinkWin sl.iwin 1 false
      s.setCore n { c with edge := c.edge.set e { sl with token := some t, tokensTaken := sl.tokensTaken + 1, rowTokens := sl.rowTokens ++ [t] },
                           ewarn := if sl.tokenOut t then c.ewarn ||| ewGIDX else c.ewarn }

/-- The row at the cursor has its token. A gather in skip mode passes over a row that is clipped (R152). -/
def State.takeToken (s : State) (n : Nat) (e : Fin 4) (t : Lane) : State :=
  let c := s.core n
  let sl := { c.edge[e] with token := some t }
  let c := { c with edge := c.edge.set e sl }
  if sl.tokenOut t && sl.kind == 2 && sl.clipSkip then
    let c := c.rowIssued e
    let sl' := ({ c.edge[e] with cursor := sl.cursor.set 0 (sl.walk 0 - 1) }.advance (sl.walk 0)).endRow true
    s.setCore n { c with edge := c.edge.set e (if sl'.finished && sl'.partialBeat.count != 0 then sl'.close markNone else sl') }
  else s.setCore n c

/-- INDEX_TOKEN_TAKE (R152): a token for the row at the cursor: one that the run has consumed or read already, or the next of IWIN, as long as the
slot can hold the tokens of the rows that are not over (log 109). -/
def execIndexTokenTake (core : Nat) (slot : Fin 4) (s : State) : Host.Outcome State Fault Refusal :=
  let sl := s.edgeSlot core slot
  if !s.edgeRuns core slot || !sl.wantsToken then .next s
  else match sl.rowToken sl.rowNow with
    | some t => .next (s.takeToken core slot t)
    | none =>
      match sl.tokenAhead with
      | some t => .next ((s.setEdge core slot { sl with tokenAhead := none }).takeToken core slot t)
      | none =>
        if sl.tokenRoom ≤ sl.rowTokens.length then .next s
        else if sl.storeKind && sl.bp then .next (s.wholeToken core slot)
        else .next (s.readToken core slot fun t s => s.takeToken core slot t)

/-! ## Stores (R150, R155, R162) -/

/-- One write of a store run: address, bytes, and what it does. -/
structure EdgeWrite where
  va : Int
  data : List Byte
  op : AccessOp
  deriving DecidableEq, Repr

/-- Issue the writes of element number k (R169, R298). -/
def State.edgeIssue (s : State) (n : Nat) (e : Fin 4) (k : Nat) : List (EdgeWrite × Found) → State
  | [] => s
  | (w, f) :: rest =>
    let (id, s) := s.fresh
    let a : Access := { id := id, source := .edge n e, op := w.op, va := w.va.toNat, place := f.place, size := min w.data.length (if w.op = .saddFp then 4 else 8), data := w.data,
                        aq := false, rl := false, tag := k, code := 0 }
    let sl := s.edgeSlot n e
    ((s.setEdge n e { sl with issued := sl.issued ++ [(id, k)] }).send .req (.edge n e) (accessUnit f.place) (.access a)).edgeIssue n e k rest

/-- Free what has performed. -/
def State.storeFree (s : State) (n : Nat) (e : Fin 4) : State := s.setCore n ((s.core n).edgeFreeDone e)

/-- A store or erase run goes past m elements from its cursor on, of which the last may end the row; `f` says what else the slot notes (R150,
R152). -/
def State.storePass (s : State) (n : Nat) (e : Fin 4) (m : Nat) (f : EdgeSlot → EdgeSlot) : State :=
  let c := s.core n
  let sl := c.edge[e]
  let ends := decide (sl.walk 0 ≤ sl.cursor[0] + m)
  let c := if ends && sl.byToken then c.rowIssued e else c
  let sl := f c.edge[e]
  let sl := { sl with cursor := sl.cursor.set 0 (sl.cursor[0] + m - 1), packBuf := [] }.advance (sl.walk 0)
  (s.setCore n { c with edge := c.edge.set e (if ends then { sl with token := none } else sl) }).storeFree n e

/-- Issue the writes of element number k where all of them translate, and go past the m elements that it stands for, `stored` of which are stored,
with the warnings of their values; otherwise withhold. -/
def State.edgeWrite (s : State) (n : Nat) (e : Fin 4) (k m stored : Nat) (ws : List EdgeWrite) (warn : Lane) : State :=
  match s.edgePlaces n e true (ws.map (·.va)) with
  | (.error (c, va), s) => s.edgeFault n e c va
  | (.ok fs, s) =>
    let s := s.edgeIssue n e k (ws.zip fs)
    let c := s.core n
    (s.setCore n { c with ewarn := c.ewarn ||| warn }).storePass n e m fun sl => { sl with elements := sl.elements + stored }

/-- The next m values of WIN that a store run has not consumed, where all of them stand there, with the store words read. DESIGN CHOICE (log 133): from a
parameter window, which is never shrunk, they are those as far behind the head as elements have been visited and not freed. -/
def Core.nextValues (c : Core) (e : Fin 4) (m : Nat) : Option (List Lane) × List (Nat × Win) :=
  let sl := c.edge[e]
  let l := (List.range m).map fun k => c.laneAhead sl.win sl.laneUsed (sl.visited - sl.freed + k)
  (if l.all fun x => x.1.isSome then some (l.map fun x => match x.1 with | some y => y.value | none => 0) else none, l.flatMap (·.2))

/-- The values of WIN are not all there: beats of COUNT 0 at its head are passed over (R150), their control words read (R120, R144). -/
def State.storeWait (s : State) (n : Nat) (e : Fin 4) (reads : List (Nat × Win)) : State :=
  s.edgeRead n reads fun s =>
    let c := s.core n
    let sl := c.edge[e]
    if sl.visited = sl.freed then s.setCore n (c.passEmpty sl.win 1024) else s

/-- The writes of one element of a store that is not packed, with the warnings (R155, R158). A scatter-add is one access; its sum sets no warning
(log 116). -/
def EdgeSlot.elementWrites (sl : EdgeSlot) (w : Where) (v : Lane) : List EdgeWrite × Lane :=
  if sl.kind = 4 then ([⟨sl.addr w, leBytes (if sl.fmt = 0 then 5 else 4) v.toNat, if sl.fmt = 0 then .saddFp else .saddInt⟩], 0)
  else
    let (raw, conv) := storeElem sl.fmt v
    let bytes := leBytes (elemBytes sl.fmt) raw
    ((splitAt8 (sl.addr w) bytes.length).map fun (va, k) => ⟨va, (bytes.drop (va - sl.addr w).toNat).take k, .store⟩, if conv then ewCONV else 0)

/-- A store run consumes one element that is not packed: it is stored, or discarded where it is clipped, or passed over where it had performed
before a restore (R151, R273). -/
def State.storeElement (s : State) (n : Nat) (e : Fin 4) : State :=
  match (s.core n).nextValues e 1 with
  | (some [v], reads) => s.edgeRead n reads fun s =>
    let sl := s.edgeSlot n e
    let k := sl.visited
    if sl.clipped sl.cursor || sl.rowOut then s.storePass n e 1 id
    else if sl.passed.contains k then s.storePass n e 1 fun sl => { sl with passed := sl.passed.erase k }
    else
      let (ws, warn) := sl.elementWrites (sl.place sl.cursor 0) v
      s.edgeWrite n e k 1 1 ws warn
  | (_, reads) => s.storeWait n e reads

/-- Position j of the unit that begins at an index vector is stored: it is not clipped (R151). -/
def EdgeSlot.stored (sl : EdgeSlot) (start : Vector Nat 5) (j : Nat) : Bool := !(sl.clipped (start.set 0 (start[0] + j)) || sl.rowOut)

/-- The code of position j of a block that begins at w, for a value and the block's maximum, with the warnings (R162). -/
def EdgeSlot.codeAt (sl : EdgeSlot) (w : Where) (mx : Lane) (j : Nat) (v : Lane) : Nat × Lane :=
  let (di, df) := helictite sl.seed (sl.frame { w with i0 := w.i0 + (j : Int) })
  qcode v (blockExponent mx sl.tensorScale sl.kmin).1 sl.tensorScale di df sl.kmin

/-- What the slot keeps of value v at position j of a unit, with the warnings: the word, its code in BP8 and BP4, or nothing where it is clipped. -/
def EdgeSlot.unitValue (sl : EdgeSlot) (start : Vector Nat 5) (mx : Lane) (j : Nat) (v : Lane) : Lane × Lane :=
  if !sl.stored start j then (0, 0)
  else if sl.bp then
    let (c, warn) := sl.codeAt (sl.place start 0) mx j v
    (BitVec.ofNat 36 c, warn)
  else (v, 0)

/-- The writes of a packed unit: a byte of BOOL1, or 36 bytes of LW36 (R151, R157). -/
def EdgeSlot.unitWrites (sl : EdgeSlot) (w : Where) (l : List Lane) : List EdgeWrite :=
  if sl.fmt = 7 then [⟨sl.addr w, leBytes 1 ((l.zipIdx.map fun (v, k) => v.toNat % 2 * 2 ^ k).sum), .store⟩]
  else
    let bytes := lw36Group l
    (splitAt8 (sl.addr w) 36).map fun (va, k) => ⟨va, (bytes.drop (va - sl.addr w).toNat).take k, .store⟩

/-- The writes of a block of a quantising store: a word of each record and the scale byte, with the warning of its exponent (R151, R162). -/
def EdgeSlot.blockWrites (sl : EdgeSlot) (start : Vector Nat 5) (l : List Lane) (mx : Lane) : List EdgeWrite × Lane :=
  let w := sl.place start 0
  let (sc, escl) := blockExponent mx sl.tensorScale sl.kmin
  let x0 := (w.i0 % 1024).toNat
  let codes := (List.range 32).map fun (j : Nat) =>
    match l[j]? with
    | some c => if sl.stored start j then c.toNat else (sl.codeAt w mx j 0).1
    | none => (sl.codeAt w mx j 0).1
  let record (p : Nat) : Nat := (codes.zipIdx.map fun (c, j) => c / 2 ^ (7 - p) % 2 * 2 ^ j).sum
  ((List.range sl.planeCount).map (fun p => ⟨sl.groupAddr w + (128 * p + x0 / 8 : Nat), leBytes 4 (record p), .store⟩)
      ++ [⟨sl.scaleAddr w, leBytes 1 sc, .store⟩], if escl then ewESCL else 0)

/-- The index vector of the first element of the unit being formed. -/
def EdgeSlot.unitIndex (sl : EdgeSlot) : Vector Nat 5 := sl.cursor.set 0 (sl.cursor[0] - sl.packBuf.length)

/-- The words or codes of the values of a unit that are still to be consumed, with the warnings. -/
def EdgeSlot.unitRest (sl : EdgeSlot) (mx : Lane) (vs : List Lane) : List (Lane × Lane) :=
  vs.zipIdx.map fun (v, j) => sl.unitValue sl.unitIndex mx (sl.packBuf.length + j) v

/-- Store a packed unit whose last values are at hand: in full, or not at all where all of its elements are clipped or had performed (R151). -/
def State.storeUnit (s : State) (n : Nat) (e : Fin 4) (vs : List Lane) (mx : Lane) : State :=
  let sl := s.edgeSlot n e
  let rest := sl.unitRest mx vs
  let l := sl.packBuf ++ rest.map (·.1)
  let start := sl.unitIndex
  let k := sl.unitStart
  let stored := ((List.range l.length).filter (sl.stored start)).length
  let again := (List.range l.length).all fun j => sl.passed.contains (k + j)
  if stored = 0 ∨ again then
    s.storePass n e vs.length fun sl => { sl with passed := sl.passed.filter fun j => !(decide (k ≤ j) && decide (j < k + l.length)) }
  else
    let (ws, warn) := if sl.bp then sl.blockWrites start l mx else (sl.unitWrites (sl.place start 0) l, 0)
    (s.setEdge n e { sl with quantised := sl.quantised || sl.bp }).edgeWrite n e k vs.length stored ws ((rest.map (·.2)).foldl (· ||| ·) warn)

/-- Move the next element of a unit out of WIN, where the rest of the unit is not there yet and everything before it has performed. -/
def State.moveToUnit (s : State) (n : Nat) (e : Fin 4) (mx : Lane) : State :=
  let sl := s.edgeSlot n e
  if sl.unitStart ≠ sl.earliestNumber ∧ sl.packBuf.isEmpty then s
  else match (s.core n).nextValues e 1 with
    | (some [v], reads) => s.edgeRead n reads fun s =>
      let c := s.core n
      let (x, warn) := sl.unitValue sl.unitIndex mx sl.packBuf.length v
      let sl' := { sl with cursor := sl.cursor.set 0 (sl.cursor[0] + 1), packBuf := sl.packBuf ++ [x] }
      s.setCore n ({ c with edge := c.edge.set e sl', ewarn := c.ewarn ||| warn }.edgeFree e sl'.visited)
    | (_, reads) => s.storeWait n e reads

/-- One move of a packed store or of a block: the whole unit, or an element of it (R151, R157, R162). -/
def State.storePacked (s : State) (n : Nat) (e : Fin 4) (mx : Lane) : State :=
  let sl := s.edgeSlot n e
  match (s.core n).nextValues e (sl.unitSize sl.unitStart - sl.packBuf.length) with
  | (some vs, reads) => s.edgeRead n reads fun s => s.storeUnit n e vs mx
  | _ => s.moveToUnit n e mx

/-- A store or erase run is over: every element has been visited and has performed. -/
def EdgeSlot.storeOver (sl : EdgeSlot) : Bool := sl.finished && sl.issued.isEmpty && sl.failed.isEmpty

/-- A run without a completion token ends when its last store has performed (R146). -/
def State.storeEnd (s : State) (n : Nat) (e : Fin 4) : State :=
  let s := s.storeFree n e
  let sl := s.edgeSlot n e
  if sl.storeOver && !sl.dv then s.setEdge n e (sl.endRun .done) else s

/-- A store, scatter or scatter-add consumes its next element, or packed unit. -/
def State.storeMove (s : State) (n : Nat) (e : Fin 4) : State :=
  let sl := s.edgeSlot n e
  if (sl.byToken && sl.token.isNone) || !sl.mayIssue then s
  else if sl.packed then s.storePacked n e 0
  else s.storeElement n e

/-- EDGE_STORE_ELEMENT (R150): the next element of a store, scatter or scatter-add, or the end of its run. -/
def execEdgeStoreElement (core : Nat) (slot : Fin 4) (s : State) : Host.Outcome State Fault Refusal :=
  let sl := s.edgeSlot core slot
  if !s.edgeRuns core slot || !sl.storeKind || sl.bp then .next s
  else if sl.finished then .next (s.storeEnd core slot)
  else .next (s.storeMove core slot)

/-- The maximum of the block at the cursor is taken from IWIN, lane 0 of its oldest element, before the block's first element (R162). -/
def State.takeMaximum (s : State) (n : Nat) (e : Fin 4) (f : State → State) : State :=
  let c := s.core n
  let sl := c.edge[e]
  match c.headOffset sl.iwin with
  | none => s
  | some i =>
    if maximaRoom ≤ sl.maxima.length then s
    else
      let a := c.elemAddr sl.iwin i
      s.edgeRead n [(a, sl.iwin)] fun s =>
        let c := s.core n
        let mx := c.loadWord a
        let c := c.shrinkWin sl.iwin 1 false
        f (s.setCore n { c with edge := c.edge.set e { sl with maximaTaken := sl.maximaTaken + 1, maxima := sl.maxima ++ [mx] } })

/-- A quantising store consumes its next block, or an element of it, once it has the block's maximum. -/
def State.blockMove (s : State) (n : Nat) (e : Fin 4) : State :=
  let sl := s.edgeSlot n e
  let b := sl.blockNumber sl.unitStart
  if (sl.byToken && sl.token.isNone) || !sl.mayIssue then s
  else match sl.blockMax b with
    | some mx => s.storePacked n e mx
    | none => s.takeMaximum n e fun s => match (s.edgeSlot n e).blockMax b with | some mx => s.storePacked n e mx | none => s

/-- QUANTISING_STORE_BLOCK (R162): a maximum of IWIN and the block of 32 elements that it is paired with. -/
def execQuantisingStoreBlock (core : Nat) (slot : Fin 4) (s : State) : Host.Outcome State Fault Refusal :=
  let sl := s.edgeSlot core slot
  if !s.edgeRuns core slot || !sl.storeKind || !sl.bp then .next s
  else if sl.finished then .next (s.storeEnd core slot)
  else .next (s.blockMove core slot)

/-! ## Erase and translation streams (R312, R318) -/

/-- An erase run goes on to the tile that holds the first byte of its next element. One that it visited before a save, and that had performed, is passed
over (R278). One that is clipped in pad mode is visited, and counts, but erases
nothing (R150, R151). -/
def State.eraseMove (s : State) (n : Nat) (e : Fin 4) : State :=
  let sl := s.edgeSlot n e
  let k := sl.visited
  if !sl.mayIssue then s
  else if sl.passed.contains k then s.storePass n e 1 fun sl => { sl with passed := sl.passed.erase k }
  else if sl.clipped sl.cursor then s.storePass n e 1 fun sl => { sl with elements := sl.elements + 1 }
  else
    let va := sl.addr (sl.place sl.cursor 0)
    match s.edgeTranslate n e va true with
    | (.error c, s) => s.edgeFault n e c va
    | (.ok f, s) =>
      if !f.tr.vug then s.storePass n e 1 fun sl => { sl with elements := sl.elements + 1 }
      else s.edgeWrite n e k 1 1 [⟨va, [0], .erase⟩] 0

/-- ERASE_ELEMENT (R318): the next element of an erase run, or the end of the run. -/
def execEraseElement (core : Nat) (slot : Fin 4) (s : State) : Host.Outcome State Fault Refusal :=
  let sl := s.edgeSlot core slot
  if !s.edgeRuns core slot || sl.kind != 7 then .next s
  else if sl.finished then .next (s.storeEnd core slot)
  else .next (s.eraseMove core slot)

/-- The word that a translation stream fills for an address (R312); none while its walk waits (R298, R300). -/
def State.translationWord (s : State) (n : Nat) (e : Fin 4) (va : Int) : Option Lane × State :=
  if va < 0 ∨ 2 ^ 56 ≤ va then (some (bit36 35 ||| BitVec.ofNat 36 codeHighBits), s)
  else match s.regionOfCore n with
    | none => (some (bit36 35 ||| BitVec.ofNat 36 codeUnmapped), s)
    | some r =>
      match s.translate (clusterOf n) r.ctx va.toNat true (some (.run n e)) with
      | (.error c, s) => (if c = codeStopped then none else some (bit36 35 ||| BitVec.ofNat 36 c), s)
      | (.ok f, s) =>
        let pa := if f.tr.vug then 0 else f.tr.phys f.va
        (some <| BitVec.ofNat 36 (at_ (b2n f.tr.vug) 34 1 + at_ (b2n f.tr.writable) 33 1 + at_ (b2n f.tr.big) 32 1 + at_ (bitsOf pa 25 19) 4 19
          + bitsOf pa 21 4), s)

/-- TRANSLATION_TOKEN (R312): a translation run translates the address of its token, or fills a beat that it has closed. -/
def execTranslationToken (core : Nat) (slot : Fin 4) (s : State) : Host.Outcome State Fault Refusal :=
  let sl := s.edgeSlot core slot
  if !s.loadRuns core slot || sl.kind != 6 then .next s
  else if sl.closed then .next (s.fillClosed core slot)
  else if sl.loadOver then .next (s.setEdge core slot (sl.endRun (if sl.stopping then .stopped else .done)))
  else if sl.stopping then .next (s.setEdge core slot (sl.close markNone))
  else match sl.token with
    | none => .next s
    | some t =>
      if sl.tiled && !sl.tileOpen then .next (s.setEdge core slot sl.openTile)
      else
        let rank := ((List.range (endingDims sl.walk sl.cursor 0 5)).filter (1 ≤ ·)).foldl (fun m d => max m (sl.rank d)) 0
        match if sl.clipped sl.cursor then (some 0, s) else s.translationWord core slot ((sl.base : Int) + t.toInt * sl.stride 0) with
        | (none, s) => .next s
        | (some v, s) =>
          let c := (s.core core).rowIssued slot
          .next (s.setCore core { c with edge := c.edge.set slot ((c.edge[slot].deliver v true 1 rank).endRow true) })

/-! ## Completion and retry (R168, R268) -/

/-- The completion token of a run (R168). -/
def EdgeSlot.completion (sl : EdgeSlot) : Lane := BitVec.ofNat 36 (at_ (b2n sl.quantised) 35 1 + sl.elements % 2 ^ 35)

/-- The beat that carries it, of the graph bound with the stream (R34). -/
def EdgeSlot.tokenBeat (sl : EdgeSlot) : Beat :=
  { Beat.blank 1 markNone with lanes := (Vector.replicate 16 0).set 0 sl.completion, graph := sl.graph }

/-- A network word. -/
def isNetWord : Instr → Bool
  | .netWrite .. => true
  | .netRead .. => true
  | .netSend .. => true
  | _ => false

/-- A network word of a region has been committed and has not performed at PEER (R369): it waits to go, is on its way, or is a message. -/
def State.netWords (s : State) (r : Region) : Bool :=
  (s.fabric.msgs.any fun m => m.region == r.id) || ((s.cmds ++ s.cmdsInNet).any fun c => r.seqs.contains c.seq && isNetWord c.instr)
    || r.seqs.any fun q => ((s.seq q).suspended ++ (s.seq q).outbox).any fun e => match e.eff with | .cmd c _ _ => isNetWord c.instr | _ => false

/-- COMPLETION_TOKEN (R168): filled once every store of the run has performed at the scope; into a window of the sequencer that bound the stream it
travels as a packet, and the run ends when it is filled. -/
def execCompletionToken (core : Nat) (slot : Fin 4) (s : State) : Host.Outcome State Fault Refusal :=
  let s := if s.edgeRuns core slot && (s.edgeSlot core slot).storeKind then s.storeFree core slot else s
  let c := s.core core
  let sl := c.edge[slot]
  match s.regionOfCore core with
  | none => .next s
  | some r =>
    if !s.edgeRuns core slot || !(sl.storeKind || sl.kind == 7) || !sl.storeOver || !sl.dv || sl.tokenPending
        || (decide (8 ≤ sl.dscope) && s.netWords r) then .next s
    else
      let warn := if sl.dscope ≤ 1 then ewSCOPE else 0
      if sl.dseq then
        let f : SeqFill := ⟨.edge core slot, BitVec.ofNat 3 sl.dwin.val, 1, sl.tokenBeat.lanes⟩
        let s := s.setCore core { c with edge := c.edge.set slot { sl with tokenPending := true }, ewarn := c.ewarn ||| warn }
        .next (s.send .rsp (.edge core slot) (.seq sl.binder) (.fill f))
      else match c.fillBeat sl.dwin sl.tokenBeat with
        | none => .next s
        | some c => .next (s.setCore core { c with edge := c.edge.set slot (sl.endRun .done), ewarn := c.ewarn ||| warn })

/-- The retry of an access translates afresh: the latched pages of some addresses are dropped, and no others, and what the run has read of walks (R310,
R311). -/
def State.dropLatches (s : State) (n : Nat) (e : Fin 4) (l : List Nat) : State :=
  let sl := s.edgeSlot n e
  let ctx := match s.regionOfCore n with | some r => r.ctx | none => 0
  (s.setEdge n e { sl with latches := sl.latches.filter fun t => !l.any fun va => t.covers (s.mappedVa ctx va) }).dropReaders (· == Reader.run n e)

/-- Issue again the accesses of a run that failed, oldest first; those that fail again stay, and a new fault is recorded (R170, R268, R311). One whose
translation only waits stays with none (R300). -/
def State.reissue (s : State) (n : Nat) (e : Fin 4) : List Access → State
  | [] => s
  | a :: rest =>
    match s.edgeTranslate n e a.va true with
    | (.error c, s) =>
      let sl := s.edgeSlot n e
      let s := s.setEdge n e { sl with failed := sl.failed ++ [a] }
      (if c = 0 then s else s.edgeWithhold n e c (addrWord a.va)).reissue n e rest
    | (.ok f, s) => (s.edgeIssue n e a.tag [(⟨a.va, a.data, a.op⟩, f)]).reissue n e rest

/-- Load again those of some pieces that met an uncorrectable error. One that does not translate stays as it is; its fault is recorded, where it does
not only wait (R170, R300). -/
def State.reload (s : State) (n : Nat) (e : Fin 4) : List Piece → List Piece × State
  | [] => ([], s)
  | p :: rest =>
    let (l, s) := s.reload n e rest
    if p.answer = some .bad then
      match s.edgeFetch n e [(p.va, p.size)] with
      | (.ok ps, s) => (ps ++ l, s)
      | (.error (c, va), s) => (p :: l, if c = 0 then s else s.edgeWithhold n e c (addrWord va))
    else (p :: l, s)

/-- Load again what met an uncorrectable error of the elements issued, the oldest first. -/
def State.reloadAll (s : State) (n : Nat) (e : Fin 4) : List Fetch → List Fetch × State
  | [] => ([], s)
  | f :: rest =>
    let (ps, s) := s.reload n e f.pieces
    let (l, s) := s.reloadAll n e rest
    ({ f with pieces := ps } :: l, s)

/-- A load run makes the accesses again that failed: the one that it withholds, and those issued behind it. -/
def State.loadRetry (s : State) (n : Nat) (e : Fin 4) : State :=
  let sl := s.edgeSlot n e
  if sl.kind = 5 ∧ sl.rowHi.isNone then
    if sl.pointers.isEmpty then s.readPointers n e
    else let (l, s) := s.reload n e sl.pointers; s.setEdge n e { s.edgeSlot n e with pointers := l }
  else if sl.fetches.isEmpty then (if sl.kind = 5 then s.raggedNext n e else s.loadNext n e)
  else let (l, s) := s.reloadAll n e sl.fetches; s.setEdge n e { s.edgeSlot n e with fetches := l }

/-- A store or erase run makes the accesses again that it withholds: those that failed, and then those of the element at its cursor. -/
def State.storeRetry (s : State) (n : Nat) (e : Fin 4) (failed : List Access) : State :=
  let old := (s.edgeSlot n e).issued
  let s := s.reissue n e failed
  let sl := s.edgeSlot n e
  let s := if !sl.blocked then s else if sl.kind = 7 then s.eraseMove n e else if sl.bp then s.blockMove n e else s.storeMove n e
  let sl' := s.edgeSlot n e
  s.setEdge n e { sl' with blocked := sl.blocked && sl'.cursor == sl.cursor && !sl'.finished
                           retried := sl'.retried ++ (sl'.issued.map (·.1)).filter fun i => !old.any fun p => p.1 == i }

/-- A ragged run that makes accesses reads a row pointer before those of earlier rows, at most 64 rows behind its cursor (R169, R311, log 111). Where
it does not translate, it is left until its row needs it. -/
def State.pointerAhead (s : State) (n : Nat) (e : Fin 4) (i : Nat) : State :=
  let sl := s.edgeSlot n e
  let known := sl.cursor[1] + 1 + sl.rowEnds.length
  if !s.loadRuns n e ∨ sl.kind ≠ 5 ∨ sl.finished ∨ sl.stopping ∨ sl.rowLo.isNone ∨ sl.rowHi.isNone ∨ i ≤ known ∨ sl.walk 1 < i ∨ sl.cursor[1] + 65 < i
      ∨ (!sl.pointers.isEmpty ∧ i = known + 1) ∨ sl.pointersAhead.any (fun p => p.1 == i) then s
  else match s.edgeFetch n e (sl.pointerAt i) with
    | (.error _, _) => s
    | (.ok ps, s) => s.setEdge n e { s.edgeSlot n e with pointersAhead := (i, ps) :: (s.edgeSlot n e).pointersAhead }

/-- EDGE_RETRY (R268): after a translation or pool change a withholding stream makes its access again, with a fresh translation. -/
def execEdgeRetry (core : Nat) (slot : Fin 4) (s : State) : Host.Outcome State Fault Refusal :=
  let sl := s.edgeSlot core slot
  if sl.state != .withholding || !sl.retryDue then .next s
  else
    let s := s.setEdge core slot { sl with retryDue := false, failed := [] }
    let s := s.dropLatches core slot (sl.faultAddr.toNat :: sl.failed.map (·.va))
    .next ((if sl.loadKind then (if sl.blocked then s.loadRetry core slot else s) else s.storeRetry core slot sl.failed).edgeResume core slot)

end Sys2Proof.Machine
end

