-- ==== Sys2Proof/Machine/Streams.lean ====
section
/-! DEFINITION. Stream words (09 R218, R225, R226): `sbind` with its checks (07 R149, R157, R162), `sgo` with the format fault (07 R163, R170),
`sstop` and `sbar`. -/

namespace Sys2Proof.Machine

/-! ## The target field (R218) -/

/-- The register that a target field names, where it does. -/
def targetReg (t : BitVec 9) : Option Reg := if bitAt t 8 then some (t.setWidth 5) else none

/-- Region-relative x and y of a target field, with the value of its register. -/
def targetXY (t : BitVec 9) (u : Word) : Nat × Nat := if bitAt t 8 then (bv u 0 8, bv u 8 8) else (bv t 4 4, bv t 0 4)

/-- MBZ of a target field (R218, R255). -/
def targetWarn (t : BitVec 9) (u : Word) : Word := warnIf (bitAt t 8 && (bv t 5 3 != 0 || decide (2 ^ 16 ≤ u.toNat))) swMBZ

/-- Issue of a stream word: TGT where the target names no core of the region (R221). -/
def streamIssue (i : Instr) (d : Reg) (t : BitVec 9) (a : Option Reg) (s : State) (x : WordCtx) : WordRes × State :=
  let reads := a.toList ++ (targetReg t).toList
  let u := match targetReg t with | some r => x.reg r | none => 0
  let v := match a with | some r => x.reg r | none => 0
  if x.awaits reads || x.itemsFull then (.wait, s)
  else match (s.regionOf x).bind fun r => s.target r (targetXY t u).1 (targetXY t u).2 with
    | none => (.trap causeTGT 0, s)
    | some n => sendCmd s x (.core n) i v u 0 [d] (x.crd reads ||| targetWarn t u ||| warnIf (bv v 2 4 != 0) swMBZ)

/-! ## Checking a descriptor (R149, R157, R162) -/

/-- The kinds that read IWIN (R147). -/
def EdgeSlot.readsTokens (e : EdgeSlot) : Bool := e.kind == 2 || e.kind == 3 || e.kind == 4 || e.kind == 6

/-- A kind that emits a completion token under DV (R168, R318). -/
def EdgeSlot.completes (e : EdgeSlot) : Bool := e.storeKind || e.kind == 7

/-- DWIN is used as a window of this core: by ACQ, and by DV with DSEQ 0 (R149). -/
def EdgeSlot.usesDwin (e : EdgeSlot) : Bool := !e.dseq && ((e.loadKind && e.acq) || (e.completes && e.dv))

/-- `sbind` refuses the descriptors (R149, R157, R162). -/
def Core.refusesBind (c : Core) (e : EdgeSlot) : Bool :=
  let bound (w : Win) : Bool := wdBound (c.desc w)
  let param (w : Win) : Bool := wdParam (c.desc w)
  let quant := e.bp && e.storeKind
  decide (8 ≤ e.kind) || decide (11 ≤ e.fmt) || (e.bp && decide (4 ≤ e.kind)) || (e.kind == 4 && e.fmt != 0 && e.fmt != 3)
    || !bound e.win || ((e.loadKind || e.kind == 6) && (param e.win || wdSrc (c.desc e.win) != 1))
    || ((e.readsTokens || e.permit || e.xflag || quant) && !bound e.iwin) || (e.xflag && (e.kind == 2 || e.permit))
    || (e.acq && e.dseq) || (e.dseq && decide (7 < e.dwin.val))
    || (e.usesDwin && (!bound e.dwin || param e.dwin)) || (!e.dseq && e.completes && e.dv && wdSrc (c.desc e.dwin) != 1)
    || (e.completes && e.dv && decide (10 < e.dscope))
    || ((e.kind == 2 || e.kind == 3 || e.kind == 4 || e.kind == 5) && (e.count 2 != 1 || e.count 3 != 1 || e.count 4 != 1))
    || (e.storeKind && (e.fmt == 7 || e.fmt == 8) && e.count 0 % 8 != 0)
    || (quant && (!wdBeat (c.desc e.win) || decide (wdCap (c.desc e.win) < 2) || e.count 0 % 32 != 0))

/-- RSVD of EWARN: a reserved descriptor field is not 0 (R148, R159). -/
def EdgeSlot.reservedSet (e : EdgeSlot) : Bool :=
  bitAt e.pattern[2] 53 || (e.bp && (bv e.format[0] 12 20 != 0 || bv e.format[0] 4 4 != 0 || bv e.format[3] 32 32 != 0))

/-- A slot as the `sbind` of a sequencer leaves it. -/
def boundSlot (pattern : List Byte) (format : List Byte) (graph : BitVec 2) (binder : Nat) : EdgeSlot :=
  { EdgeSlot.init with pattern := Vector.ofFn fun k : Fin 8 => wordAt pattern k, format := Vector.ofFn fun k : Fin 4 => wordAt format k,
                       graph := graph, binder := binder, state := .bound }

/-- FDESC: the address of the format descriptor that a pattern descriptor names. -/
def fdescOf (pattern : List Byte) : Nat := bv (wordAt pattern 1) 5 51 * 32

/-- A pattern descriptor is of a bit-plane format. -/
def patternBp (pattern : List Byte) : Bool := let f := bv (wordAt pattern 0) 56 4; f == 9 || f == 10

/-! ## Application -/

/-- A stream command may be applied: its region is not frozen or freezing (R269, R272). -/
def State.streamTakes (s : State) (n : Nat) : Bool :=
  match s.regionOfCore n with
  | some r => !(r.freezing || r.frozen)
  | none => true

/-- Apply a stream command to its slot; once it has been applied, its core is no longer blocked (R282). -/
def State.applyStream (s : State) (slot : BitVec 2) (f : State → Nat → Fin 4 → Nat → Cmd → State) (k : Nat) (c : Cmd) : State :=
  match c.unit with
  | .core n =>
    if s.streamTakes n then
      let t := f s n slot.toFin k c
      if t.cmds.length < s.cmds.length then t.setCore n ((t.core n).active_ t.now) else t
    else s
  | _ => s

/-- A refusal for what reading memory came to: a reason of its own, or 0xFF; none where the bytes were read. -/
def refusedRead (reason : Nat) : Got → Option Word
  | .noXlat => some (statusWord stREFUSED reason)
  | .bad => some (statusWord stREFUSED 0xFF)
  | _ => none

/-- The format descriptor that goes with a pattern descriptor: nothing is read unless the format is BP8 or BP4 (R225). -/
def State.readFormat (s : State) (ctx : Nat) (c : Cmd) (pattern : List Byte) : Got × State :=
  if patternBp pattern then s.readForCmd c.seq ctx c (fdescOf pattern) 32 else (.bytes [], s)

/-- `sbind` with its descriptors at hand. -/
def State.bindSlot (s : State) (n : Nat) (e : Fin 4) (k : Nat) (c : Cmd) (pattern format : List Byte) : State :=
  let u := s.core n
  let sl := boundSlot pattern format (BitVec.ofNat 2 (bv c.a 0 2)) c.seq
  if u.refusesBind sl then s.finishCmd k [statusWord stREFUSED 1]
  else
    (s.setCore n { u with edge := u.edge.set e sl, ewarn := if sl.reservedSet then u.ewarn ||| ewRSVD else u.ewarn }).finishCmd k
      [statusWord stDONE]

/-- `sbind` at its core (R225). -/
def State.applySbind (s : State) (n : Nat) (e : Fin 4) (k : Nat) (c : Cmd) : State :=
  match s.regionOfCore n with
  | none => s
  | some r =>
    if (s.edgeSlot n e).active then s.finishCmd k [statusWord stBUSY]
    else match s.readForCmd c.seq r.ctx c (bv c.a 6 50 * 64) 64 with
      | (.waits, s) => s
      | (.bytes pattern, s) =>
        match s.readFormat r.ctx c pattern with
        | (.waits, s) => s
        | (.bytes format, s) => s.bindSlot n e k c pattern format
        | (g, s) => s.finishCmd k [(refusedRead 3 g).getD 0]
      | (g, s) => s.finishCmd k [(refusedRead 2 g).getD 0]

/-- The format fault that a bit-plane run raises before its first access (R163). -/
def EdgeSlot.formatFault (e : EdgeSlot) : Bool :=
  let named := if e.dscope = 0 then e.planeCount else e.dscope
  e.bp && (decide (e.kmin < 2) || decide (e.planeCount < e.kmin) || e.formatFmt != e.fmt || (Machine.tensorScale e.tensorScale).isNone
    || (e.loadKind && (decide (named < e.kmin) || decide (e.planeCount < named))))

/-- A slot at the start of a run (R146): waiting for its acquire where it has one (R169), and for the core's flip (R235). -/
def EdgeSlot.start (e : EdgeSlot) (waitFlip : Bool) : EdgeSlot :=
  { EdgeSlot.init with pattern := e.pattern, format := e.format, graph := e.graph, binder := e.binder, runEnd := e.runEnd,
                       state := if e.loadKind && e.acq then .waitAcquire else .running, waitFlip := waitFlip }

/-- `sgo` at its core (R225). What an earlier run has read of a walk is gone. -/
def State.applySgo (s : State) (n : Nat) (e : Fin 4) (k : Nat) (_ : Cmd) : State :=
  let u := s.core n
  let sl := u.edge[e]
  if sl.active then s.finishCmd k [statusWord stBUSY]
  else if sl.state = .idle ∨ sl.state = .faulted then s.finishCmd k [statusWord stREFUSED]
  else if sl.formatFault then
    let sl' := { sl.start false with state := .faulted, runEnd := .faulted }
    let s := s.setCore n { u with edge := u.edge.set e sl', efault := efaultWith u.efault 1 e }
    (s.recordOfCore n (.edge n e) 1 e 0 0 0 0).finishCmd k [statusWord stDONE]
  else
    let swapping := match s.regionOfCore n with | some r => r.swap.isSome && !u.flipped | none => false
    ((s.setEdge n e (sl.start swapping)).dropReaders (· == Reader.run n e)).finishCmd k [statusWord stDONE]

/-- Completion tokens of a slot that are still on their way are not emitted (R226). -/
def State.dropTokens (s : State) (n : Nat) (e : Fin 4) : State :=
  let isToken (f : SeqFill) : Bool := f.source == .edge n e
  { s with
    net := s.net.filter fun p => match p.payload with | .fill f => !isToken f | _ => true
    seqs := s.seqs.map fun (q, v) => (q, { v with arrivedFills := v.arrivedFills.filter fun f => !isToken f }) }

/-- End the run of a slot where it stands (R226): a store stream has consumed the elements it has visited. -/
def State.stopRun (s : State) (n : Nat) (e : Fin 4) : State :=
  let u := s.core n
  let sl := u.edge[e]
  let u := if sl.storeKind then u.edgeFree e sl.unitStart else u
  let u := { u with edge := u.edge.set e (u.edge[e].endRun .stopped) }
  (if sl.tokenPending then s.dropTokens n e else s).setCore n u

/-- `sstop` at its core (R225, R226). -/
def State.applySstop (s : State) (n : Nat) (e : Fin 4) (k : Nat) (_ : Cmd) : State :=
  let sl := s.edgeSlot n e
  if sl.active then (s.stopRun n e).finishCmd k [statusWord stSTOPPED]
  else if sl.state = .faulted then (s.setEdge n e { sl with state := .bound }).finishCmd k [statusWord stIDLE]
  else s.finishCmd k [statusWord stIDLE]

/-- The status of `sbar` for a slot with no run in progress (R225). -/
def EdgeSlot.barStatus (e : EdgeSlot) : Nat :=
  match e.runEnd with
  | .never => stIDLE
  | .done => stDONE
  | .stopped => stSTOPPED
  | .faulted => stFAULTED

/-- `sbar` at its core: it waits while a run is in progress (R225). -/
def State.applySbar (s : State) (n : Nat) (e : Fin 4) (k : Nat) (_ : Cmd) : State :=
  let sl := s.edgeSlot n e
  if sl.active then s else s.finishCmd k [statusWord sl.barStatus]

/-! ## What a core command comes to, if its core applies it now -/

/-- A core applies the command at a place of the list of commands (R137, R225). -/
def State.applyCore (s : State) (k : Nat) (c : Cmd) : State :=
  match c.unit, c.instr with
  | .core _, .wrdCore .. => s.applyWindow false (fun u c => u.applyWrd c.a) k c
  | .core n, .wflCore .. => s.applyWindow true (fun u c => u.applyWfl (s.wflBarred n c.seq) c.a c.b) k c
  | .core _, .wshrCore .. => s.applyWindow false (fun u c => u.applyWshr c.a) k c
  | .core _, .wstCore .. => s.applyWindow false (fun u c => u.applyWst c.a c.b) k c
  | .core _, .st .. => s.applyRegister k c
  | .core _, .sbind _ _ _ slot _ => s.applyStream slot State.applySbind k c
  | .core _, .sgo _ _ _ slot _ => s.applyStream slot State.applySgo k c
  | .core _, .sstop _ _ _ slot _ => s.applyStream slot State.applySstop k c
  | .core _, .sbar _ _ _ slot _ => s.applyStream slot State.applySbar k c
  | _, _ => s

/-- A core command stands at its core: it waits on a window, a run or a slot, whatever cycle this is, or it is queued behind such a command of its
sequencer (R272). -/
def State.standsAtCore (s : State) (k : Nat) (c : Cmd) : Bool :=
  match c.unit with
  | .core n =>
    let t := { s with now := s.now + 1 }.applyCore k c
    !c.begun && (s.cmdBehind c || (t.cmds.length == s.cmds.length && (t.core n).stop == (s.core n).stop))
  | _ => false

/-! ## The words -/

/-- `sbind sd, target, en, sa`. -/
def execSbind (d a : Reg) (t : BitVec 9) (slot : BitVec 2) (g : Pred) (s : State) : Host.Outcome State Fault Refusal :=
  s.commandWord (streamIssue (.sbind d a t slot g) d t (some a)) fun s k c => s.applyStream slot State.applySbind k c

/-- `sgo sd, target, en`. -/
def execSgo (d a : Reg) (t : BitVec 9) (slot : BitVec 2) (g : Pred) (s : State) : Host.Outcome State Fault Refusal :=
  s.commandWord (streamIssue (.sgo d a t slot g) d t none) fun s k c => s.applyStream slot State.applySgo k c

/-- `sstop sd, target, en`. -/
def execSstop (d a : Reg) (t : BitVec 9) (slot : BitVec 2) (g : Pred) (s : State) : Host.Outcome State Fault Refusal :=
  s.commandWord (streamIssue (.sstop d a t slot g) d t none) fun s k c => s.applyStream slot State.applySstop k c

/-- `sbar sd, target, en`. -/
def execSbar (d a : Reg) (t : BitVec 9) (slot : BitVec 2) (g : Pred) (s : State) : Host.Outcome State Fault Refusal :=
  s.commandWord (streamIssue (.sbar d a t slot g) d t none) fun s k c => s.applyStream slot State.applySbar k c

end Sys2Proof.Machine
end

