-- ==== Sys2Proof/Machine/Block.lean ====
section
/-! DEFINITION. Blocks of a sequencer (08 R181 to R184, R186, R209, R210): issue, commit and the sending of commit effects; asynchronous traps
(R189); replies (R183, R247); waits (R186); what is filled into its windows (R177, R262). -/

namespace Sys2Proof.Machine

/-! ## Asynchronous traps and waits (R186, R189) -/

/-- EVENT is pending: m(EVWIN) holds an element (R262). -/
def Seq.eventPending (v : Seq) : Bool := decide (0 < (v.win (BitVec.ofNat 3 (bv v.evwin 0 3))).filled)

/-- The asynchronous trap that would be taken, with its address: VUGALLOC, then FLOOR, then EVENT (R189). -/
def Seq.pendingTrap (v : Seq) : Option (Nat × Word) :=
  match v.pendVug, v.pendFloor with
  | some a, _ => some (causeVUGALLOC, a)
  | none, some a => some (causeFLOOR, a)
  | none, none => if v.eventPending then some (causeEVENT, 0) else none

/-- Asynchronous traps are taken. -/
def Seq.takesTraps (v : Seq) : Bool := v.eie && !v.tl

/-- The sequencer runs blocks. -/
def Seq.alive (v : Seq) : Bool := v.region.isSome && !v.halted && !v.doubleTrapped && !v.frozen

def isFence (e : Queued) : Bool := match e.eff with | .fence _ => true | _ => false
def isClose (e : Queued) : Bool := match e.eff with | .close _ _ => true | _ => false

/-- The last block has committed as far as the next block has to wait for it: no fence and no closing word of it stands (R184, R209). -/
def Seq.settled (v : Seq) : Bool := !v.outbox.any fun e => isFence e || isClose e

/-- The effect is one on the sequencer's own windows, CSRs or work ID. -/
def isLocal (q : Nat) (e : Queued) : Bool :=
  match e.eff with
  | .winFill _ _ => true
  | .winShrink _ _ => true
  | .winWrite _ _ _ => true
  | .csrWrite _ _ => true
  | .widWrite _ _ => true
  | .take _ victim => victim == q
  | _ => false

/-- A commit effect that changes the sequencer alone. -/
def Seq.applyOwn (v : Seq) : Effect → Seq
  | .csrWrite n x => v.writeCsr n.toNat x
  | .widWrite f x => v.setWid f.toNat x
  | e => v.applyLocal e

/-- The closing word of a block acts (R184, R186). -/
def State.closeBlock (s : State) (q : Nat) (c : Option Closing) (next : BitVec 56) : State :=
  let v := s.seq q
  match c with
  | none => s.setSeq q { v with pc := next }
  | some (.call d target) => s.setSeq q { v with regs := writeReg v.regs d (next.setWidth 64), pc := target }
  | some (.ret target) => s.setSeq q { v with pc := target }
  | some .eret => s.setSeq q v.exitTrap
  | some .halt => s.setSeq q { v with pc := next, halted := true }
  | some .wfe =>
    if v.wake = 0 ∧ !v.eie then s.setSeq q { v with pc := next, swarn := v.swarn ||| swCLOSEX }
    else s.setSeq q { v with pc := next, wait := .wfe }
  | some .yield => s.setSeq q { v with pc := next, wait := .yield (s.now + 64) }
  | some (.trap code idx) => (s.setSeq q { v with pc := next }).takeTrap q (next.setWidth 64) causeSOFT idx code.toNat 0

/-- An effect that acts on no other unit: it, or the closing word, can act although a fence before it still waits (log 118). -/
def actsInside (q : Nat) (e : Queued) : Bool :=
  match e.eff with
  | .close _ _ => true
  | .take _ _ => false
  | _ => isLocal q e

/-- One such effect acts. -/
def State.actInside (q : Nat) (s : State) (e : Queued) : State :=
  match e.eff with
  | .close c next => s.closeBlock q c next
  | x => s.setSeq q ((s.seq q).applyOwn x)

/-- The last block ends although a fence of it still waits: what acts on no other unit acts, and the rest stays suspended (R189, R216, log 118). -/
def State.suspend (s : State) (q : Nat) : State :=
  let out := (s.seq q).outbox
  let s := (out.filter (actsInside q)).foldl (State.actInside q) s
  s.setSeq q { s.seq q with outbox := [], suspended := (s.seq q).suspended ++ out.filter fun e => !actsInside q e }

/-- The last block halts the sequencer: no later block issues, before which a trap could be taken. -/
def Seq.halts (v : Seq) : Bool := v.outbox.any fun e => match e.eff with | .close (some .halt) _ => true | _ => false

/-- ASYNC_TRAP_TAKE (R189): before a block issues, or while one waits in issue; a block that waits at its commit for a fence is left (R216). -/
def execAsyncTrapTake (seq : Nat) (s : State) : Host.Outcome State Fault Refusal :=
  let v := s.seq seq
  if !v.alive || !v.takesTraps || v.halts || !(match v.blk with | some b => b.waiting | none => true) || v.pendingTrap.isNone then .next s
  else
    let s := if v.settled then s else s.suspend seq
    let v := s.seq seq
    match v.takesTraps, v.pendingTrap with
    | true, some (cause, addr) =>
      let t := v.enterTrap (v.pc.setWidth 64) cause 255 0 addr
      .next (s.setSeq seq { t with pendVug := if cause = causeVUGALLOC then none else t.pendVug,
                                   pendFloor := if cause = causeFLOOR then none else t.pendFloor })
    | _, _ => .next s

/-- A window whose WAKE bit is 1 holds an element, or an asynchronous trap is pending (R186). -/
def Seq.wakes (v : Seq) : Bool :=
  ((List.finRange 8).any fun k : Fin 8 => bitAt v.wake k.val && decide (0 < (v.mstat[k]).filled)) || v.pendingTrap.isSome

/-- WFE_WAKE (R186). -/
def execWfeWake (seq : Nat) (s : State) : Host.Outcome State Fault Refusal :=
  let v := s.seq seq
  if v.wait = .wfe ∧ v.wakes then .next (s.setSeq seq { v with wait := .none }) else .next s

/-- YIELD_EXPIRY (R186). -/
def execYieldExpiry (seq : Nat) (s : State) : Host.Outcome State Fault Refusal :=
  let v := s.seq seq
  match v.wait with
  | .yield t => if t ≤ s.now ∨ v.wakes then .next (s.setSeq seq { v with wait := .none }) else .next s
  | _ => .next s

/-! ## Issue (R181, R185, R188) -/

/-- What fetching a word of a block comes to. -/
inductive CodeRes where
  | word (w : Code)
  | waits
  | trap (cause : Nat) (addr : Nat)
  deriving DecidableEq, Repr

/-- The block that a sequencer issues next, as a reader (R298). -/
def State.blockReader (s : State) (q : Nat) : Option Reader := some (.block q (s.seq q).blocks.toNat)

/-- Fetch one word of a block (R188). -/
def State.fetchCode (s : State) (q ctx va : Nat) : CodeRes × State :=
  if isControl va then (.trap causeCTL va, s)
  else match s.bytesRead (s.blockReader q) ctx va 4 with
    | some l => (.word (BitVec.ofNat 32 (leValue l)), s)
    | none =>
      match s.translate q ctx va true (s.blockReader q) with
      | (.error e, s) => (if e = codeStopped then .waits else .trap (xlatCause e) va, s)
      | (.ok f, s) =>
        if s.readHeld (.seq q) (accessUnit f.place) then (.waits, s)
        else match s.loadAt f.place va 4 with
        | (.value v _, s) =>
          match s.bytesNow (s.blockReader q) ctx va (leBytes 4 v) with
          | (some _, s) => (.word (BitVec.ofNat 32 v), s)
          | (none, s) => (.waits, s)
        | (.bad, s) => (.trap causeFLOOR va, s)
        | (.waits, s) => (.waits, s)

/-- Fetch the words of a block. -/
def State.fetchCodes (s : State) (q ctx va : Nat) : Nat → List Code → Except CodeRes (List Code) × State
  | 0, acc => (.ok acc, s)
  | n + 1, acc =>
    match s.fetchCode q ctx va with
    | (.word w, s) => s.fetchCodes q ctx ((va + 4) % 2 ^ 56) n (acc ++ [w])
    | (r, s) => (.error r, s)

/-- The warnings of a block's header and shape (R181, R184). -/
def headerWarns (hdr : Code) (words : List Code) : Word :=
  let exits := (words.filter isExitWord).length
  warnIf (decide (bv hdr 16 3 ≠ exits) || decide (bv hdr 0 16 ≠ 0)) swHDRX ||| warnIf (decide (4 < exits)) swEXITX
    ||| warnIf (decide (1 < (words.filter isClosingWord).length)) swCLOSEX

/-- Network words of a sequencer that have not performed at PEER (R369): they go with the rank in the region, wherever that stands (R372). -/
def State.messagesOf (s : State) (q : Nat) : Bool :=
  match s.regionOfSeq q with
  | some r => s.fabric.msgs.any fun m => m.region == r.id && r.seqOfRank m.rank == q
  | none => false

/-- Something holds back what a sequencer has not sent: an access that its home withholds, a command that stands at its core, or a network word (R272,
R369). -/
def State.heldBack (s : State) (q : Nat) : Bool :=
  (s.withheld.any fun a => a.source == .seq q) || (s.cmds.zipIdx.any fun (c, k) => c.seq == q && s.standsAtCore k c) || s.messagesOf q

/-- No fence stands behind which a block had to wait when an asynchronous trap came, and what a restore sends again has been sent (R273). A block of a
trap handler does not wait for a fence, nor for items of a restore while something holds them back that the handler may have to let go (log 118). -/
def State.resumed (s : State) (q : Nat) : Bool :=
  let v := s.seq q
  (v.tl || !v.suspended.any isFence)
    && (!(v.suspended.any fun e => !isFence e && decide (e.id < v.resent)) || (v.tl && s.heldBack q))

/-- BLOCK_ISSUE (R181, R182): the block at PC is fetched and its words begin to issue; a fetch that traps is a synchronous trap (R187). -/
def execBlockIssue (seq : Nat) (s : State) : Host.Outcome State Fault Refusal :=
  let v := s.seq seq
  let pc := v.pc.toNat
  let trap (s : State) (cause addr : Nat) : Host.Outcome State Fault Refusal :=
    .next (s.takeTrap seq (v.pc.setWidth 64) cause 255 0 (BitVec.ofNat 64 addr))
  match s.regionOfSeq seq with
  | none => .next s
  | some r =>
    if !v.alive || v.blk.isSome || v.wait != .none || !v.settled || !s.resumed seq || (v.takesTraps && v.pendingTrap.isSome) then .next s
    else if pc % 4 ≠ 0 then trap s causeALIGN pc
    else if s.ownStores seq pc 4 then .next s
    else match s.fetchCode seq r.ctx pc with
      | (.waits, s) => .next s
      | (.trap cause addr, s) => trap s cause addr
      | (.word hdr, s) =>
        if bv hdr 26 6 ≠ 0x3F then trap s causeBADHDR pc
        else
          let n := bv hdr 19 7 + 1
          if s.ownStores seq (pc + 4) (4 * n) then .next s
          else match s.fetchCodes seq r.ctx ((pc + 4) % 2 ^ 56) n [] with
            | (.error (.trap cause addr), s) => trap s cause addr
            | (.error _, s) => .next s
            | (.ok words, s) =>
              let v := s.seq seq
              .next (s.setSeq seq { v with blk := some { Block.start words v.regs v.preds with swarn := headerWarns hdr words } })

/-! ## Sending commit effects (R183, R209, R210) -/

/-- The items of a sequencer that it sent before an identity. -/
def Seq.earlierAccess (v : Seq) (id : Nat) : Bool :=
  v.items.any fun i => match i with | .access a => decide (a.id < id) | .coreCmd _ => false

/-- No outstanding item of a sequencer is earlier than an identity (R209). -/
def Seq.noneBefore (v : Seq) (id : Nat) : Bool :=
  !v.items.any fun i => match i with | .access a => decide (a.id < id) | .coreCmd c => decide (c.id < id)

/-- An acquire that has not performed, an atomic with AQ or a take, holds a later effect: accesses of later blocks, and everything of its own block
(R210, R245). -/
def Seq.acquireHolds (v : Seq) (e : Queued) : Bool :=
  let holds (id tag : Nat) : Bool := decide (id < e.id) && (tag == e.tag || (match e.eff with | .access _ => true | _ => false))
  (v.items.any fun i => match i with | .access a => a.aq && holds a.id a.tag | .coreCmd _ => false)
    || v.awaits.any fun a => a.isTake && holds a.id a.tag

def earlierAccessIn (kept : List Queued) : Bool := kept.any fun e => match e.eff with | .access _ => true | _ => false

/-- Commands of a sequencer, of the identities given, that have not been applied, where they stand. -/
def State.commandsOf (s : State) (q : Nat) (of : Nat → Bool) : Bool :=
  (s.cmds.any fun c => c.seq == q && of c.id)
    || (s.net.any fun p => match p.payload with | .cmd c => c.seq == q && of c.id | .take t => t.thief == q && of t.id | _ => false)
    || s.seqs.any fun (_, v) => v.arrivedTakes.any fun t => t.thief == q && of t.id

/-- What of some bytes, given by address and length, lies outside others. -/
def cutPart (x p : Nat × Nat) : List (Nat × Nat) :=
  let from_ := max x.1 (p.1 + p.2)
  [(x.1, min x.2 (p.1 - x.1)), (from_, x.1 + x.2 - from_)].filter fun y => y.2 != 0

/-- Bytes placed so far: those of some parts, each counted once (R366, R367, R368). -/
def placedBytes : List (Nat × Nat) → Nat
  | [] => 0
  | p :: rest => ((rest.foldl (fun l q => l.flatMap fun x => cutPart x q) [p]).map (·.2)).sum + placedBytes rest

/-- The connection of a handle still works (R371). -/
def Fabric.works (f : Fabric) (handle : Nat) : Bool := f.conns.any fun c => c.handle == handle && !c.failed

/-- An engine write into the shadow of a buffer has begun and not completed (R213); one whose connection has failed goes no further. -/
def State.shadowBusy (s : State) (b : PubBuf) : Bool :=
  (s.fabric.inMsgs.any fun m => m.buf == some b.handle && !m.placed.isEmpty && decide (placedBytes m.placed < m.len) && s.fabric.works m.handle)
    || s.fabric.msgs.any fun m => m.op == .read && m.status.isNone && !m.placed.isEmpty && decide (placedBytes m.placed < m.len)
        && (match s.region? m.region with | some r => r.ctx == b.ctx | none => false) && b.inVisible m.laddr

/-- The bound buffer whose visible range begins at an address, in the context of a sequencer's region. -/
def State.bufferAt (s : State) (q : Nat) (va : Word) : Option PubBuf :=
  (s.regionOfSeq q).bind fun r => s.fabric.bufs.find? fun b => b.bound && b.ctx == r.ctx && b.visible == va.toNat

def isTake : Effect → Bool
  | .take _ _ => true
  | _ => false

def isLaunch : Instr → Bool
  | .launch .. => true
  | _ => false

/-- An effect may be sent now, with `kept` the earlier ones that still wait (R209, R210, R213, R220, R248). -/
def State.mayGo (s : State) (q : Nat) (kept : List Queued) (e : Queued) : Bool :=
  let v := s.seq q
  !kept.any isFence &&
    match e.eff with
    | .fence scope =>
      kept.isEmpty && v.noneBefore e.id && !s.commandsOf q (fun id => decide (id < e.id)) && (decide (scope < 8) || !s.messagesOf q)
    | .access a =>
      !v.acquireHolds e && !(a.rl && v.earlierAccess e.id)
        && !kept.any fun k => match k.eff with | .access b => rangesMeet b.span.1 b.span.2 a.span.1 a.span.2 | _ => false
    | .publish va => !v.acquireHolds e && !v.earlierAccess e.id && !earlierAccessIn kept
        && (match s.bufferAt q va with | some b => !s.shadowBusy b | none => true)
    | .cmd c _ _ =>
      !v.acquireHolds e && (!isLaunch c.instr || (!v.earlierAccess e.id && !earlierAccessIn kept))
        && !kept.any fun k => match k.eff with | .cmd d _ _ => unitsMeet c.unit d.unit | _ => false
    | .close _ _ => !kept.any fun k => isLocal q k && !isTake k.eff
    | _ => !v.acquireHolds e && !kept.any (isLocal q)

/-! ## `publish` (R213) -/

/-- The cluster and the context in which a unit's addresses translate. -/
def State.translates (s : State) : UnitId → Option (Nat × Nat)
  | .seq q => (s.regionOfSeq q).map fun r => (q, r.ctx)
  | .edge n _ => (s.regionOfCore n).map fun r => (clusterOf n, r.ctx)
  | _ => none

/-- An access to a published buffer goes to its visible copy, whichever that is now (R213). -/
def State.aim (s : State) (a : Access) : Access × State :=
  match s.translates a.source with
  | none => (a, s)
  | some (cluster, ctx) =>
    if s.fabric.bufs.any fun b => b.bound && b.ctx == ctx && b.inVisible a.va then
      match s.translate cluster ctx a.va false with
      | (.ok f, s) => ({ a with place := f.place }, s)
      | (.error _, s) => (a, s)
    else (a, s)

def State.aimPackets : State → List Packet → List Packet × State
  | s, [] => ([], s)
  | s, p :: rest =>
    let (p, s) := match p.payload with
      | .access a => let (a, s) := s.aim a; ({ p with payload := .access a, dst := accessUnit a.place }, s)
      | _ => (p, s)
    let (l, s) := s.aimPackets rest
    (p :: l, s)

def State.aimAccesses : State → List Access → List Access × State
  | s, [] => ([], s)
  | s, a :: rest =>
    let (a, s) := s.aim a
    let (l, s) := s.aimAccesses rest
    (a :: l, s)

/-- Accesses that have not reached the floor yet find the copies as they stand now. -/
def State.aimAll (s : State) : State :=
  let (net, s) := s.aimPackets s.net
  let (l, s) := s.aimAccesses s.atSlice
  { s with net := net, atSlice := l }

/-- `publish` exchanges the copies, and answers with the generation (R213). -/
def State.publish (s : State) (q id : Nat) (va : Word) : State :=
  match s.bufferAt q va with
  | some b =>
    let b' := { b with exchanged := !b.exchanged, generation := b.generation + 1 }
    { s with fabric := { s.fabric with bufs := s.fabric.bufs.map fun (x : PubBuf) => if x.handle = b.handle ∧ x.bound then b' else x } }.aimAll.reply
      .engine q id [b'.generation]
  | none => (s.setSeq q { s.seq q with swarn := (s.seq q).swarn ||| swPUBX }).reply .engine q id [0]

/-- Send one commit effect; none where a take has to wait for a counter. -/
def State.sendEffect (s : State) (q : Nat) (e : Queued) : Option State :=
  let v := s.seq q
  match e.eff with
  | .access a => let (a, s) := s.aim a; some (s.send .req (.seq q) (accessUnit a.place) (.access a))
  | .fence _ => some s
  | .publish va => some (s.publish q e.id va)
  | .cmd c dst cls => some (s.send cls (.seq q) dst (.cmd c))
  | .close c next => some (s.closeBlock q c next)
  | .take m victim =>
    if victim = q then (s.takeRecord q q e.id m).map fun (vals, s) => s.reply (.seq q) q e.id vals true
    else some (s.send .cmd (.seq q) (.seq victim) (.take ⟨e.id, q, m⟩))
  | x => some (s.setSeq q (v.applyOwn x))

/-- Go through effects in order, with those given that still wait before them; send those that may go, and answer with those that stay. -/
def State.sendEach (q : Nat) (before : List Queued) : State → List Queued → List Queued → List Queued × State
  | s, kept, [] => (kept, s)
  | s, kept, e :: rest =>
    match if s.mayGo q (before ++ kept) e then s.sendEffect q e else none with
    | some s => s.sendEach q before kept rest
    | none => s.sendEach q before (kept ++ [e]) rest

/-- Nothing more goes out of a sequencer: a freeze saves what it has not sent (R272). -/
def State.seqFreezing (s : State) (q : Nat) : Bool := match s.regionOfSeq q with | some r => r.freezing | none => false

/-- Send what may go: of suspended effects, then of the last block's; those of a trap handler do not wait for a suspended fence (log 118). -/
def State.sendEffects (s : State) (q : Nat) : State :=
  if s.seqFreezing q then s
  else
    let (held, s) := s.sendEach q [] [] (s.seq q).suspended
    let s := s.setSeq q { s.seq q with suspended := held }
    let (kept, s) := s.sendEach q (held.filter fun e => !isFence e) [] (s.seq q).outbox
    s.setSeq q { s.seq q with outbox := kept }

/-- The items of a block that are outstanding from its commit (R198). -/
def newItems (l : List Queued) : List Outstanding := l.filterMap Queued.item

/-- The replies that a block awaits. -/
def newAwaits (l : List Queued) : List Await := (l.filter fun e => !e.regs.isEmpty).map fun e => ⟨e.id, e.tag, e.regs, isTake e.eff⟩

/-- The natural successor of a block (R184). -/
def Block.successor (b : Block) (pc : BitVec 56) : BitVec 56 := b.exitTo.getD (pc + 4 + BitVec.ofNat 56 (4 * b.words.length))

/-- The block in issue commits (R183, R184). -/
def Seq.commit (v : Seq) (b : Block) (id : Nat) : Seq :=
  { v with regs := b.regs, preds := b.preds, swarn := v.swarn ||| b.swarn, blocks := v.blocks + 1, blk := none,
           outbox := v.outbox ++ b.effects ++ [⟨id, v.blocks.toNat, .close b.closing (b.successor v.pc), []⟩],
           items := v.items ++ newItems b.effects, awaits := v.awaits ++ newAwaits b.effects }

/-- An effect for which a block waits at its commit: a fence (R209), a publish (R213), a launch (R248). -/
def isRelease (e : Queued) : Bool :=
  match e.eff with
  | .fence _ => true
  | .publish _ => true
  | .cmd c _ _ => isLaunch c.instr
  | _ => false

/-- A block whose first commit effect is one that may not go yet: none of it has acted, and it waits, so that a trap or a pre-emption discards it
(R209, R216, log 118). -/
def State.commitWaits (s : State) (q : Nat) (b : Block) : Bool :=
  match b.effects with
  | e :: _ => isRelease e && !s.mayGo q ((s.seq q).suspended ++ (s.seq q).outbox) e
  | [] => false

/-- BLOCK_COMMIT (R183): a block whose words have all issued commits, and its effects go out; effects of earlier blocks that had to wait go out
when they may. -/
def execBlockCommit (seq : Nat) (s : State) : Host.Outcome State Fault Refusal :=
  let s := s.sendEffects seq
  let v := s.seq seq
  match v.blk with
  | none => .next s
  | some b =>
    if b.idx ≠ b.words.length ∨ v.doubleTrapped then .next s
    else if s.commitWaits seq b then .next (s.setSeq seq { v with blk := some { b with waiting := true } })
    else
      let (id, s) := s.fresh
      .next ((s.setSeq seq (v.commit b id)).sendEffects seq)

/-! ## Replies (R183, R247) -/

/-- No earlier reply that is still awaited writes a register of a reply, nor, for a take, WID. -/
def replyApart : List Await → Nat → List Reg → Bool → Bool
  | [], _, _, _ => true
  | a :: rest, id, regs, take =>
    if a.id = id then true
    else if a.regs.any (fun r => r != 0 && regs.contains r) || (take && a.isTake) then false
    else replyApart rest id regs take

/-- The region of a sequencer is stopping (R272). -/
def State.seqStopping (s : State) (q : Nat) : Bool := match s.regionOfSeq q with | some r => r.stopping | none => false

/-- A reply may be written: it is the first that is awaited, in program order of the words (R183). While the region is stopping it does not wait for those
that a freeze saves, where none of them writes the same register (R272, log 9). -/
def State.replyDue (s : State) (q : Nat) (a : Await) : Bool :=
  let l := (s.seq q).awaits
  l.head?.any (fun x => x.id == a.id) || (s.seqStopping q && replyApart l a.id a.regs a.isTake)

/-- Write a reply: into the registers, and into the working copies that the block in issue has not written. DESIGN CHOICE (log 134): R183 writes it
when it arrives, so it goes over the value of a later block that has committed, and under that of a block that commits after it. -/
def Seq.writeReply (v : Seq) (a : Await) (vals : List Word) : Seq :=
  let pairs := a.regs.zip vals
  let put (regs : Vector Word 32) (l : List (Reg × Word)) : Vector Word 32 := writeRegs regs (l.map (·.1)) (l.map (·.2))
  { v with
    regs := put v.regs pairs
    blk := v.blk.map fun b => { b with regs := put b.regs (pairs.filter fun p => !b.written.contains p.1) }
    wid := if a.isTake ∧ vals.length = 5 then vals[1]?.getD 0 else v.wid
    awaits := v.awaits.filter fun x => x.id != a.id }

/-- REPLY_RESULT (R183). -/
def execReplyResult (seq index : Nat) (s : State) : Host.Outcome State Fault Refusal :=
  let v := s.seq seq
  match v.arrivedReplies[index]? with
  | none => .next s
  | some (id, vals) =>
    let v' := { v with arrivedReplies := dropNth v.arrivedReplies index }
    match v.awaits.find? fun a => a.id == id with
    | none => .next (s.setSeq seq v')
    | some a => if s.replyDue seq a then .next (s.setSeq seq (v'.writeReply a vals)) else .next s

/-! ## Fills from outside (R177, R262) -/

/-- A window has room for n elements beside those reserved (R124, R222). -/
def Seq.roomFor (v : Seq) (m : BitVec 3) (n : Nat) : Bool :=
  mdV (v.desc m) && decide ((v.win m).filled + v.reserved m + n ≤ mdCap (v.desc m))

/-- The elements of a fill: COUNT doublewords, or records of four lanes each with missing lanes zero (R177). -/
def SeqFill.elems (f : SeqFill) (record : Bool) : List (List Word) :=
  let lane (k : Nat) : Word := if k < f.count then (f.lanes[k]?.getD 0).setWidth 64 else 0
  if record then (List.range ((f.count + 3) / 4)).map fun k => (List.range 4).map fun j => lane (4 * k + j)
  else (List.range f.count).map fun k => [lane k]

/-- The fill at a place is the first of its source. -/
def firstOfSource (l : List SeqFill) (k : Nat) : Bool :=
  match l[k]? with
  | some f => !(l.take k).any fun g => g.source == f.source
  | none => false

/-- The fill at a place goes next into its window: it is the first of its source, and no such fill of the window came earlier (R177). -/
def fillDue (l : List SeqFill) (k : Nat) : Bool :=
  firstOfSource l k && !(List.range k).any fun j => firstOfSource l j && decide ((l[j]?).map (·.win) = (l[k]?).map (·.win))

/-- A run ends when its completion token is filled (R168). -/
def State.fillEnds (s : State) : UnitId → State
  | .edge n e =>
    let e : Fin 4 := Fin.ofNat 4 e
    let sl := s.edgeSlot n e
    if sl.tokenPending then s.setEdge n e (sl.endRun .done) else s
  | _ => s

/-- The windows of a sequencer take nothing: its region is frozen, or has ended (R259). -/
def Seq.rests (v : Seq) : Bool := v.frozen || v.region.isNone

/-- SEQ_WINDOW_FILL (R177): a fill enters its window whole, or waits. -/
def execSeqWindowFill (seq index : Nat) (s : State) : Host.Outcome State Fault Refusal :=
  let v := s.seq seq
  match v.arrivedFills[index]? with
  | none => .next s
  | some f =>
    let es := f.elems (mdElem (v.desc f.win))
    if v.rests || !fillDue v.arrivedFills index || !v.roomFor f.win es.length then .next s
    else .next ((s.setSeq seq ({ v with arrivedFills := dropNth v.arrivedFills index }.appendAll f.win es)).fillEnds f.source)

/-- Fill the oldest records of the event queue into m(EVWIN) while it is a bound record window with room (R262). -/
def Seq.drainEvents (v : Seq) : Nat → Seq
  | 0 => v
  | n + 1 =>
    let m : BitVec 3 := BitVec.ofNat 3 (bv v.evwin 0 3)
    match v.events with
    | [] => v
    | r :: rest =>
      if v.recordWin m && v.roomFor m 1 then
        let e := r.set 1 (r[1] ||| BitVec.ofNat 64 (at_ v.lost 52 8))
        ({ v with events := rest, lost := 0 }.appendElem m e.toList).drainEvents n
      else v

/-- EVENT_RECORD_DELIVER (R262): a record enters the event queue, or is lost where it is full; and records go on into the window. -/
def execEventRecordDeliver (seq : Nat) (s : State) : Host.Outcome State Fault Refusal :=
  let v := (s.seq seq).drainEvents 64
  if v.rests then .next s
  else
    let v' := match v.arrivedRecords with
      | [] => v
      | r :: rest =>
        if v.events.length < 64 then { v with arrivedRecords := rest, events := v.events ++ [r] }
        else { v with arrivedRecords := rest, lost := min (v.lost + 1) 255 }
    .next (s.setSeq seq (v'.drainEvents 64))

end Sys2Proof.Machine
end

