-- ==== Sys2Proof/Machine/Router.lean ====
section
/-! DEFINITION. Routers and links (06 R127-R133; 14 R299, R300), soft errors of the store (06 R120), and SWAP beats that wait for a port (09
R234). -/

namespace Sys2Proof.Machine

/-! ## Output masks (R128, R129, R133) -/

/-- Output mask bits: N 16, E 8, S 4, W 2, local 1. -/
def maskDirs (m : Nat) : List Dir :=
  (if m.testBit 4 then [.north] else []) ++ (if m.testBit 3 then [.east] else []) ++ (if m.testBit 2 then [.south] else [])
    ++ (if m.testBit 1 then [.west] else [])
def maskLocal (m : Nat) : Bool := m.testBit 0

/-- The mask that a fork with the mask m acts with: with fewer than two directions it is a route (R133). -/
def forkMask (m : Nat) : Nat := if (maskDirs m).length < 2 then (if m / 2 = 0 then 1 else m / 2 * 2) else m

/-- The mask that a switch word acts with, 0 for term (R129, R133). -/
def effectiveMask (x : BitVec 16) : Nat :=
  let m := swOut x
  let bits := (maskDirs m).length + b2n (maskLocal m)
  match swKind x with
  | 0 => if bits = 0 then 0 else if bits = 1 then m else forkMask m
  | 1 => forkMask m
  | 2 => if maskLocal m ∧ (maskDirs m).length = 1 then m else forkMask m
  | _ => 0

/-- The RWARN bits that a switch word sets when configuration writes it (R133): they describe its SEL, and its KIND with its mask. -/
def switchWarn (x : BitVec 16) : Lane :=
  let m := swOut x
  let dirs := (maskDirs m).length
  let bits := dirs + b2n (maskLocal m)
  (if 8 ≤ (swSel x).toNat then rwSSEL else 0)
    ||| match swKind x with
      | 0 => if bits = 1 then 0 else rwSMASK
      | 1 => if dirs < 2 then rwSMASK else 0
      | 2 => if maskLocal m ∧ dirs = 1 then 0 else rwSMASK
      | 3 => if bits = 0 then 0 else rwSMASK
      | _ => rwSKIND

/-! ## Neighbours -/

/-- The input code of a side (R128). -/
def dirCode : Dir → BitVec 4
  | .north => 0
  | .east => 1
  | .south => 2
  | .west => 3

/-- The side on which a beat sent in a direction arrives. -/
def opposite : Dir → Dir
  | .north => .south
  | .east => .west
  | .south => .north
  | .west => .east

/-- The core in a direction; none off the die or at a dark core (R128, R132). -/
def State.neighbour (s : State) (n : Nat) (d : Dir) : Option Nat :=
  let x := coreX n
  let y := coreY n
  let go (ok : Bool) (m : Nat) : Option Nat := if ok && !s.isDark m then some m else none
  match d with
  | .north => go (decide (0 < y)) (coreOf (coreDie n) x (y - 1))
  | .east => go (decide (x < 255)) (coreOf (coreDie n) (x + 1) y)
  | .south => go (decide (y < 255)) (coreOf (coreDie n) x (y + 1))
  | .west => go (decide (0 < x)) (coreOf (coreDie n) (x - 1) y)

/-! ## The link check code (R299) -/

/-- One step of the check register with the next bit. -/
def crcStep (reg : Nat) (bit : Bool) : Nat :=
  let fb := bit != reg.testBit 13
  let r := reg * 2 % 2 ^ 14
  if fb then r ^^^ 0x0805 else r

/-- Bits 0 to 585 of the flit that carries a beat: sixteen lanes and ten bits of the control word. -/
def flitBits (b : Beat) : List Bool :=
  (b.lanes.toList.flatMap fun x => (List.range 36).map fun i => x.getLsbD i) ++ (List.range 10).map fun i => b.control.getLsbD i

/-- The link check code of a beat (R299). -/
def checkCode (b : Beat) : BitVec 14 := BitVec.ofNat 14 ((flitBits b).foldl crcStep 0x3FFF)

/-! ## Moving a beat -/

/-- A side of a router can take a beat of a link: its staging register is free, or no switch word of it names them and the beat will be
discarded (R130, R133); a link that has stopped takes nothing (R300). -/
def State.sideTakes (s : State) (m : Nat) (side : Dir) (link : BitVec 4) : Bool :=
  let c := s.core m
  !s.deadLinks.contains (.fabric m side) && ((c.switch? (dirCode side) link).isNone || !c.staged (dirCode side) link)

/-- A side of a router takes a beat (R130, R133). -/
def State.takeSide (s : State) (m : Nat) (side : Dir) (link : BitVec 4) (b : Beat) : State :=
  let c := s.core m
  let s := { s with linkFails := s.linkFails.filter fun p => p.1 != LinkId.fabric m side }
  match c.switch? (dirCode side) link with
  | none => s.setCore m { c with rwarn := c.rwarn ||| rwNOROUTE }
  | some _ => s.setCore m (c.stage (dirCode side) link b)

/-- A beat goes out in some directions (R131). -/
def State.sendDirs (s : State) (n : Nat) (link : BitVec 4) (b : Beat) : List Dir → State
  | [] => s
  | d :: ds =>
    match s.neighbour n d with
    | some m => (s.takeSide m (opposite d) link b).sendDirs n link b ds
    | none => s.sendDirs n link b ds

/-- Every direction can take the beat in this cycle (R131). -/
def State.dirsTake (s : State) (n : Nat) (link : BitVec 4) (ds : List Dir) : Bool :=
  ds.all fun d => match s.neighbour n d with | some m => s.sideTakes m (opposite d) link | none => false

/-- A beat goes into the local window of its link; where no window takes the link it is discarded and NOWIN set (R126). -/
def Core.fillLocal (c : Core) (link : BitVec 4) (b : Beat) : Option Core :=
  match c.linkWin link with
  | some w => c.fillBeat w b
  | none => some { c with rwarn := c.rwarn ||| rwNOWIN }

/-- The staged beat of an input and link. -/
def Core.stagedBeat (c : Core) (sel link : BitVec 4) : Option Beat := (c.staging.find? fun x => x.sel == sel && x.link == link).map (·.beat)

/-- Move a staged beat to every output of its switch word, in one cycle, or leave it where it stands (R129 to R131). -/
def State.moveBeat (s : State) (n : Nat) (sel link : BitVec 4) (b : Beat) (mask : Nat) : State :=
  let c := s.core n
  let dirs := maskDirs mask
  if !s.dirsTake n link dirs then s
  else
    let c' := c.unstage sel link
    match (if maskLocal mask then c'.fillLocal link b else some c') with
    | none => s
    | some c'' => (s.setCore n c'').sendDirs n link b dirs

/-- The router of a core stands still: stopped by a store fault (R120), its region is stopping (R272), or no region holds the core (R259, R396). -/
def State.routerStill (s : State) (n : Nat) : Bool :=
  (s.core n).stop || (match s.regionOfCore n with | some r => r.freezing || r.frozen | none => true)

/-- ROUTER_FORWARD (R130): a staged beat moves one hop by its switch word; a term, or a beat that no switch word names, is discarded. -/
def execRouterForward (core : Nat) (sel link : BitVec 4) (s : State) : Host.Outcome State Fault Refusal :=
  let c := s.core core
  if s.routerStill core then .next s
  else match c.stagedBeat sel link with
    | none => .next s
    | some b =>
      match c.switch? sel link with
      | none => .next (s.setCore core { c.unstage sel link with rwarn := c.rwarn ||| rwNOROUTE })
      | some x =>
        let mask := effectiveMask x
        if mask = 0 then .next (s.setCore core (c.unstage sel link))
        else if mask = 1 then .next s
        else .next (s.moveBeat core sel link b mask)

/-- LINK_FILL (R124): a staged beat that goes to the local window only. -/
def execLinkFill (core : Nat) (sel link : BitVec 4) (s : State) : Host.Outcome State Fault Refusal :=
  let c := s.core core
  if s.routerStill core then .next s
  else match c.stagedBeat sel link, c.switch? sel link with
    | some b, some x => if effectiveMask x = 1 then .next (s.moveBeat core sel link b 1) else .next s
    | _, _ => .next s

/-- SWAP_PORT_SEND (R234): a pending SWAP leaves a port once its staging register is free. DESIGN CHOICE (log 106): neither a handler nor a stream
produces a SWAP beat, so R34 gives its GRAPH no number; the model puts 0. -/
def execSwapPortSend (core : Nat) (port : Fin 4) (s : State) : Host.Outcome State Fault Refusal :=
  let c := s.core core
  if !c.swapPorts[port] || s.routerStill core then .next s
  else match c.portLink port with
    | none => .next (s.setCore core { c with swapPorts := c.swapPorts.set port false })
    | some link =>
      let sel : BitVec 4 := BitVec.ofNat 4 (4 + port)
      if c.staged sel link then .next s
      else .next (s.setCore core { c.stage sel link (Beat.blank 0 markSWAP) with swapPorts := c.swapPorts.set port false })

/-- STORE_SOFT_ERROR (R120): a second error in a word with one makes it uncorrectable. -/
def execStoreSoftError (core : Nat) (addr : Nat) (uncorrectable : Bool) (s : State) : Host.Outcome State Fault Refusal :=
  let c := s.core core
  let a := addr % 8192
  if uncorrectable || c.softStore.contains a || c.badStore.contains a then
    .next (s.setCore core { c with badStore := a :: c.badStore.filter (· != a), softStore := c.softStore.filter (· != a) })
  else .next (s.setCore core { c with softStore := a :: c.softStore })

/-! ## Link errors (R300) -/

/-- The die of the receiving end of a link. -/
def linkDie : LinkId → Nat
  | .fabric core _ => coreDie core
  | .dieNet cluster _ => seqDie cluster

/-- Failures in a row of one flit on a link. -/
def State.failsOf (s : State) (l : LinkId) : Nat := match s.linkFails.find? fun p => p.1 == l with | some p => p.2 | none => 0

/-- LINK_REPLAY (R300): a check failure; the flit is discarded and sent again, and the die counts it. -/
def execLinkReplay (link : LinkId) (s : State) : Host.Outcome State Fault Refusal :=
  if s.deadLinks.contains link then .next s
  else .next { s with lretry := countUp s.lretry (linkDie link),
                      linkFails := (link, s.failsOf link + 1) :: s.linkFails.filter fun p => p.1 != link }

/-- The window that a side of a router feeds: that of the first switch word that delivers its beats locally. -/
def Core.sideWin (c : Core) (side : Dir) : Nat :=
  match c.switches.find? fun x => swSel x == dirCode side && maskLocal (effectiveMask x) with
  | some x => match c.linkWin (swLink x) with | some w => w.val | none => 0
  | none => 0

/-- UNCORRECTABLE_LINK_ERROR (R300): one flit has failed its check for the fourth time in a row. The link stops; a core writes CFAULT, a
die-network node reports to the package (R355). -/
def execUncorrectableLinkError (link : LinkId) (s : State) : Host.Outcome State Fault Refusal :=
  if s.deadLinks.contains link || decide (s.failsOf link < 3) then .next s
  else
    let s := { s with deadLinks := link :: s.deadLinks, linkFails := s.linkFails.filter fun p => p.1 != link }
    match link with
    | .fabric core side => .next (s.coreFault core 4 0 0 ((s.core core).sideWin side) 0 0 0)
    | .dieNet cluster _ => .next (s.packageEventFree (seqDie cluster) 3)

end Sys2Proof.Machine
end

