-- ==== Sys2Proof/Machine/Shake.lean ====
section
/-! DEFINITION. SHAKE256 of a byte string, which the manual names for image checks and signatures (02 R37; 09 R227, R242): the function of FIPS
202 (log 6). Its state is held as five rows of five words; the tables that the standard derives from recurrences are derived here too. -/

namespace Sys2Proof.Machine

/-- Five rows of five words. -/
abbrev Rows := List (List Word)

/-- Words of a block in the order in which it fills the rows. -/
def rowsOf (l : List Word) : Rows := (List.range 5).map fun y => (l.drop (5 * y)).take 5

/-- A cyclic list begins n places further on. -/
def onward {α : Type} (n : Nat) (l : List α) : List α := l.drop n ++ l.take n

def xorRows : List Word → List Word → List Word := List.zipWith (· ^^^ ·)

/-- Every row takes in the sums of the two neighbouring columns, of which the higher is rotated by one. -/
def mixColumns (a : Rows) : Rows :=
  let sums := a.foldl xorRows (List.replicate 5 0)
  a.map (xorRows (xorRows (onward 4 sums) ((onward 1 sums).map (·.rotateLeft 1))))

/-- The n-th place after (1, 0) on the walk from (x, y) to (y, 2x + 3y), modulo 5: it visits every place but (0, 0). -/
def walkPlace : Nat → Nat × Nat
  | 0 => (1, 0)
  | n + 1 => let p := walkPlace n; (p.2, (2 * p.1 + 3 * p.2) % 5)

/-- The rotation of a word: the n-th place of the walk has the n-th triangular number, and (0, 0) has none. -/
def spinOf (x y : Nat) : Nat :=
  match (List.range 24).find? fun n => walkPlace n == (x, y) with
  | some n => (n + 1) * (n + 2) / 2
  | none => 0

/-- The rotations, row by row. -/
def spins : List (List Nat) := (List.range 5).map fun y => (List.range 5).map fun x => spinOf x y

/-- Rotate every word; row v then gathers one word from each row, from column 3v in row 0 and one column further on in each next row. -/
def scatterRows (a : Rows) : Rows :=
  let turned := List.zipWith (List.zipWith fun w n => w.rotateLeft (n % 64)) a spins
  (List.range 5).map fun v => turned.zipIdx.map fun (row, u) => row.getD ((u + 3 * v) % 5) 0

/-- The one step that is not linear: each word takes in the next but one where the next has zeros. -/
def bendRow (r : List Word) : List Word := xorRows r (List.zipWith (fun b c => ~~~b &&& c) (onward 1 r) (onward 2 r))

/-- The shift register that the round words come from, with the polynomial x^8 + x^6 + x^5 + x^4 + 1. -/
def stepRegister (r : BitVec 8) : BitVec 8 := (r <<< 1) ^^^ (if r.msb then 0b01110001 else 0)

/-- The word of a round: its bits 2^j - 1, for j from 0 to 6, are the next seven bits of the register. -/
def roundWord (r : BitVec 8) : Word × BitVec 8 :=
  (List.range 7).foldl (fun (w, r) j => (if r.getLsbD 0 then w ||| (1 <<< (2 ^ j - 1)) else w, stepRegister r)) (0, r)

/-- The first word of the first row takes in the word of the round. -/
def addRoundWord (w : Word) : Rows → Rows
  | (x :: row) :: rest => ((x ^^^ w) :: row) :: rest
  | a => a

/-- One round, with the register before it and after it. -/
def permuteRound (p : Rows × BitVec 8) : Rows × BitVec 8 :=
  let (w, r) := roundWord p.2
  (addRoundWord w ((scatterRows (mixColumns p.1)).map bendRow), r)

/-- The permutation: twenty-four rounds. -/
def permute (a : Rows) : Rows := ((List.range 24).foldl (fun p _ => permuteRound p) (a, 1)).1

/-- Bytes of a block that go into the rows. -/
def shakeBlock : Nat := 136

/-- The words of a block's bytes, filled up with zeros to the twenty-five of the state. -/
def blockWords (block : List Byte) : List Word :=
  (List.range 25).map fun i => if i < 17 then BitVec.ofNat 64 (leValue ((block.drop (8 * i)).take 8)) else 0

/-- A message with the suffix 1111 and the padding, in whole blocks. -/
def padMessage (m : List Byte) : List Byte :=
  let n := shakeBlock - m.length % shakeBlock
  m ++ (List.range n).map fun i => (if i = 0 then 0x1F else 0) ||| (if i + 1 = n then 0x80 else 0)

/-- Take in n blocks, each followed by the permutation. -/
def takeBlocks : Nat → Rows → List Byte → Rows
  | 0, a, _ => a
  | n + 1, a, m => takeBlocks n (permute (rowsOf (xorRows a.flatten (blockWords m)))) (m.drop shakeBlock)

/-- The first n bytes of SHAKE256, for n up to 136. -/
def shake256 (m : List Byte) (n : Nat) : List Byte :=
  let p := padMessage m
  ((takeBlocks (p.length / shakeBlock) (rowsOf (List.replicate 25 0)) p).flatten.flatMap fun w => leBytes 8 w.toNat).take n

end Sys2Proof.Machine
end

