-- ==== Sys2Proof/Machine/Image.lean ====
section
/-! DEFINITION. Images (09 R227, R228): reading them, every check of R229 with those it names (03 R56; 06 R122, R132), what a core takes from one
(09 R230, R231), and the reproducibility signature (02 R37). -/

namespace Sys2Proof.Machine

/-! ## Headers (R227) -/

def imageMagic : Nat := 0xC1E71A9E

/-- The value of n bytes at an offset. -/
def leAt (l : List Byte) (off n : Nat) : Nat := leValue ((l.drop off).take n)

def imageSize (h : List Byte) : Nat := leAt h 0 4
def imageW (h : List Byte) : Nat := leAt h 14 2
def imageH (h : List Byte) : Nat := leAt h 12 2

/-- MAGIC, VER and SIZE are as R227 gives. -/
def headerOk (h : List Byte) : Bool :=
  leAt h 4 4 == imageMagic && leAt h 8 1 == 1 && decide (64 ≤ imageSize h) && imageSize h % 64 == 0

/-- A REFUSED status with its reason and the first offending pattern (R229). -/
def refusedImage (reason : Nat) (pattern : Nat := 0xFFFFFFFF) : Word :=
  BitVec.ofNat 64 (at_ pattern 16 32 + at_ reason 8 8 + stREFUSED)

/-- What reading an image comes to. -/
inductive ImageGot where
  | bytes (l : List Byte)
  | refused (w : Word)
  | waits
  deriving DecidableEq, Repr

/-- Read an image for a command: aligned to 64, its header first, then all of it (R229). -/
def State.readImage (s : State) (ctx : Nat) (c : Cmd) (va : Nat) : ImageGot × State :=
  if va % 64 ≠ 0 then (.refused (refusedImage 1), s)
  else match s.readForCmd c.seq ctx c va 64 with
    | (.waits, s) => (.waits, s)
    | (.noXlat, s) => (.refused (refusedImage 1), s)
    | (.bad, s) => (.refused (refusedImage 0xFF), s)
    | (.bytes h, s) =>
      if !headerOk h then (.refused (refusedImage 1), s)
      else match s.readForCmd c.seq ctx c va (imageSize h) with
        | (.waits, s) => (.waits, s)
        | (.noXlat, s) => (.refused (refusedImage 1), s)
        | (.bad, s) => (.refused (refusedImage 0xFF), s)
        | (.bytes l, s) => (.bytes l, s)

/-! ## Patterns (R228) -/

/-- A pattern of an image: its place in the table, its kind and index, its data, and its rectangles. -/
structure Pattern where
  pos : Nat
  kind : Nat
  index : Nat
  len : Nat
  data : List Byte
  rects : List Nat
  /-- its datum and its rectangles lie within the image -/
  inside : Bool
  deriving DecidableEq, Repr

/-- The pattern of a table entry. DESIGN CHOICE (log 147): one whose ROFF is not a multiple of 8 counts as outside the image. -/
def patternAt (image : List Byte) (i : Nat) : Pattern :=
  let o := leAt image 16 4 + 16 * i
  let p0 := leAt image o 8
  let doff := bitsOf p0 0 32
  let len := bitsOf p0 32 24
  let roff := leAt image (o + 8) 4
  let rcnt := leAt image (o + 12) 4
  let inside := decide (doff + len ≤ image.length) && roff % 8 == 0 && decide (roff + 8 * rcnt ≤ image.length)
  { pos := i, kind := bitsOf p0 60 4, index := bitsOf p0 56 4, len := len, data := (image.drop doff).take len,
    rects := if inside then (List.range rcnt).map fun k => leAt image (roff + 8 * k) 8 else [], inside := inside }

/-- The pattern table lies within the image, the reserved word is 0, and CHK matches (R227). -/
def tableOk (image : List Byte) : Bool :=
  leAt image 24 8 == 0 && leAt image 16 4 % 16 == 0 && decide (leAt image 16 4 + 16 * leAt image 20 4 ≤ image.length)
    && (image.drop 32).take 32 == shake256 (image.take 32 ++ List.replicate 32 0 ++ image.drop 64) 32

def patternsOf (image : List Byte) : List Pattern := (List.range (leAt image 20 4)).map (patternAt image)

/-- A rectangle covers a core of the region. -/
def rectCovers (r x y : Nat) : Bool :=
  decide (bitsOf r 24 8 ≤ x) && decide (x ≤ bitsOf r 24 8 + bitsOf r 8 8) && decide (bitsOf r 16 8 ≤ y) && decide (y ≤ bitsOf r 16 8 + bitsOf r 0 8)

def Pattern.covers (p : Pattern) (x y : Nat) : Bool := p.rects.any fun r => rectCovers r x y

/-- The values that patterns carry. -/
def Pattern.word (p : Pattern) : Word := BitVec.ofNat 64 (leAt p.data 0 8)
/-- The bits of a window descriptor that are not reserved (R121). -/
def wdescBits : Word := 0xFFFFFFFFFFF00000
def Pattern.desc (p : Pattern) : Word := p.word &&& wdescBits
def Pattern.switchWord (p : Pattern) : BitVec 16 := p.word.setWidth 16
def Pattern.lane (p : Pattern) : Lane := p.word.setWidth 36
def Pattern.record (p : Pattern) : HandlerRec := Vector.ofFn fun k : Fin 12 => BitVec.ofNat 32 (leAt p.data (4 * k) 4)
def Pattern.win (p : Pattern) : Win := Fin.ofNat 16 p.index
/-- The input and link of a switch word. -/
def Pattern.key (p : Pattern) : Nat := if p.kind = 2 then bv p.switchWord 12 4 * 16 + bv p.switchWord 3 4 else p.index

/-! ## Checks of one core (R229) -/

/-- A failed check: its reason and the pattern at fault. -/
abbrev Failure := Nat × Nat

/-- The windows of a core as a handler record or a route of the image finds them: those of the image, or, for `cfg.shadow`, its own. -/
def descIn (l : List Pattern) (w : Win) : Word := match l.find? fun p => p.kind == 1 && p.win == w with | some p => p.desc | none => 0

/-- Store words that two bound windows share. -/
def windowsMeet (a b : Word) : Bool := rangesMeet (wdBase a) (wdFootprint a) (wdBase b) (wdFootprint b)

def linkFilled (d : Word) : Bool := wdBound d && !wdParam d && wdSrc d == 0

/-- R122: a window descriptor, after those before it. DESIGN CHOICE (log 104): a CAP field of 1025 to 2047, which R121 does not give and R122 does
not reject, is accepted and used as written. -/
def windowBad (before : List Pattern) (p : Pattern) : Bool :=
  let d := p.desc
  wdBound d &&
    (wdCap d == 0 || decide (8192 < wdBase d + wdFootprint d) || (wdParam d && decide (wdCap d < wdPsize d))
      || before.any fun q => q.kind == 1 && q.win != p.win && wdBound q.desc &&
          (windowsMeet d q.desc || (linkFilled d && linkFilled q.desc && wdLink d == wdLink q.desc)))

/-- R56: a handler record, with the windows of its core. The offset check is made for fixed-mode taps of bound windows. -/
def recordBad (descs : Win → Word) (h : HandlerRec) : Bool :=
  let d := descs (h0Trig h)
  h0Valid h &&
    (!wdBound d || decide (wdCap d < bv h[0] 6 11) || decide (wdCap d < h11Shrink h)
      || (checkedTaps h).any fun t =>
          let td := descs t.win
          t.mode == 0 && wdBound td && decide (wdCap td ≤ t.off + (if wdBeat td then 0 else 15)))

/-- The directions of a mask stay within a region of w by h cores. -/
def maskInside (m x y w h : Nat) : Bool :=
  (!m.testBit 4 || decide (0 < y)) && (!m.testBit 3 || decide (x + 1 < w)) && (!m.testBit 2 || decide (y + 1 < h)) && (!m.testBit 1 || decide (0 < x))

/-- R132: a switch word, after those before it. -/
def switchBad (descs : Win → Word) (before : List Pattern) (x y w h : Nat) (p : Pattern) : Bool :=
  let s := p.switchWord
  let earlier := before.filter fun q => q.kind == 2
  let sel := (swSel s).toNat
  earlier.any (fun q => q.key == p.key) || (decide (4 ≤ sel) && decide (sel < 8) && earlier.any fun q => swSel q.switchWord == swSel s)
    || (decide (sel < 8) && maskLocal (effectiveMask s) && !(allWins.any fun v => linkFilled (descs v) && wdLink (descs v) == (swLink s).toNat))
    || decide (64 ≤ earlier.length) || !maskInside (swOut s) x y w h

/-- Lane words of the data of a parameter window. -/
def paramWords (d : Word) : Nat := wdStep d * wdPsize d

/-- The checks of one pattern at one core, after the patterns before it there. -/
def patternFails (descs : Win → Word) (x y w h : Nat) (before : List Pattern) (p : Pattern) : List Failure :=
  let f (reason : Nat) (bad : Bool) : List Failure := if bad then [(reason, p.pos)] else []
  f 9 (before.any fun q => q.kind == p.kind && q.key == p.key)
    ++ (if p.kind = 0 then f 6 (recordBad descs p.record)
        else if p.kind = 1 then f 5 (windowBad before p)
        else if p.kind = 2 then f 7 (switchBad descs before x y w h p)
        else if p.kind = 4 then
          let d := descs p.win
          if wdBound d && wdParam d then f 3 (p.len != (paramWords d + 7) / 8 * 36) else f 8 true
        else [])

/-- Go through the patterns of one core in order. -/
def coreFails (descs : Win → Word) (x y w h : Nat) : List Pattern → List Pattern → List Failure
  | _, [] => []
  | before, p :: rest => patternFails descs x y w h before p ++ coreFails descs x y w h (before ++ [p]) rest

/-- The checks of one pattern that look at no core. DESIGN CHOICE (log 148): a rectangle with a bit of 63:32 set lies outside every region, and the
bits above the value of a KIND 2 or KIND 3 datum are ignored. -/
def shapeFails (w h : Nat) (shadow : Bool) (p : Pattern) : List Failure :=
  let f (reason : Nat) (bad : Bool) : List Failure := if bad then [(reason, p.pos)] else []
  f 3 (decide (4 < p.kind) || ((p.kind == 0 || p.kind == 3) && decide (7 < p.index)) || (p.kind == 2 && p.index != 0)
      || (p.kind == 0 && p.len != 48) || ((p.kind == 1 || p.kind == 2 || p.kind == 3) && p.len != 8) || p.rects.isEmpty)
    ++ f 4 (p.rects.any fun r => decide (2 ^ 32 ≤ r) || decide (w < bitsOf r 24 8 + bitsOf r 8 8 + 1)
        || decide (h < bitsOf r 16 8 + bitsOf r 0 8 + 1))
    ++ f 10 (shadow && p.kind != 0 && p.kind != 3)

/-- The first failure: the lowest reason, and the first pattern with it. -/
def firstFailure (l : List Failure) : Option Failure :=
  l.foldl (fun m f => match m with
    | none => some f
    | some g => if f.1 < g.1 ∨ (f.1 = g.1 ∧ f.2 < g.2) then some f else some g) none

/-! ## The whole image -/

/-- Every core of a region, with its coordinates. -/
def Region.places (r : Region) : List (Nat × Nat) := (List.range r.h).flatMap fun y => (List.range r.w).map fun x => (x, y)

/-- Check an image for a region (R229): its patterns, or the status of a rejected one. -/
def State.checkImage (s : State) (r : Region) (shadow : Bool) (image : List Byte) : Except Word (List Pattern) :=
  if !tableOk image then .error (refusedImage 1)
  else
    let ps := patternsOf image
    match ps.find? fun p => !p.inside with
    | some p => .error (refusedImage 1 p.pos)
    | none =>
      if imageW image ≠ r.w ∨ imageH image ≠ r.h then .error (refusedImage 2)
      else match firstFailure (ps.flatMap (shapeFails r.w r.h shadow)) with
        | some f => .error (refusedImage f.1 f.2)
        | none =>
          let fails := r.places.flatMap fun (x, y) =>
            let l := ps.filter fun p => p.covers x y
            let descs := if shadow then (s.core (r.core x y)).desc else descIn l
            coreFails descs x y r.w r.h [] l
          match firstFailure fails with
          | some f => .error (refusedImage f.1 f.2)
          | none => .ok ps

/-! ## Configuring a core (R230, R231) -/

/-- A window as its descriptor binds it (R123). -/
def boundState (d : Word) : WinState := if wdBound d && wdParam d then { WinState.init with filled := wdPsize d } else WinState.init

/-- Dynamic state of the handlers after configuration: accumulators, branch state and counters cleared, and the order of R134 and the open graph
of R135 reset. -/
def Core.clearDyn (c : Core) : Core :=
  { c with dyn := Vector.replicate 8 SlotDyn.init, lru := [0, 1, 2, 3, 4, 5, 6, 7], openGraph := none }

/-- A core with no configuration: the first lines of R230. -/
def Core.unconfigured (c : Core) : Core :=
  { c.clearDyn with
    wdesc := Vector.replicate 16 0, wstate := Vector.replicate 16 WinState.init, switches := [],
    active := Vector.replicate 8 (Vector.replicate 12 0), shadow := Vector.replicate 8 (Vector.replicate 12 0),
    kActive := Vector.replicate 8 0, kShadow := Vector.replicate 8 0, edge := Vector.replicate 4 EdgeSlot.init,
    guards := Vector.replicate 4 0, staging := [], pipe := [], flipped := false, swapDue := [], swapPorts := Vector.replicate 4 false }

/-- The lane words of a parameter window, element 0 first. -/
def Core.writeParam (c : Core) (w : Win) (words : List Lane) : Core := c.storeWords (wdBase (c.desc w)) words

/-- A core takes one pattern of an image. -/
def Core.takePattern (c : Core) (p : Pattern) : Core :=
  match p.kind with
  | 0 => { c with active := c.active.setIfInBounds p.index p.record }
  | 1 => { c with wdesc := c.wdesc.set p.win p.desc, wstate := c.wstate.set p.win (boundState p.desc) }
  | 2 => { c with switches := c.switches ++ [p.switchWord], rwarn := c.rwarn ||| switchWarn p.switchWord }
  | 3 => { c with kActive := c.kActive.setIfInBounds p.index p.lane }
  | _ => c

/-- The lane words of a parameter window as an image gives them. In a beat-wide window the reserved bits of each control word read as 0 (R27). DESIGN
CHOICE (log 128): a COUNT above 16 there reads as 16, and a SWAP, DRAIN or FAULT has COUNT 0, as R29 and R32 say of a restored grotto, with no
warning. -/
def paramLanes (d : Word) (l : List Lane) : List Lane :=
  if wdBeat d then l.zipIdx.map fun (x, k) => if k % 17 = 16 then (restoredControl x).1 else x else l

/-- A core takes the data of a parameter window, once its windows are bound. -/
def Core.takeParam (c : Core) (p : Pattern) : Core :=
  if p.kind = 4 then c.writeParam p.win (paramLanes (c.desc p.win) (lw36Unpack p.data (paramWords (c.desc p.win)))) else c

/-- A core configured by the patterns that cover it (R230). DESIGN CHOICE (log 140): a parameter window for which the image gives no KIND 4 pattern
holds the words that stand in the store at its place. -/
def Core.configure (c : Core) (l : List Pattern) : Core := l.foldl Core.takeParam (l.foldl Core.takePattern c.unconfigured)

/-- A core with shadow slots and constants from the patterns that cover it; those not written are empty (R231). -/
def Core.configureShadow (c : Core) (l : List Pattern) : Core :=
  l.foldl (fun c p => match p.kind with
    | 0 => { c with shadow := c.shadow.setIfInBounds p.index p.record }
    | 3 => { c with kShadow := c.kShadow.setIfInBounds p.index p.lane }
    | _ => c) { c with shadow := Vector.replicate 8 (Vector.replicate 12 0), kShadow := Vector.replicate 8 0 }

/-- Every core of a region takes an image. -/
def State.spread (s : State) (r : Region) (ps : List Pattern) (f : Core → List Pattern → Core) : State :=
  r.places.foldl (fun s (x, y) =>
    let n := r.core x y
    s.setCore n ((f (s.core n) (ps.filter fun p => p.covers x y)).active_ s.now)) s

/-! ## The signature (R37) -/

/-- Stages that round by the mode of R18, and those that accumulate in a shape of R35 (04 R47, R79). -/
def roundingOp (op : Nat) : Bool := [0x14, 0x15, 0x16, 0x17, 0x18, 0x1F, 0x22, 0x23, 0x24, 0x25, 0x26].contains op

/-- The byte of one stage word. -/
def signatureByte (w : Code) : Byte :=
  let op := opOf w
  let m := bv w 8 3
  let mode := if m < 4 then m else 0
  let shape := bv w 2 2
  if op = 0x27 ∨ op = 0x28 ∨ op = 0x29 then BitVec.ofNat 8 ((if shape = 3 then 0 else shape) * 8 + mode)
  else if op = 0x2A ∨ op = 0x2B ∨ op = 0x2C then BitVec.ofNat 8 ((if shape = 3 then 0 else shape) * 8)
  else if roundingOp op then BitVec.ofNat 8 mode
  else 0

/-- P of R37. DESIGN CHOICE (log 105): a handler pattern whose datum or rectangles lie outside SIZE has no bytes in P. -/
def signatureStages (image : List Byte) : List Byte :=
  (patternsOf image).flatMap fun p => if p.kind = 0 ∧ p.inside then (List.range 6).map fun k => signatureByte (p.record[k + 1]?.getD 0) else []

/-- The sixteen bytes of the signature, for an image and the accepted feature word. -/
def signature (image : List Byte) (feature : BitVec 128) : List Byte :=
  shake256 (image ++ signatureStages image ++ leBytes 16 feature.toNat) 16

end Sys2Proof.Machine
end

