-- ==== Sys2Proof/Machine/Package.lean ====
section
/-! DEFINITION. The package as its units see it: queues and their rings (18 R339, R340), completions and events for the host (R343, R344, R355),
`launch` (09 R248), the registers that the host reads and writes (R335 to R337, R340, R344, R353), and the mailbox response (R337). -/

namespace Sys2Proof.Machine

/-! ## Queues (R339, R340) -/

def State.queue (s : State) (n : Nat) : Queue := sparseGet Queue.init s.pkg.queues n
def State.setQueue (s : State) (n : Nat) (q : Queue) : State := { s with pkg := { s.pkg with queues := sparsePut s.pkg.queues n q } }

/-- Queues that a dispatcher slot holds (R345): with a candidate, or with a packet that is being copied. -/
def Package.slotted (p : Package) (n : Nat) : Bool :=
  (p.slots.any fun c => match c.offer with | .packet q _ _ => q == n | .restore .. => false) || p.copies.any fun c => c.queue == n

/-- A queue that is open, holds a packet and has no slot joins the end of the waiting line (R345). -/
def State.joinLine (s : State) (n : Nat) : State :=
  let q := s.queue n
  if q.state = .open_ ∧ !q.packets.isEmpty ∧ !s.pkg.slotted n ∧ !s.pkg.line.contains (.queue n) then
    { s with pkg := { s.pkg with line := s.pkg.line ++ [.queue n] } }
  else s

/-- A queue that holds nothing stands in the line no more. -/
def State.leaveLine (s : State) (n : Nat) : State :=
  if (s.queue n).packets.isEmpty then { s with pkg := { s.pkg with line := s.pkg.line.filter (· != .queue n) } } else s

/-- The physical address of the ring element that holds the k-th packet of a queue. -/
def Queue.elemAddr (q : Queue) (k : Nat) : Nat := q.ring + 64 * ((q.head + k) % max q.cap 1)

/-- The 64 bytes of eight doublewords. -/
def packetBytes (w : Vector Word 8) : List Byte := w.toList.flatMap fun x => leBytes 8 x.toNat

/-- Write bytes that cover whole doublewords into the floor. -/
def State.putFloor (s : State) (pa : Nat) (l : List Byte) : State := (s.writeBytes pa l).repairFloor pa l.length

/-- Append a packet to a queue that has room (R339). -/
def State.appendPacket (s : State) (n : Nat) (w : Vector Word 8) : State :=
  let q := s.queue n
  ((s.putFloor (q.elemAddr q.packets.length) (packetBytes w)).setQueue n
    { q with packets := q.packets ++ [q.appended], appended := (q.appended + 1) % 2 ^ 64 }).joinLine n

/-- The eight doublewords of a ring element; none on an uncorrectable error. -/
def State.ringPacket (s : State) (pa : Nat) : Option (Vector Word 8) × State :=
  if s.readBad pa 64 then (none, s)
  else (some (Vector.ofFn fun k : Fin 8 => s.readWord (pa + 8 * k)), s.correctFloor pa 64)

/-! ## Completions and host windows (R343, R344) -/

def CompWin.init : CompWin := ⟨[], 0, 0⟩
def State.hostWin (s : State) (c : Nat) : CompWin := sparseGet CompWin.init s.pkg.windows c
def State.setHostWin (s : State) (c : Nat) (w : CompWin) : State := { s with pkg := { s.pkg with windows := sparsePut s.pkg.windows c w } }

/-- A host completion window has room for n entries (R344). -/
def CompWin.room (w : CompWin) (n : Nat) : Bool := decide ((w.tail - w.head).toNat + n ≤ 255)

/-- Write entries; TAIL rises past all of them in one step (R344). -/
def CompWin.write (w : CompWin) (l : List (Word × Word)) : CompWin :=
  { w with entries := (l.zipIdx.foldl (fun m (e, k) => sparsePut m ((w.tail.toNat + k) % 255) e) w.entries),
           tail := w.tail + BitVec.ofNat 64 l.length }

def ckind (w : Vector Word 8) : Nat := bv w[7] 62 2
def csid (w : Vector Word 8) : Nat := bv w[7] 32 12
def cwin (w : Vector Word 8) : Nat := bv w[7] 0 8

/-- The completion settings with which a packet finishes: its own, or those of the queue that a RESTORE has named (R338, log 45). -/
def LivePacket.settled (p : LivePacket) : Vector Word 8 :=
  match p.settings with | some n => p.words.set 7 (Config.queueSettings n) | none => p.words

/-- The completion of a packet (R343): it waits to be filled, unless the packet asks for none (R341). -/
def State.complete (s : State) (w : Vector Word 8) (queue seqno status reason : Nat) : State :=
  if ckind w = 1 ∨ ckind w = 2 then
    let c : Completion := ⟨w, BitVec.ofNat 36 (at_ queue 16 11 + at_ reason 8 8 + at_ status 0 8), BitVec.ofNat 36 (seqno % 2 ^ 36)⟩
    { s with pkg := { s.pkg with completions := s.pkg.completions ++ [c] } }
  else s

/-- STATE of a closing queue reads closed when the last of its packets has ended (R349). -/
def State.closeIfDone (s : State) (n : Nat) : State :=
  let q := s.queue n
  if q.state = .closing ∧ !s.pkg.live.any (fun p => p.queue == n) then s.setQueue n { q with state := .closed } else s

/-- A dispatched packet is finished when none of its instances is to be admitted or runs (R343). -/
def State.finishPacket (s : State) (queue seqno : Nat) : State :=
  match s.pkg.live.find? fun p => p.queue == queue && p.seqno == seqno with
  | none => s
  | some p =>
    if p.toAdmit = 0 ∧ p.running = 0 then
      (({ s with pkg := { s.pkg with live := s.pkg.live.filter fun x => !(x.queue == queue && x.seqno == seqno) } }).complete p.settled
        (p.settings.getD queue) seqno p.status p.reason).closeIfDone queue
    else s

/-- Change a dispatched packet. -/
def State.onPacket (s : State) (queue seqno : Nat) (f : LivePacket → LivePacket) : State :=
  { s with pkg := { s.pkg with live := s.pkg.live.map fun p => if p.queue = queue ∧ p.seqno = seqno then f p else p } }

/-- A packet that has not been dispatched finishes: its completion settings stand in its ring element. -/
def State.finishQueued (s : State) (n k seqno status : Nat) : State :=
  match s.ringPacket ((s.queue n).elemAddr k) with
  | (some w, s) => s.complete w n seqno status 0
  | (none, s) => s

/-- A packet that is being copied out of a queue is discarded, and finishes with a status (R343, R349). -/
def State.dropCopies (s : State) (n status : Nat) : State :=
  (s.pkg.copies.filter fun c => c.queue == n).foldl (fun s c => s.complete c.words n c.seqno status 0)
    { s with pkg := { s.pkg with copies := s.pkg.copies.filter fun c => c.queue != n } }

/-- Every packet of a queue that has not been validated finishes with a status, oldest first, and the queue is empty (R349). -/
def State.flushQueue (s : State) (n status : Nat) : State :=
  let q := s.queue n
  let s := q.packets.zipIdx.foldl (fun s (seqno, k) => s.finishQueued n k seqno status) (s.dropCopies n status)
  (s.setQueue n { s.queue n with packets := [] }).leaveLine n

/-! ## `launch` (R248) -/

/-- Issue of `launch`: MBZ where bits 5:0 of the packet address are not 0. -/
def launchIssue (i : Instr) (d a b : Reg) (mbz : Bool) (s : State) (x : WordCtx) : WordRes × State :=
  if x.awaits [a, b] then (.wait, s)
  else sendCmd s x .package i (x.reg a) (x.reg b) 0 [d] (x.crd [a, b] ||| warnIf (mbz || bv (x.reg a) 0 6 != 0) swMBZ)

/-- The dispatcher answers a `launch` of a context, with a status. -/
def State.answerLaunch (s : State) (ctx k : Nat) (status : Word) : State :=
  { s with pkg := { s.pkg with ctxs := s.pkg.ctxs.map fun (x : Ctx) => if x.id = ctx then { x with launched := some s.now } else x } }.finishCmd k [status]

/-- `launch` at the dispatcher: the packet is read, and copied into the queue. -/
def State.applyLaunch (s : State) (k : Nat) (c : Cmd) : State :=
  match s.regionOfSeq c.seq with
  | none => s.finishCmd k [statusWord stCTXGONE]
  | some r =>
    if (s.ctx? r.ctx).isNone then s.finishCmd k [statusWord stCTXGONE]
    else match s.readForCmd c.seq r.ctx c (bv c.a 6 50 * 64) 64 with
      | (.waits, s) => s
      | (.noXlat, s) => s.answerLaunch r.ctx k (statusWord stREFUSED 1)
      | (.bad, s) => s.answerLaunch r.ctx k (statusWord stREFUSED 0xFF)
      | (.bytes l, s) =>
        let q := s.queue c.b.toNat
        if 2048 ≤ c.b.toNat ∨ q.state ≠ .open_ ∨ q.ctx ≠ r.ctx then s.answerLaunch r.ctx k (statusWord stNOQUEUE)
        else if q.cap ≤ q.packets.length then s.answerLaunch r.ctx k (statusWord stFULL)
        else (s.appendPacket c.b.toNat (Vector.ofFn fun j : Fin 8 => wordAt l j)).answerLaunch r.ctx k (statusWord stDONE)

/-- `launch sd, sa, sb` (R248). -/
def execLaunch (d a b : Reg) (m : BitVec 3) (x : Bool) (g : Pred) (s : State) : Host.Outcome State Fault Refusal :=
  s.commandWord (launchIssue (.launch d a b m x g) d a b x) State.applyLaunch

/-! ## What the host writes (R335 to R344, R353) -/

/-- The host reaches the module: UCIe is trained (R334, R358). -/
def State.hostReaches (s : State) : Bool := s.pkg.ucieTrained

/-- QUEUE_APPEND (R340): `whole` says that the write has 64 bytes. -/
def execQueueAppend (queue : Nat) (packet : Vector Word 8) (whole : Bool) (s : State) : Host.Outcome State Fault Refusal :=
  let q := s.queue queue
  if !s.hostReaches || decide (2048 ≤ queue) then .next s
  else if !whole || q.state != .open_ then .next (s.setQueue queue { q with qerr := true })
  else if q.cap ≤ q.packets.length then .next (s.setQueue queue { q with ovfl := true })
  else .next (s.appendPacket queue packet)

/-- COMPLETION_HEAD_WRITE (R344): a value from HEAD to TAIL takes effect. -/
def execCompletionHeadWrite (window : Nat) (value : Word) (s : State) : Host.Outcome State Fault Refusal :=
  let w := s.hostWin window
  if s.hostReaches && decide (window < 256) && decide ((value - w.head).toNat ≤ (w.tail - w.head).toNat) then
    .next (s.setHostWin window { w with head := value })
  else .next s

/-- FEATA_WRITE (R353): half of FEATA, while no context exists. -/
def execFeataWrite (high : Bool) (value : Word) (s : State) : Host.Outcome State Fault Refusal :=
  if s.hostReaches && s.pkg.ctxs.isEmpty then
    let old := s.pkg.feata
    let v : BitVec 128 := if high then value.setWidth 128 <<< 64 ||| (old &&& 0xFFFFFFFFFFFFFFFF)
      else value.setWidth 128 ||| (old &&& (0xFFFFFFFFFFFFFFFF <<< 64))
    .next { s with pkg := { s.pkg with feata := v &&& Config.offeredFeatures } }
  else .next s

/-- The floor aperture of the host window (R335). -/
def apertureBase : Nat := 0x100000000000

/-- What a host write to a register without a row of its own does (R335, R337, R340). -/
def State.hostWrite (s : State) (offset : Nat) (value : Word) : State :=
  if 0x1000 ≤ offset ∧ offset < 0x1040 then
    { s with pkg := { s.pkg with mailbox := { s.pkg.mailbox with m := s.pkg.mailbox.m.setIfInBounds ((offset - 0x1000) / 8) value } } }
  else if 0x100000 ≤ offset ∧ offset < 0x900000 then
    let n := (offset - 0x100000) / 4096
    let q := s.queue n
    if offset % 4096 < 0x40 then s.setQueue n { q with qerr := true }
    else if offset % 4096 = 0x40 then
      s.setQueue n { q with qerr := q.qerr && !bitAt value 19, ovfl := q.ovfl && !bitAt value 18 }
    else s
  else if apertureBase ≤ offset then
    let pa := offset - apertureBase
    if s.feature featHostMem && !paReserved pa && !paReserved (pa + 7) then (s.putFloor pa (leBytes 8 value.toNat)).tailStored pa 8 else s
  else s

/-- HOST_REGISTER_WRITE (R335): an aligned write of a doubleword. -/
def execHostRegisterWrite (offset : Nat) (value : Word) (s : State) : Host.Outcome State Fault Refusal :=
  if s.hostReaches && decide (offset % 8 = 0) then .next (s.hostWrite offset value) else .next s

/-! ## What the host reads (R335, R336, R337, R340, R344) -/

/-- BRSTAT (R336). -/
def State.brstat (s : State) : Word := BitVec.ofNat 64 (at_ s.pkg.fail.toNat 4 4 + at_ s.pkg.step.toNat 0 4)

/-- MID (R336). -/
def midWord : Word := Config.part ++ Config.serial

/-- STATE of QSTAT (R340). -/
def QueueState.code : QueueState → Nat
  | .closed => 0
  | .open_ => 1
  | .closing => 2

/-- QSTAT of a queue (R340). -/
def Queue.qstat (q : Queue) : Word :=
  BitVec.ofNat 64 (at_ q.appended 32 32 + at_ (b2n q.qerr) 19 1 + at_ (b2n q.ovfl) 18 1 + at_ q.state.code 16 2 + at_ (q.cap - q.packets.length) 0 13)

/-- Half k of a feature word. -/
def featureHalf (f : BitVec 128) (k : Nat) : Word := BitVec.ofNat 64 (bv f (64 * k) 64)

/-- A doubleword that the host reads at an aligned offset of its window. -/
def State.hostRead (s : State) (offset : Nat) : Word :=
  if offset = 0x000 then midWord
  else if offset = 0x008 then s.brstat
  else if offset = 0x010 ∨ offset = 0x018 then
    if 6 ≤ s.pkg.step.toNat then featureHalf Config.offeredFeatures ((offset - 0x010) / 8) else 0
  else if offset = 0x020 ∨ offset = 0x028 then featureHalf s.pkg.feata ((offset - 0x020) / 8)
  else if offset = 0x030 then BitVec.ofNat 64 (s.pkg.level % 32)
  else if offset = 0x038 then s.time
  else if offset = 0x040 then BitVec.ofNat 64 (at_ (b2n s.pkg.degbw) 16 1 + s.pkg.tmax.toNat)
  else if 0x1000 ≤ offset ∧ offset < 0x1040 then s.pkg.mailbox.m[(offset - 0x1000) / 8]?.getD 0
  else if 0x1080 ≤ offset ∧ offset < 0x10C0 then s.pkg.mailbox.response[(offset - 0x1080) / 8]?.getD 0
  else if offset = 0x10C0 then BitVec.ofNat 64 (b2n s.pkg.mailbox.running.isSome)
  else if 0x100000 ≤ offset ∧ offset < 0x900000 then
    if offset % 4096 = 0x40 then (s.queue ((offset - 0x100000) / 4096)).qstat else 0
  else if 0x900000 ≤ offset ∧ offset < 0xA00000 then
    let w := s.hostWin ((offset - 0x900000) / 4096)
    let o := offset % 4096
    if o = 0 then w.tail else if o = 8 then w.head
    else
      let e := sparseGet (0, 0) w.entries ((o - 16) / 16)
      if o % 16 = 0 then e.1 else e.2
  else if apertureBase ≤ offset then
    let pa := offset - apertureBase
    if s.feature featHostMem && !s.readBad pa 8 then s.readWord pa else 0
  else 0

/-! ## The mailbox response (R337) -/

def mbDONE : Nat := 0
def mbREFUSED : Nat := 1
def mbBUSY : Nat := 2
def mbTOOLATE : Nat := 3
def mbNOTFOUND : Nat := 4

/-- The response to a command: its status in bits 7:0 of doubleword 0; the manual gives the rest no value. -/
def State.respond (s : State) (status : Nat) : State :=
  let r : Vector Word 8 := Vector.ofFn fun k : Fin 8 =>
    let w := Config.freeWord (s.frees + k)
    if k.val = 0 then (w &&& ~~~(0xFF : Word)) ||| BitVec.ofNat 64 (at_ status 0 8) else w
  { s with frees := s.frees + 8, pkg := { s.pkg with mailbox := { s.pkg.mailbox with response := r, running := none } } }

/-- A mailbox command: it starts where no command runs and M0 names it (R337, R338). -/
def State.mailboxCommand (s : State) (names : Nat → Bool) (body : State → State) : Host.Outcome State Fault Refusal :=
  if s.hostReaches && s.pkg.mailbox.running.isNone && names (bv s.pkg.mailbox.m[0] 0 8) then .next (body s) else .next s

/-- An argument of the mailbox command. -/
def State.marg (s : State) (k : Fin 8) : Nat := s.pkg.mailbox.m[k].toNat

end Sys2Proof.Machine
end

