-- ==== Sys2Proof/Machine/TransWords.lean ====
section
/-! DEFINITION. Translation words (09 R249, R250, R251) with the relatch token at an edge unit, and lantern words (09 R252; 18 R351). -/

namespace Sys2Proof.Machine

/-! ## `xlat` (R249) -/

/-- The word that a valid translation gives. -/
def xlatWord (f : Found) : Word :=
  BitVec.ofNat 64 (at_ 1 63 1 + at_ (b2n f.tr.writable) 62 1 + at_ (b2n f.tr.vug) 61 1 + at_ (b2n f.tr.big) 60 1
    + (if f.tr.vug then 0 else at_ (f.tr.phys f.va) 0 44))

/-- Translate a register value for `xlat`; none while the walk waits (R298, R300). -/
def State.xlat (s : State) (cluster ctx : Nat) (u : Word) (who : Option Reader) : Option Word × State :=
  if 2 ^ 56 ≤ u.toNat then (some (BitVec.ofNat 64 codeHighBits), s)
  else match s.translate cluster ctx u.toNat true who with
    | (.ok f, s) => (some (xlatWord f), s)
    | (.error e, s) => (if e = codeStopped then none else some (BitVec.ofNat 64 e), s)

/-- `xlat sd, sa` (R249): an issue effect, which never traps. -/
def execXlat (d a : Reg) (_ : BitVec 4) (_ : BitVec 1) (x : Bool) (_ : Pred) (s : State) : Host.Outcome State Fault Refusal :=
  s.runWord fun s c =>
    if c.awaits [a] then (.wait, s)
    else match s.regionOf c with
      | none => (.issue (c.b.write d (BitVec.ofNat 64 codeUnmapped)), s)
      | some r =>
        match s.xlat c.q r.ctx (c.reg a) c.reader with
        | (some v, s) => (.issue ((c.b.write d v).warn (c.crd [a] ||| warnIf x swMBZ)), s)
        | (none, s) => (.wait, s)

/-! ## Scopes of the translation group (R250) -/

/-- CLUSTER, DIE or PACKAGE of a scope code. -/
inductive TransScope where
  | cluster | die | package
  deriving DecidableEq, Repr

def transScope (code : BitVec 4) : TransScope := if code.toNat ≤ 4 then .cluster else if code.toNat = 5 then .die else .package
def transScopeWarn (code : BitVec 4) : Word := warnIf (code != 4 && code != 5 && code != 6) swSCOPEX

/-- A cluster lies within a scope of the sequencer that issues. -/
def TransScope.has (t : TransScope) (q cluster : Nat) : Bool :=
  match t with
  | .cluster => cluster == q
  | .die => seqDie cluster == seqDie q
  | .package => true

/-- Issue of `tlbinv` and `relatch`: a command to the die. -/
def transIssue (i : Instr) (d a : Reg) (scope : BitVec 4) (x : Bool) (s : State) (c : WordCtx) : WordRes × State :=
  if c.awaits [a] then (.wait, s)
  else sendCmd s c (.die (seqDie c.q)) i (c.reg a) 0 0 [d] (c.crd [a] ||| warnIf x swMBZ ||| transScopeWarn scope)

/-! ## `tlbinv` (R250) -/

/-- An entry that a `tlbinv` removes: of the context, and of the page that contains the address, or of any page. -/
def TlbEntry.hit (e : TlbEntry) (ctx : Nat) (va : Option Nat) : Bool :=
  e.ctx == ctx && match va with | some a => e.tr.covers a | none => true

/-- The cluster in which a reader translates. -/
def State.readerCluster (s : State) : Reader → Option Nat
  | .block q _ => some q
  | .run n _ => some (clusterOf n)
  | .cmd id => (s.cmdById id).map fun (_, c) => c.seq

/-- What the units within a scope have read of walks for the pages named: a walk after `tlbinv` begins anew (R250). -/
def State.dropWalks (s : State) (q ctx : Nat) (scope : TransScope) (va : Option Nat) : List PartRead :=
  s.parts.filter fun p => match p.part, s.readerCluster p.reader with
    | .entries _, some k => !(scope.has q k && p.ctx == ctx && va.all fun a => a / 2 ^ 21 == p.va)
    | _, _ => true

/-- Remove the translations of a page, or of every page, from the TLBs of a scope. -/
def State.invalidate (s : State) (q ctx : Nat) (scope : TransScope) (va : Option Nat) : State :=
  let drop (l : List TlbEntry) : List TlbEntry := l.filter fun e => !e.hit ctx va
  { s with
    tlbs := s.tlbs.map fun (k, l) => if scope.has q k then (k, drop l) else (k, l)
    dieTlbs := s.dieTlbs.map fun (d, l) =>
      if (match scope with | .cluster => false | .die => d == seqDie q | .package => true) then (d, drop l) else (d, l)
    parts := s.dropWalks q ctx scope va }

/-- Every withholding stream of the dies within a scope is due for a retry: a translation change (R309). -/
def State.translationChange (s : State) (q : Nat) : TransScope → State
  | .cluster => s
  | .die => s.retryStreams (seqDie q)
  | .package => (List.range 16).foldl (fun s d => s.retryStreams d) s

/-- The address that a translation command names, as the page tables see it; none for every page. -/
def State.namedPage (s : State) (ctx : Nat) (all : BitVec 1) (c : Cmd) : Option Nat :=
  if all = 1 then none else some (s.mappedVa ctx (bv c.a 0 56))

/-- `tlbinv` at its die. -/
def State.applyTlbinv (s : State) (scope : BitVec 4) (all : BitVec 1) (k : Nat) (c : Cmd) : State :=
  match s.regionOfSeq c.seq with
  | none => s.finishCmd k [statusWord stDONE]
  | some r =>
    ((s.invalidate c.seq r.ctx (transScope scope) (s.namedPage r.ctx all c)).translationChange c.seq (transScope scope)).finishCmd k
      [statusWord stDONE]

/-- `tlbinv.scope sd, sa` (R250). -/
def execTlbinv (d a : Reg) (scope : BitVec 4) (all : BitVec 1) (x : Bool) (g : Pred) (s : State) : Host.Outcome State Fault Refusal :=
  s.commandWord (transIssue (.tlbinv d a scope all x g) d a scope x) fun s k c => s.applyTlbinv scope all k c

/-! ## `relatch` (R251) -/

/-- A latched translation that a relatch token removes. -/
def Trans.relatched (t : Trans) (page : Option Nat) : Bool := match page with | some a => t.covers a | none => true

/-- Some slot of a core holds a latched translation that the token removes. -/
def Core.latched (c : Core) (page : Option Nat) : Bool := c.edge.toList.any fun sl => sl.latches.any fun t => t.relatched page

/-- The cores of a context whose edge units are within a scope and hold such a translation. -/
def State.relatchCores (s : State) (q ctx : Nat) (scope : TransScope) (page : Option Nat) : List Nat :=
  (s.cores.filter fun (n, c) =>
    scope.has q (clusterOf n) && c.latched page && (match s.regionOfCore n with | some r => r.ctx == ctx | none => false)).map (·.1)

/-- `relatch` at its die: a token goes to every such edge unit, as a packet (R298); with none, it is done. -/
def State.applyRelatch (s : State) (scope : BitVec 4) (all : BitVec 1) (k : Nat) (c : Cmd) : State :=
  match s.regionOfSeq c.seq with
  | none => s.finishCmd k [statusWord stDONE]
  | some r =>
    if c.begun then s
    else
      let page := s.namedPage r.ctx all c
      let l := s.relatchCores c.seq r.ctx (transScope scope) page
      if l.isEmpty then s.finishCmd k [statusWord stDONE]
      else l.foldl (fun s n => s.send .ctl (.die (seqDie c.seq)) (.core n) (.relatch ⟨c.id, page⟩)) (s.beginCmd k c)

/-- `relatch.scope sd, sa` (R251). -/
def execRelatch (d a : Reg) (scope : BitVec 4) (all : BitVec 1) (x : Bool) (g : Pred) (s : State) : Host.Outcome State Fault Refusal :=
  s.commandWord (transIssue (.relatch d a scope all x g) d a scope x) fun s k c => s.applyRelatch scope all k c

/-- Accesses that have been sent and have not performed. -/
def State.flying (s : State) : List Access :=
  (s.net.filterMap fun p => match p.payload with | .access a => some a | _ => none) ++ s.atSlice ++ s.withheld

/-- An access of a core's edge unit that was made with a translation that the token removes. -/
def State.madeWith (s : State) (n ctx : Nat) (page : Option Nat) (a : Access) : Bool :=
  match a.source with
  | .edge m e =>
    m == n && (s.edgeSlot n (Fin.ofNat 4 e)).latches.any fun t => t.relatched page && t.covers (s.mappedVa ctx a.va)
  | _ => false

/-- A token of a relatch command is on its way to an edge unit, or stands in one. -/
def State.tokenOut (s : State) (id : Nat) : Bool :=
  (s.cores.any fun (_, c) => c.relatches.any fun x => x.cmdId == id)
    || s.net.any fun p => match p.payload with | .relatch x => x.cmdId == id | _ => false

/-- RELATCH_TOKEN (R251): a token emerges from an edge unit when every access made with a latched translation that it removes has performed; the
last one ends its command. -/
def execRelatchToken (core index : Nat) (s : State) : Host.Outcome State Fault Refusal :=
  let u := s.core core
  match u.relatches[index]? with
  | none => .next s
  | some t =>
    let ctx := match s.regionOfCore core with | some r => r.ctx | none => 0
    if s.flying.any (s.madeWith core ctx t.page) then .next s
    else
      let s := s.setCore core { u with
        relatches := dropNth u.relatches index
        edge := u.edge.map fun sl => { sl with latches := sl.latches.filter fun x => !x.relatched t.page } }
      if s.tokenOut t.cmdId then .next s
      else .next (s.finishId t.cmdId [statusWord stDONE])

/-! ## Lanterns (R252, R351) -/

/-- A die's budget (R351, R356). -/
def State.lanternBudget (s : State) : Nat := if s.pkg.reduced then Config.reducedLanternBudget else Config.lanternBudget

/-- Lanterns that a region's pool has from its die's budget: one that a lit pipeline holds leaves the pool only when its firings complete
(R252). -/
def State.poolHeld (s : State) (r : Region) : Nat := max r.pool (s.litCount r)

/-- The unassigned lanterns of a die. -/
def State.unassigned (s : State) (die : Nat) : Nat :=
  s.lanternBudget - ((s.regions.filter fun r => r.live && r.die == die).map s.poolHeld).sum

/-- Issue of a lantern word: only the owning sequencer may (R221). -/
def lanternIssue (i : Instr) (d a : Reg) (x : Bool) (s : State) (c : WordCtx) : WordRes × State :=
  if c.awaits [a] then (.wait, s)
  else if !(match s.regionOf c with | some r => r.owner == c.q | none => false) then (.trap causeOWNER 0, s)
  else sendCmd s c (.die (seqDie c.q)) i (c.reg a) 0 0 [d] (c.crd [a] ||| warnIf x swMBZ)

/-- `lant.req` at its die: what is granted goes into the pool. -/
def State.applyLantReq (s : State) (k : Nat) (c : Cmd) : State :=
  match s.regionOfSeq c.seq with
  | none => s.finishCmd k [0]
  | some r =>
    let n := min c.a.toNat (s.unassigned r.die)
    (s.setRegion { r with pool := r.pool + n }).finishCmd k [BitVec.ofNat 64 n]

/-- `lant.rel` at its die: what is given back leaves the pool. -/
def State.applyLantRel (s : State) (k : Nat) (c : Cmd) : State :=
  match s.regionOfSeq c.seq with
  | none => s.finishCmd k [0]
  | some r =>
    let n := min c.a.toNat r.pool
    (s.setRegion { r with pool := r.pool - n }).finishCmd k [BitVec.ofNat 64 n]

/-- `lant.req sd, sa` (R252). -/
def execLantReq (d a : Reg) (x : Bool) (g : Pred) (s : State) : Host.Outcome State Fault Refusal :=
  s.commandWord (lanternIssue (.lantReq d a x g) d a x) State.applyLantReq

/-- `lant.rel sd, sa` (R252). -/
def execLantRel (d a : Reg) (x : Bool) (g : Pred) (s : State) : Host.Outcome State Fault Refusal :=
  s.commandWord (lanternIssue (.lantRel d a x g) d a x) State.applyLantRel

end Sys2Proof.Machine
end

