-- ==== Sys2Proof/Machine/Arbiter.lean ====
section
/-! DEFINITION. The dispatcher and the region arbiters (18 R341, R342, R345 to R347, R350), how a region comes to be (10 R256, R257, R396), and the
filling of completions and package events (R343, R344, R355). -/

namespace Sys2Proof.Machine

/-! ## Reading for the dispatcher (R342) -/

/-- Translate an address of a context through the page table itself. -/
def State.translateDirect (s : State) (ctx va : Nat) : Except Nat Found × State :=
  if s.shadowed ctx va then (.error codeNotGranted, s)
  else match s.ctx? ctx with
    | none => (.error codeUnmapped, s)
    | some c =>
      match s.walk c.root c.domains (s.mappedVa ctx va) with
      | (.ok t, s) => (.ok ⟨t, s.mappedVa ctx va⟩, s)
      | (.error e, s) => (.error e, s)

/-- Read n aligned doublewords of a context. -/
def State.readDirect (s : State) (ctx va : Nat) : Nat → Got × State
  | 0 => (.bytes [], s)
  | n + 1 =>
    match s.translateDirect ctx va with
    | (.error _, s) => (.noXlat, s)
    | (.ok f, s) =>
      match s.loadAt f.place va 8 with
      | (.bad, s) => (.bad, s)
      | (.waits, s) => (.waits, s)
      | (.value v _, s) =>
        match s.readDirect ctx (va + 8) n with
        | (.bytes l, s) => (.bytes (leBytes 8 v ++ l), s)
        | (g, s) => (g, s)

/-! ## The launch packet (R341) -/

def lpImage (w : Vector Word 8) : Nat := bv w[0] 6 50 * 64
def lpEntry (w : Vector Word 8) : BitVec 56 := BitVec.ofNat 56 (bv w[1] 2 54 * 4)
def lpArgs (w : Vector Word 8) : Word := w[2]
def lpPrio (w : Vector Word 8) : Nat := bv w[3] 48 3
def lpWidf (w : Vector Word 8) : Nat := bv w[3] 0 42
def lpFirst (w : Vector Word 8) : Nat := w[4].toNat
def lpCount (w : Vector Word 8) : Nat := if w[5] = 0 then 1 else w[5].toNat
def lpLant (w : Vector Word 8) : Nat := bv w[6] 48 16
def lpH (w : Vector Word 8) : Nat := bv w[6] 20 20
def lpW (w : Vector Word 8) : Nat := bv w[6] 0 20

/-! ## Rectangles (R256, R346) -/

/-- A rectangle of cores of a die holds a dark core. -/
def State.rectDark (s : State) (die x y w h : Nat) : Bool :=
  s.pkg.modrec.dark.any fun n =>
    coreDie n == die && decide (x ≤ coreX n) && decide (coreX n < x + w) && decide (y ≤ coreY n) && decide (coreY n < y + h)

/-- A rectangle lies on the die and holds no dark core. -/
def State.rectUsable (s : State) (die w h x y : Nat) : Bool := decide (x + w ≤ 256) && decide (y + h ≤ 256) && !s.rectDark die x y w h

/-- Two rectangles share a core. -/
def rectsMeet (x y w h x' y' w' h' : Nat) : Bool :=
  decide (x < x' + w') && decide (x' < x + w) && decide (y < y' + h') && decide (y' < y + h)

/-- The anchor sequencers of a rectangle belong to no region (R256, R346). -/
def State.anchorsFree (s : State) (die w h x y : Nat) : Bool :=
  (List.range ((h + 15) / 16)).all fun b => (List.range ((w + 15) / 16)).all fun a =>
    (s.seq (die * 256 + (y / 16 + b) * 16 + (x / 16 + a))).region.isNone

/-- A rectangle is free: usable, with no core in a region and its anchors free (R346). -/
def State.rectFree (s : State) (die w h x y : Nat) : Bool :=
  s.rectUsable die w h x y && s.anchorsFree die w h x y
    && !s.regions.any fun r => r.live && r.die == die && rectsMeet x y w h r.x r.y r.w r.h

/-- The origin of lowest y, then lowest x, that passes a test. -/
def firstOrigin (p : Nat → Nat → Bool) : Option (Nat × Nat) :=
  (List.range 256).findSome? fun y => ((List.range 256).find? fun x => p x y).map fun x => (x, y)

/-- A die has a rectangle without dark cores (R342, R347). -/
def State.dieFits (s : State) (die w h : Nat) : Bool := (firstOrigin fun x y => s.rectUsable die w h x y).isSome

/-! ## Validation (R342) -/

def packetFieldsBad (w : Vector Word 8) : Bool :=
  bv w[0] 56 8 != 0 || bv w[0] 0 6 != 0 || bv w[1] 56 8 != 0 || bv w[1] 0 2 != 0 || bv w[3] 51 13 != 0 || bv w[3] 42 6 != 0
    || bv w[6] 40 8 != 0 || bv w[7] 44 18 != 0 || bv w[7] 8 24 != 0 || lpW w == 0 || decide (256 < lpW w) || lpH w == 0
    || decide (256 < lpH w) || ckind w == 3

/-- What reading an image header comes to: the reason 6, or none. -/
def headerReason (w : Vector Word 8) : Got → Nat
  | .bytes h => if headerOk h && imageW h == lpW w && imageH h == lpH w then 0 else 6
  | _ => 6

/-- The reason for which a packet is rejected, the lowest that applies; 0 for none; none while the header cannot be read yet. Every cluster
and every host completion window that a packet can name exists, so reason 5 never arises. -/
def State.rejection (s : State) (ctx : Nat) (w : Vector Word 8) : Option Nat × State :=
  if packetFieldsBad w then (some 1, s)
  else if 64 < widfTotal (lpWidf w) then (some 2, s)
  else if !(List.range 16).any fun d => s.dieFits d (lpW w) (lpH w) then (some 3, s)
  else if 16384 < lpLant w then (some 4, s)
  else match s.readDirect ctx (lpImage w) 8 with
    | (.waits, s) => (none, s)
    | (g, s) => (some (headerReason w g), s)

/-! ## The dispatcher (R342, R345) -/

/-- Put a candidate into a slot. -/
def State.offer (s : State) (o : Offer) : State := { s with pkg := { s.pkg with slots := s.pkg.slots ++ [⟨o, 0, 0, none, none⟩] } }

/-- The copy of a queue's oldest packet begins: it is dispatched, and leaves its queue (R342, R349). -/
def State.copyPacket (s : State) (n : Nat) : State :=
  let q := s.queue n
  match q.packets with
  | [] => s
  | seqno :: rest =>
    let shrunk (s : State) : State := s.setQueue n { s.queue n with packets := rest, head := ((s.queue n).head + 1) % max q.cap 1 }
    match s.ringPacket (q.elemAddr 0) with
    | (none, s) => (shrunk s).joinLine n
    | (some w, s) =>
      let s := shrunk s
      { s with pkg := { s.pkg with copies := s.pkg.copies ++ [(⟨n, seqno, w, q.ctx, s.now⟩ : Copying)] } }

/-- The dispatcher validates a copied packet in a cycle after that of its copy (R342, R349): its slot presents it as a candidate, or it is
rejected. Nothing changes while its image header cannot be read yet. -/
def State.validateCopy (s : State) (c : Copying) : State :=
  if s.now ≤ c.began then s
  else match s.rejection c.ctx c.words with
    | (none, s) => s
    | (some reason, s) =>
      let s := { s with pkg := { s.pkg with copies := s.pkg.copies.filter (· != c) } }
      if reason = 0 then
        { s with pkg := { s.pkg with live := s.pkg.live ++ [(⟨c.queue, c.seqno, c.words, c.ctx, lpCount c.words, 0, 0, 0, none⟩ : LivePacket)] } }.offer
          (.packet c.queue c.seqno c.words)
      else (s.complete c.words c.queue c.seqno 1 reason).joinLine c.queue

/-- A free slot takes the head of the waiting line (R345). -/
def State.takeLine (s : State) : State :=
  if 512 ≤ s.pkg.slots.length + s.pkg.copies.length then s
  else match s.pkg.line with
    | [] => s
    | .queue n :: rest => { s with pkg := { s.pkg with line := rest } }.copyPacket n
    | .restore g q k :: rest => { s with pkg := { s.pkg with line := rest } }.offer (.restore g q k)

/-- DISPATCH_COPY (R342, R345): what was copied in an earlier cycle is validated, and a free slot takes the head of the waiting line. -/
def execDispatchCopy (s : State) : Host.Outcome State Fault Refusal := .next (s.pkg.copies.foldl State.validateCopy s).takeLine

/-! ## Candidates (R345 to R347) -/

/-- The live packet that a saved region belongs to, by the address of its grotto. -/
def State.savedRegion (s : State) (grotto : Nat) : Option Region := s.regions.find? fun r => r.ended == some 9 && r.grotto == some grotto

/-- W, H, LANT, PRIO and queue of a candidate: of its packet, or of its grotto (R274, R345). -/
def State.wants (s : State) : Offer → Nat × Nat × Nat × Nat × Nat
  | .packet q _ w => (lpW w, lpH w, lpLant w, lpPrio w, q)
  | .restore g q _ =>
    let g1 := s.readLE (g + 8) 8
    let prio := match s.savedRegion g with
      | some r => match s.pkg.live.find? fun p => p.queue == r.queue && p.seqno == r.seqno with | some p => lpPrio p.words | none => 0
      | none => 0
    (bitsOf g1 48 16, bitsOf g1 32 16, bitsOf (s.readLE (g + 16) 8) 32 32, prio, q)

/-- The first of two candidates in rank order (R346). -/
def State.ranksBefore (s : State) (a b : Candidate) : Bool :=
  let (_, _, _, pa, qa) := s.wants a.offer
  let (_, _, _, pb, qb) := s.wants b.offer
  decide (pb < pa) || (pa == pb && (decide (b.bypass < a.bypass) || (a.bypass == b.bypass && decide (qa < qb))))

/-- Put a candidate into a list in rank order. -/
def State.insertRank (s : State) (c : Candidate) : List Candidate → List Candidate
  | [] => [c]
  | d :: rest => if s.ranksBefore c d then c :: d :: rest else d :: s.insertRank c rest

def State.rankOrder (s : State) (l : List Candidate) : List Candidate := l.foldr s.insertRank []

/-- A die may take a candidate: the die is not reserved for another (R347), and the candidate has not been admitted on an earlier die in this
cycle (R346). -/
def State.considers (s : State) (die : Nat) (c : Candidate) : Bool :=
  (match s.pkg.reserved.find? fun r => r.1 == die with | some r => r.2 == c.offer | none => true)
    && (match c.lastAdmit with | some (t, d) => !(t == s.now && decide (d < die)) | none => true)

/-! ## Admission (R256, R257, R396) -/

/-- A core as an admission leaves it; tokens for its edge unit stay (R396). -/
def Core.freshFor (c : Core) (now : Nat) : Core := { Core.init with relatches := c.relatches, lastActive := now }

/-- A sequencer of a region whose program starts (R257, R247). -/
def startSeq (r : Region) (rank : Nat) (entry : BitVec 56) (args wid widf : Word) (now : Nat) : Seq :=
  { Seq.init with
    pc := entry, wid := wid, widf := widf, startCycle := BitVec.ofNat 64 now, region := some r.id, rank := rank
    regs := ((((Seq.init.regs.set 1 args).set 2 (BitVec.ofNat 64 rank)).set 3 (BitVec.ofNat 64 r.nseq)).set 4
      (BitVec.ofNat 64 r.owner)).set 5 (BitVec.ofNat 64 r.tilesX) }

/-- Start the sequencers of a region. -/
def State.startSeqs (s : State) (r : Region) (entry : BitVec 56) (args wid widf : Word) : State :=
  (List.range r.nseq).foldl (fun s k => s.setSeq (r.seqOfRank k) (startSeq r k entry args wid widf s.now)) s

/-- Every core of a region takes the values of R396. -/
def State.admitCores (s : State) (r : Region) : State := s.onCores (fun c => c.freshFor s.now) r.cores

/-- Admit one instance of a packet at an origin. -/
def State.admitPacket (s : State) (die x y queue seqno : Nat) (w : Vector Word 8) (instance_ : Nat) : State :=
  let ctx := match s.pkg.live.find? fun p => p.queue == queue && p.seqno == seqno with | some p => p.ctx | none => 0
  let r := newRegion s.nextRegion die x y (lpW w) (lpH w) ctx queue seqno (max (lpLant w) 1)
  let s := { s with regions := s.regions ++ [r], nextRegion := s.nextRegion + 1 }
  let s := (s.admitCores r).startSeqs r (lpEntry w) (lpArgs w) (BitVec.ofNat 64 (lpFirst w + instance_)) (BitVec.ofNat 64 (lpWidf w))
  s.onPacket queue seqno fun p => { p with toAdmit := p.toAdmit - 1, running := p.running + 1 }

/-- The packet that a restored region belongs to finishes with the completion settings of the queue that the RESTORE names (R338, log 45). A
region of another module belongs to a packet of that queue. -/
def State.settleRestored (s : State) (r : Region) (known : Bool) (queue ctx : Nat) : State :=
  if known then s.onPacket r.queue r.seqno fun p => { p with settings := if queue = r.queue then none else some queue }
  else { s with pkg := { s.pkg with live := s.pkg.live ++ [⟨queue, r.seqno, Vector.replicate 8 0, ctx, 0, 1, 0, 0, some queue⟩] } }

/-- Place a region for a grotto (R280): the region that was saved into it, or, where the module knows none, a new one, of a packet whose sequence
number no rule gives: a free value, beyond the numbers of the queues' own packets. -/
def State.admitRestore (s : State) (die x y w h lant grotto queue number : Nat) : State :=
  let ctx := (s.queue queue).ctx
  let known := s.savedRegion grotto
  let (seqno, s) := s.freeWord
  let r0 := match known with
    | some r => newRegion r.id die x y w h ctx r.queue r.seqno (max lant 1)
    | none => newRegion s.nextRegion die x y w h ctx queue (2 ^ 64 * (number + 1) + seqno.toNat) (max lant 1)
  let s := s.settleRestored r0 known.isSome queue ctx
  let r := { r0 with grotto := some grotto, frozen := true, restoring := true, kept := (known.map Region.kept).getD [] }
  let s := { s with regions := s.regions.filter (fun (x : Region) => x.id != r.id) ++ [r], nextRegion := max s.nextRegion (r.id + 1) }
  let s := s.admitCores r
  (List.range r.nseq).foldl (fun s k => s.setSeq (r.seqOfRank k) { Seq.init with region := some r.id, rank := k, frozen := true, startCycle := BitVec.ofNat 64 s.now }) s

/-- The place for an instance of a candidate on a die (R346). -/
def State.placeFor (s : State) (die : Nat) (o : Offer) : Option (Nat × Nat) :=
  let (w, h, lant, _, _) := s.wants o
  if s.unassigned die < max lant 1 then none else firstOrigin fun x y => s.rectFree die w h x y

/-- Instances of a candidate that are still to be admitted. -/
def State.instancesLeft (s : State) (c : Candidate) : Nat :=
  match c.offer with
  | .packet q n _ => match s.pkg.live.find? fun p => p.queue == q && p.seqno == n with | some p => p.toAdmit | none => 0
  | .restore .. => 1 - c.admitted

/-- Admit one instance at an origin. -/
def State.admitOne (s : State) (die : Nat) (c : Candidate) (x y : Nat) : State :=
  match c.offer with
  | .packet q n w => s.admitPacket die x y q n w c.admitted
  | .restore g q k => let (w, h, lant, _, _) := s.wants c.offer; s.admitRestore die x y w h lant g q k

/-- Admit the instances of a candidate that fit on a die; at most `fuel` of them. -/
def State.admitAll (s : State) (die : Nat) (c : Candidate) : Nat → State × Candidate
  | 0 => (s, c)
  | fuel + 1 =>
    if s.instancesLeft c = 0 then (s, c)
    else match s.placeFor die c.offer with
      | none => (s, c)
      | some (x, y) => (s.admitOne die c x y).admitAll die { c with admitted := c.admitted + 1, lastAdmit := some (s.now, die) } fuel

/-! ## Reservations (R347) -/

/-- A die that a candidate would reserve. -/
def State.dieToReserve (s : State) (o : Offer) : Option Nat :=
  let (w, h, _, _, _) := s.wants o
  (List.range 16).find? fun d => s.dieFits d w h && !s.pkg.reserved.any fun r => r.1 == d

/-- A candidate that exceeds the bypass limit reserves a die, or takes its place among those that wait for one. -/
def State.reserve (s : State) (c : Candidate) : State × Candidate :=
  if c.bypass ≤ s.pkg.bypassLimit ∨ c.reserveOrder.isSome then (s, c)
  else
    let c := { c with reserveOrder := some s.pkg.reserveCount }
    let s := { s with pkg := { s.pkg with reserveCount := s.pkg.reserveCount + 1 } }
    match s.dieToReserve c.offer with
    | some d => ({ s with pkg := { s.pkg with reserved := s.pkg.reserved ++ [(d, c.offer)] } }, c)
    | none => (s, c)

/-- What a candidate has become goes back into its slot. -/
def State.reserveSlot (s : State) (c : Candidate) : State :=
  let (s, c) := s.reserve c
  { s with pkg := { s.pkg with slots := s.pkg.slots.map fun d => if d.offer = c.offer then c else d } }

/-- SET_BYPASS_LIMIT (R337, R347): a mailbox start with bit 4 set, while no command runs. Candidates that exceed the new limit reserve dies at
once, in rank order (log 120). -/
def execSetBypassLimit (start : Word) (s : State) : Host.Outcome State Fault Refusal :=
  if s.hostReaches && bitAt start 4 && s.pkg.mailbox.running.isNone then
    let s := { s with pkg := { s.pkg with bypassLimit := bv start 0 4 } }
    .next ((s.rankOrder s.pkg.slots).foldl State.reserveSlot s)
  else .next s

/-- Candidates that exceeded their limits and hold no reservation, in the order in which they exceeded them. -/
def Package.reservers (p : Package) : List Candidate :=
  let l := p.slots.filter fun c => c.reserveOrder.isSome && !p.reserved.any fun r => r.2 == c.offer
  l.foldr (fun c acc =>
    let (a, b) := acc.span fun d => decide (d.reserveOrder.getD 0 < c.reserveOrder.getD 0)
    a ++ c :: b) []

/-- The reservation of a candidate ends; a die that is freed goes to the first that waits for one (R347). -/
def State.endReservation (s : State) (o : Offer) : State :=
  let s := { s with pkg := { s.pkg with reserved := s.pkg.reserved.filter fun r => r.2 != o } }
  s.pkg.reservers.foldl (fun s c =>
    match s.dieToReserve c.offer with
    | some d => { s with pkg := { s.pkg with reserved := s.pkg.reserved ++ [(d, c.offer)] } }
    | none => s) s

/-! ## The round (R346) -/

/-- Write a candidate back; one with no instance left releases its slot, and its queue joins the line again (R345). -/
def State.putCandidate (s : State) (c : Candidate) : State :=
  if s.instancesLeft c = 0 then
    let s := { s with pkg := { s.pkg with slots := s.pkg.slots.filter fun d => d.offer != c.offer } }
    match c.offer with
    | .packet q _ _ => s.joinLine q
    | .restore .. => s
  else { s with pkg := { s.pkg with slots := s.pkg.slots.map fun d => if d.offer = c.offer then c else d } }

/-- Go through the candidates in rank order; the result lists what each that was considered admitted. A reservation that ends within the round
lets the candidates after it be considered (R347). -/
def State.roundOver (die : Nat) : State → List Candidate → List (Candidate × Nat) → State × List (Candidate × Nat)
  | s, [], acc => (s, acc)
  | s, c :: rest, acc =>
    if !s.considers die c then s.roundOver die rest acc
    else
      let (s', c') := s.admitAll die c 65536
      let n := c'.admitted - c.admitted
      let c' := if n = 0 then c' else { c' with reserveOrder := none }
      let s' := s'.putCandidate c'
      let s' := if n = 0 then s' else s'.endReservation c.offer
      s'.roundOver die rest (acc ++ [(c', n)])

/-- A candidate of which the round admitted nothing has been bypassed once for each instance that it took (R347). -/
def State.bypassed (s : State) (total : Nat) (p : Candidate × Nat) : State :=
  if p.2 ≠ 0 then s
  else match s.pkg.slots.find? fun d => d.offer == p.1.offer with
    | none => s
    | some c => s.reserveSlot { c with bypass := c.bypass + total }

/-- One arbitration round of a die (R346, R347). -/
def State.round (s : State) (die : Fin 16) : State :=
  let (s', l) := s.roundOver die (s.rankOrder s.pkg.slots) []
  l.foldl (fun s p => s.bypassed (l.map (·.2)).sum p) s'

/-- ARBITRATION_ROUND (R346, R347): the round of the die whose turn it is in this cycle. -/
def execArbitrationRound (die : Fin 16) (s : State) : Host.Outcome State Fault Refusal :=
  match s.pkg.roundsDue with
  | [] => .next s
  | d :: rest => if d = die then .next (State.round { s with pkg := { s.pkg with roundsDue := rest } } die) else .next s

/-! ## Filling completions and events (R343, R344, R355) -/

/-- Two completions go into one window, so the earlier goes first. -/
def Completion.sameWindow (a b : Completion) : Bool :=
  ckind a.words == ckind b.words && (if ckind a.words = 1 then csid a.words == csid b.words && bv a.words[7] 0 3 == bv b.words[7] 0 3
    else cwin a.words == cwin b.words)

/-- A completion into a sequencer window (R343): two doublewords or one record; an event where the window is not bound. -/
def State.completeSeq (s : State) (c : Completion) : Option State :=
  let q := csid c.words
  let m : BitVec 3 := BitVec.ofNat 3 (bv c.words[7] 0 3)
  let v := s.seq q
  let a := c.lane0.setWidth 64
  let b := c.lane1.setWidth 64
  if !mdV (v.desc m) then some (s.packageEvent (seqDie q) 7 a b)
  else
    let es := if mdElem (v.desc m) then [[a, b, 0, 0]] else [[a], [b]]
    if v.frozen || !v.roomFor m es.length then none else some (s.setSeq q (v.appendAll m es))

/-- A completion into a host completion window. -/
def State.completeHost (s : State) (c : Completion) : Option State :=
  let w := s.hostWin (cwin c.words)
  if w.room 1 then some (s.setHostWin (cwin c.words) (w.write [(c.lane0.setWidth 64, c.lane1.setWidth 64)])) else none

/-- PACKET_COMPLETION (R343): filled once there is room. -/
def execPacketCompletion (index : Nat) (s : State) : Host.Outcome State Fault Refusal :=
  match s.pkg.completions[index]? with
  | none => .next s
  | some c =>
    if (s.pkg.completions.take index).any c.sameWindow then .next s
    else match (if ckind c.words = 1 then s.completeSeq c else s.completeHost c) with
      | none => .next s
      | some s => .next { s with pkg := { s.pkg with completions := dropNth s.pkg.completions index } }

/-- PACKAGE_EVENT (R355): two entries of host completion window 255, in one step; events of one source go in order. -/
def execPackageEvent (index : Nat) (s : State) : Host.Outcome State Fault Refusal :=
  match s.pkg.events[index]? with
  | none => .next s
  | some e =>
    let w := s.hostWin 255
    if !w.room 2 || (s.pkg.events.take index).any (fun d => bv d[1] 0 24 == bv e[1] 0 24) then .next s
    else .next { s.setHostWin 255 (w.write [(e[0], e[1]), (e[2], e[3])]) with
      pkg := { (s.setHostWin 255 (w.write [(e[0], e[1]), (e[2], e[3])])).pkg with events := dropNth s.pkg.events index } }

end Sys2Proof.Machine
end

