-- ==== Sys2Proof/Machine/Compute.lean ====
section
/-! DEFINITION. The meanings of the compute stages: `nop`, moves, integer and float stages (04 R60-R78, 03 R50). -/

namespace Sys2Proof.Machine

/-- A word without flags. -/
def plain (w : Lane) : Flagged := ⟨w, 0⟩

/-- The number of 1 bits (R77). -/
def popCount (w : Lane) : Nat := ((List.range 36).filter fun i => w.getLsbD i).length
/-- The number of 0 bits above the highest 1 (R77). -/
def leadingZeros (w : Lane) : Nat := if w = 0 then 36 else 35 - Nat.log2 w.toNat
/-- The shift amount in bits 5:0 (R74). -/
def shiftAmount (b : Lane) : Nat := bv b 0 6
/-- `ishl` (R74): satm(int36(a) × 2^s). -/
def ishlOp (m : Sat) (a b : Lane) : Flagged := satm m (a.toInt * 2 ^ shiftAmount b)
def ishrOp (a b : Lane) : Lane := BitVec.ofNat 36 (a.toNat / 2 ^ shiftAmount b)
def israOp (a b : Lane) : Lane := BitVec.ofInt 36 (a.toInt / 2 ^ shiftAmount b)
/-- The condition of `icmp` (R47, R76). -/
def icmpOp (cond : Nat) (a b : Lane) : Bool :=
  match cond with
  | 0 => a == b
  | 1 => a != b
  | 2 => decide (a.toInt < b.toInt)
  | 3 => decide (a.toInt ≤ b.toInt)
  | 4 => decide (b.toInt < a.toInt)
  | 5 => decide (b.toInt ≤ a.toInt)
  | 6 => decide (a.toNat < b.toNat)
  | _ => decide (b.toNat ≤ a.toNat)

/-- OP 0x00 and the reserved opcodes, which execute as it does and set OPC (R50, R58). -/
def stageNopOpcode : StageNopOp → Nat
  | .plain => 0x00
  | .reserved3E => 0x3E
  | .reserved3F => 0x3F

/-- `nop` (R50). DESIGN CHOICE (log 100): R50 has its fields ignored and R58 gives OPND for an operand other than none that an opcode does not read;
the model sets no OPND for one, and no MODX or AUXX for the OPs 0x3E and 0x3F, which set OPC. -/
def execStageNop (op : StageNopOp) (f : StageFields) (s : State) : Host.Outcome State Fault Refusal :=
  s.runStage (stageNopOpcode op) f fun _ _ => .nop (if op = .plain then modZero f ||| auxZero f else cwOPC)

/-- `mov` (R78). -/
def execStageMov (f : StageFields) (s : State) : Host.Outcome State Fault Refusal :=
  s.runStage 0x02 f fun x o => x.compute o (modZero f ||| auxZero f) fun a _ _ => plain a

/-- `sel` (R78). -/
def execStageSel (f : StageFields) (s : State) : Host.Outcome State Fault Refusal :=
  s.runStage 0x03 f fun x o => x.compute o (modZero f ||| auxZero f) fun a b c => plain (if boolOf a then b else c)

/-- `iadd` (R72). -/
def execIadd (f : StageFields) (s : State) : Host.Outcome State Fault Refusal :=
  s.runStage 0x04 f fun x o => x.compute o (modSaturation f ||| auxZero f) fun a b _ => satm (satOf f.mod.toNat) (a.toInt + b.toInt)

/-- `isub` (R72). -/
def execIsub (f : StageFields) (s : State) : Host.Outcome State Fault Refusal :=
  s.runStage 0x05 f fun x o => x.compute o (modSaturation f ||| auxZero f) fun a b _ => satm (satOf f.mod.toNat) (a.toInt - b.toInt)

/-- `imul` (R72). -/
def execImul (f : StageFields) (s : State) : Host.Outcome State Fault Refusal :=
  s.runStage 0x06 f fun x o => x.compute o (modSaturation f ||| auxZero f) fun a b _ => satm (satOf f.mod.toNat) (a.toInt * b.toInt)

/-- `imad` (R72). -/
def execImad (f : StageFields) (s : State) : Host.Outcome State Fault Refusal :=
  s.runStage 0x07 f fun x o => x.compute o (modSaturation f ||| auxZero f) fun a b c => satm (satOf f.mod.toNat) (a.toInt * b.toInt + c.toInt)

/-- `iand` (R73). -/
def execIand (f : StageFields) (s : State) : Host.Outcome State Fault Refusal :=
  s.runStage 0x08 f fun x o => x.compute o (modZero f ||| auxZero f) fun a b _ => plain (a &&& b)

/-- `ior` (R73). -/
def execIor (f : StageFields) (s : State) : Host.Outcome State Fault Refusal :=
  s.runStage 0x09 f fun x o => x.compute o (modZero f ||| auxZero f) fun a b _ => plain (a ||| b)

/-- `ixor` (R73). -/
def execIxor (f : StageFields) (s : State) : Host.Outcome State Fault Refusal :=
  s.runStage 0x0A f fun x o => x.compute o (modZero f ||| auxZero f) fun a b _ => plain (a ^^^ b)

/-- `iandn` (R73). -/
def execIandn (f : StageFields) (s : State) : Host.Outcome State Fault Refusal :=
  s.runStage 0x0B f fun x o => x.compute o (modZero f ||| auxZero f) fun a b _ => plain (a &&& ~~~b)

/-- `ishl` (R74). -/
def execIshl (f : StageFields) (s : State) : Host.Outcome State Fault Refusal :=
  s.runStage 0x0C f fun x o => x.compute o (modSaturation f ||| auxZero f) fun a b _ => ishlOp (satOf f.mod.toNat) a b

/-- `ishr` (R74). -/
def execIshr (f : StageFields) (s : State) : Host.Outcome State Fault Refusal :=
  s.runStage 0x0D f fun x o => x.compute o (modZero f ||| auxZero f) fun a b _ => plain (ishrOp a b)

/-- `isra` (R74). -/
def execIsra (f : StageFields) (s : State) : Host.Outcome State Fault Refusal :=
  s.runStage 0x0E f fun x o => x.compute o (modZero f ||| auxZero f) fun a b _ => plain (israOp a b)

/-- `icmp` (R76). -/
def execIcmp (f : StageFields) (s : State) : Host.Outcome State Fault Refusal :=
  s.runStage 0x0F f fun x o => x.compute o (auxZero f) fun a b _ => plain (laneOfBool (icmpOp f.mod.toNat a b))

/-- `imin` (R75). -/
def execImin (f : StageFields) (s : State) : Host.Outcome State Fault Refusal :=
  s.runStage 0x10 f fun x o => x.compute o (modZero f ||| auxZero f) fun a b _ => plain (if b.toInt < a.toInt then b else a)

/-- `imax` (R75). -/
def execImax (f : StageFields) (s : State) : Host.Outcome State Fault Refusal :=
  s.runStage 0x11 f fun x o => x.compute o (modZero f ||| auxZero f) fun a b _ => plain (if a.toInt < b.toInt then b else a)

/-- `ipopc` (R77). -/
def execIpopc (f : StageFields) (s : State) : Host.Outcome State Fault Refusal :=
  s.runStage 0x12 f fun x o => x.compute o (modZero f ||| auxZero f) fun a _ _ => plain (BitVec.ofNat 36 (popCount a))

/-- `iclz` (R77). -/
def execIclz (f : StageFields) (s : State) : Host.Outcome State Fault Refusal :=
  s.runStage 0x13 f fun x o => x.compute o (modZero f ||| auxZero f) fun a _ _ => plain (BitVec.ofNat 36 (leadingZeros a))

/-- `fadd` (R62). -/
def execFadd (f : StageFields) (s : State) : Host.Outcome State Fault Refusal :=
  s.runStage 0x14 f fun x o => x.compute o (modRounding f ||| auxZero f) fun a b _ => faddOp (rmode f.mod.toNat) a b

/-- `fsub` (R62). -/
def execFsub (f : StageFields) (s : State) : Host.Outcome State Fault Refusal :=
  s.runStage 0x15 f fun x o => x.compute o (modRounding f ||| auxZero f) fun a b _ => fsubOp (rmode f.mod.toNat) a b

/-- `fmul` (R62). -/
def execFmul (f : StageFields) (s : State) : Host.Outcome State Fault Refusal :=
  s.runStage 0x16 f fun x o => x.compute o (modRounding f ||| auxZero f) fun a b _ => fmulOp (rmode f.mod.toNat) a b

/-- `fma` (R62). -/
def execFma (f : StageFields) (s : State) : Host.Outcome State Fault Refusal :=
  s.runStage 0x17 f fun x o => x.compute o (modRounding f ||| auxZero f) fun a b c => fmaOp (rmode f.mod.toNat) a b c

/-- `fms` (R62). -/
def execFms (f : StageFields) (s : State) : Host.Outcome State Fault Refusal :=
  s.runStage 0x18 f fun x o => x.compute o (modRounding f ||| auxZero f) fun a b c => fmsOp (rmode f.mod.toNat) a b c

/-- `fmax` (R64). -/
def execFmax (f : StageFields) (s : State) : Host.Outcome State Fault Refusal :=
  s.runStage 0x19 f fun x o => x.compute o (modZero f ||| auxZero f) fun a b _ => plain (fmaxOp a b)

/-- `fmin` (R64). -/
def execFmin (f : StageFields) (s : State) : Host.Outcome State Fault Refusal :=
  s.runStage 0x1A f fun x o => x.compute o (modZero f ||| auxZero f) fun a b _ => plain (fminOp a b)

/-- `fabs` (R65). -/
def execFabs (f : StageFields) (s : State) : Host.Outcome State Fault Refusal :=
  s.runStage 0x1B f fun x o => x.compute o (modZero f ||| auxZero f) fun a _ _ => plain (fabsOp a)

/-- `fneg` (R65). -/
def execFneg (f : StageFields) (s : State) : Host.Outcome State Fault Refusal :=
  s.runStage 0x1C f fun x o => x.compute o (modZero f ||| auxZero f) fun a _ _ => plain (fnegOp a)

/-- `fcmp` (R66). -/
def execFcmp (f : StageFields) (s : State) : Host.Outcome State Fault Refusal :=
  s.runStage 0x1D f fun x o => x.compute o (auxZero f) fun a b _ => plain (laneOfBool (fcmpOp f.mod.toNat a b))

/-- `fclass` (R67). -/
def execFclass (f : StageFields) (s : State) : Host.Outcome State Fault Refusal :=
  s.runStage 0x1E f fun x o => x.compute o (modZero f ||| auxZero f) fun a _ _ => plain (fclassOp a)

/-- `frnd` (R68). -/
def execFrnd (f : StageFields) (s : State) : Host.Outcome State Fault Refusal :=
  s.runStage 0x1F f fun x o => x.compute o (modRounding f ||| auxZero f) fun a _ _ => plain (frndOp (rmode f.mod.toNat) a)

/-- `frcp` (R69). -/
def execFrcp (f : StageFields) (s : State) : Host.Outcome State Fault Refusal :=
  s.runStage 0x20 f fun x o => x.compute o (modZero f ||| auxZero f) fun a _ _ => frcpOp a

/-- `frsq` (R69). -/
def execFrsq (f : StageFields) (s : State) : Host.Outcome State Fault Refusal :=
  s.runStage 0x21 f fun x o => x.compute o (modZero f ||| auxZero f) fun a _ _ => frsqOp a

/-- `fexp2` (R69). -/
def execFexp2 (f : StageFields) (s : State) : Host.Outcome State Fault Refusal :=
  s.runStage 0x22 f fun x o => x.compute o (modRounding f ||| auxZero f) fun a _ _ => fexp2Op (rmode f.mod.toNat) a

/-- `flog2` (R69). -/
def execFlog2 (f : StageFields) (s : State) : Host.Outcome State Fault Refusal :=
  s.runStage 0x23 f fun x o => x.compute o (modRounding f ||| auxZero f) fun a _ _ => flog2Op (rmode f.mod.toNat) a

/-- `fscale` (R63). -/
def execFscale (f : StageFields) (s : State) : Host.Outcome State Fault Refusal :=
  s.runStage 0x24 f fun x o => x.compute o (modRounding f ||| auxZero f) fun a b _ => fscaleOp (rmode f.mod.toNat) a b

/-- `cvt.fi` (R70). -/
def execCvtFi (f : StageFields) (s : State) : Host.Outcome State Fault Refusal :=
  s.runStage 0x25 f fun x o => x.compute o (modRounding f ||| auxAbove f 1) fun a _ _ => cvtFiOp (rmode f.mod.toNat) (if bitAt f.aux 0 then .sat32 else .sat36) a

/-- `cvt.if` (R71). -/
def execCvtIf (f : StageFields) (s : State) : Host.Outcome State Fault Refusal :=
  s.runStage 0x26 f fun x o => x.compute o (modRounding f ||| auxZero f) fun a _ _ => cvtIfOp (rmode f.mod.toNat) a

end Sys2Proof.Machine
end

