-- ==== Sys2Proof/Machine/Still.lean ====
section
/-! DEFINITION. When a region stands still (09 R238; 10 R265, R269), when it is idle (09 R230), and when a SWAP may be placed and a core may flip (09
R232, R234). -/

namespace Sys2Proof.Machine

/-! ## SWAP and flips (R232, R234) -/

/-- A run of the old phase still fills a window: the SWAP follows its last element (R232). -/
def Core.stillFills (c : Core) (w : Win) : Bool :=
  c.edge.toList.any fun sl => sl.active && !sl.waitFlip && (((sl.loadKind || sl.kind == 6) && sl.win == w) || (sl.loadKind && sl.xflag && sl.iwin == w))

/-- The SWAP that is to be placed into a window, placed where it may be and has room. DESIGN CHOICE (log 106): its GRAPH is 0; no handler or stream
produces it, and R34 gives none. -/
def Core.placeSwap (c : Core) (w : Win) : Option Core :=
  if !c.swapDue.contains w || (wdSrc (c.desc w) == 1 && c.stillFills w) then none
  else (c.fillBeat w (Beat.blank 0 markSWAP)).map fun c => { c with swapDue := c.swapDue.filter (· != w) }

/-- A window holds a SWAP at its head (R234). -/
def Core.swapAtHead (c : Core) (w : Win) : Bool :=
  if wdBeat (c.desc w) then decide (0 < (c.win w).filled) && (c.beatAt (c.elemAddr w 0)).mark == markSWAP
  else (c.win w).swapPoint == some 0

/-- Stores of a core's edge unit that have not performed. -/
def State.edgeStores (s : State) (n : Nat) : Bool :=
  s.flying.any fun a => a.op != .load && match a.source with | .edge m _ => m == n | _ => false

/-- The conditions of R234. -/
def State.canFlip (s : State) (n : Nat) : Bool :=
  let c := s.core n
  (match s.regionOfCore n with | some r => r.swap.isSome && !r.freezing && !r.frozen | none => false)
    && !c.flipped && c.swapDue.isEmpty && c.pipe.isEmpty
    && allWins.all (fun w => !c.ordinary w || (if wdSrc (c.desc w) = 2 then (c.win w).filled == 0 else c.swapAtHead w))
    && !s.edgeStores n && !(c.edge.toList.any fun sl => !sl.failed.isEmpty)

/-- Remove the SWAP at the head of a window, and clear its DEBT (R234). -/
def Core.removeSwap (c : Core) (w : Win) : Core :=
  let st := c.win w
  if !c.ordinary w || wdSrc (c.desc w) == 2 || !c.swapAtHead w then c
  else if wdBeat (c.desc w) then c.setWin w { st with head := (st.head + 1) % max (wdCap (c.desc w)) 1, filled := st.filled - 1, debt := 0 }
  else c.setWin w { st with swapPoint := none, debt := 0 }

/-- The flip of one core; `send` says whether a SWAP goes out of its ports (R234, R238). DEDUCED (log 149): the least-recently-fired order stays,
each slot number where it was (R134). -/
def Core.flip (c : Core) (send : Bool) : Core :=
  let c := allWins.foldl Core.removeSwap c
  { c with
    active := c.shadow, shadow := c.active, kActive := c.kShadow, kShadow := c.kActive,
    dyn := Vector.replicate 8 SlotDyn.init, openGraph := none, flipped := true,
    edge := c.edge.map fun sl => { sl with waitFlip := false },
    swapPorts := Vector.ofFn fun j : Fin 4 => send && (c.portLink j).isSome,
    swapDue := if send then c.swapDue else [] }

/-! ## Beats (R238) -/

/-- Some staged beat of a core can move: to the next routers, into a window, or away. -/
def State.beatMoves (s : State) (n : Nat) (x : Staged) : Bool :=
  let c := s.core n
  match c.switch? x.sel x.link with
  | none => true
  | some w =>
    let mask := effectiveMask w
    mask == 0 || (s.dirsTake n x.link (maskDirs mask) && (!maskLocal mask || ((c.unstage x.sel x.link).fillLocal x.link x.beat).isSome))

/-- A pending SWAP of a port can leave. -/
def Core.portMoves (c : Core) : Bool :=
  (List.finRange 4).any fun j : Fin 4 => c.swapPorts[j] && match c.portLink j with
    | some link => !c.staged (BitVec.ofNat 4 (4 + j)) link
    | none => true

def State.routerMoves (s : State) (n : Nat) : Bool := (s.core n).staging.any (s.beatMoves n) || (s.core n).portMoves

/-! ## Stillness (R238) -/

/-- WIN of a store run is empty, or a SWAP or DRAIN stands at its head. -/
def Core.winEmpty (c : Core) (w : Win) : Bool := c.extent w == 0

/-- A stream that keeps its region from being still: one that runs, but for a store run that waits on an empty WIN. -/
def Core.streamMoves (c : Core) (e : Fin 4) : Bool :=
  let sl := c.edge[e]
  sl.active && !(sl.storeKind && !sl.storeOver && decide (sl.unitStart ≤ sl.freed) && c.winEmpty sl.win)

/-- A core, its router and its edge unit are still; a core that a store fault has stopped is. -/
def State.coreStill (s : State) (n : Nat) : Bool :=
  let c := s.core n
  c.stop || (c.pipe.isEmpty && (s.select n).isNone && !s.routerMoves n && !(List.finRange 4).any c.streamMoves)

/-- Every store of the region has performed (R238). -/
def State.storesDone (s : State) (r : Region) : Bool :=
  !(s.flying.any fun a => a.op != .load && match a.source with
      | .edge n _ => r.holds n
      | .seq q => r.seqs.contains q
      | _ => false)
    && r.seqs.all fun q => !((s.seq q).items.any fun i => match i with | .access _ => true | .coreCmd _ => false)

/-- The region is still (R238). -/
def State.still (s : State) (r : Region) : Bool := r.cores.all s.coreStill && s.storesDone r

/-- The region is idle (R230). -/
def State.idle (s : State) (r : Region) : Bool :=
  r.swap.isNone && r.drain.isNone && r.cores.all fun n =>
    let c := s.core n
    c.pipe.isEmpty && c.staging.isEmpty && (allWins.all fun w => !c.ordinary w || (c.win w).filled == 0) && c.edge.toList.all fun sl => !sl.active

/-! ## What can still move on the way to a checkpoint (R269) -/

/-- Two states of a core differ in what its edge unit has done. -/
def edgeDiffers (n : Nat) (s : State) : Host.Outcome State Fault Refusal → Bool
  | .next t => t.core n != s.core n || t.net.length != s.net.length
  | _ => false

/-- Some move of an edge slot would do something. -/
def State.edgeMoves (s : State) (n : Nat) (e : Fin 4) : Bool :=
  let sl := s.edgeSlot n e
  sl.active && sl.state != .withholding &&
    [execEdgeLoadBeat n e s, execAcquireTake n e s, execPermitTake n e s, execIndexTokenTake n e s, execEdgeStoreElement n e s,
     execQuantisingStoreBlock n e s, execEraseElement n e s, execTranslationToken n e s, execCompletionToken n e s].any (edgeDiffers n s)

/-- The firing at a place of the pipeline cannot go on (R42): it holds for a reason that still stands, or it stands behind an older firing. -/
def Core.firingHolds (c : Core) (k : Nat) (f : Firing) : Bool :=
  let older := c.pipe.take k
  if 6 < f.stage then k != 0
  else older.any (fun g => decide (g.stage ≤ f.stage) || g.hold.isSome) || match f.hold with
    | none => false
    | some (.port j) => match c.portLink j with | some link => c.staged (BitVec.ofNat 4 (4 + j)) link | none => false
    | some .older => older.any fun g => c.mustWait c.active[f.slot] (c.active[f.slot][f.stage]?.getD 0) c.active[g.slot] g.stage
    | some .stopped => true
    | some h => f.heldWin == h.win.map c.win

/-- A command that has reached a core can be applied. -/
def State.commandMoves (s : State) (n : Nat) : Bool := s.cmds.zipIdx.any fun (c, k) => c.unit == .core n && !s.standsAtCore k c

/-- A core has something that moves: a handler that is ready, a firing that does not hold, a beat, a SWAP, a flip, a command or a stream. -/
def State.coreMoves (s : State) (n : Nat) : Bool :=
  let c := s.core n
  (!c.stop && ((s.select n).isSome || c.pipe.zipIdx.any (fun (f, k) => !c.firingHolds k f)
      || s.routerMoves n || s.canFlip n || allWins.any fun w => (c.placeSwap w).isSome))
    || s.commandMoves n || (List.finRange 4).any (s.edgeMoves n)

/-- The access that a packet brings, or answers. -/
def Packet.access? (p : Packet) : Option Access :=
  match p.payload with
  | .access a => some a
  | .loaded a _ => some a
  | _ => none

/-- Accesses that are on their way, there or back, or stand at a controller: those withheld at a home do not. -/
def State.underWay (s : State) : List Access := s.net.filterMap Packet.access? ++ s.atSlice

/-- An access of the region's edge units is on its way. -/
def State.edgeFlying (s : State) (r : Region) : Bool := s.underWay.any fun a => match a.source with
  | .edge n _ => r.holds n
  | _ => false

/-- Nothing of the region can move, counting every wait on a DRAIN or on a withheld token as a wait (R269). -/
def State.stuck (s : State) (r : Region) : Bool := !(r.cores.any s.coreMoves) && !s.edgeFlying r

end Sys2Proof.Machine
end

