-- ==== Sys2Proof/Machine/ConfigWords.lean ====
section
/-! DEFINITION. Configuration words (09 R230 to R242): `cfg.load`, `cfg.shadow`, `cfg.swap` with its SWAP beats and flips, `cfg.drain` with stillness,
`cfg.phase` and `cfg.sig`. -/

namespace Sys2Proof.Machine

/-! ## Issue -/

/-- Issue of a configuration word: OWNER where only the owning sequencer may issue it (R221). -/
def configIssue (i : Instr) (a : Reg) (regs : List Reg) (owner mbz : Bool) (s : State) (c : WordCtx) : WordRes × State :=
  if c.awaits [a] then (.wait, s)
  else match s.regionOf c with
    | none => (.trap causeOWNER 0, s)
    | some r =>
      if owner && r.owner != c.q then (.trap causeOWNER 0, s)
      else sendCmd s c (.region r.id) i (c.reg a) 0 0 regs (c.crd [a] ||| warnIf mbz swMBZ)

/-! ## Application -/

/-- A configuration command that changes cores may be applied: none is while the region stands frozen (R269, R272). -/
def Region.takesConfig (r : Region) : Bool := !r.freezing && !r.frozen

/-- Apply a configuration command to its region; one whose region has left is dropped. -/
def State.applyConfig (s : State) (f : State → Region → Nat → Cmd → State) (k : Nat) (c : Cmd) : State :=
  match c.unit with
  | .region id => match s.region? id with
    | some r => f s r k c
    | none => s.finishCmd k []
  | _ => s

def Region.stepPhase (r : Region) : Region := { r with phase := r.phase + 1 }

/-- `cfg.load` at its region (R230). In a region that is idle it waits for the stores of runs that have ended (R239). -/
def State.applyCfgLoad (s : State) (r : Region) (k : Nat) (c : Cmd) : State :=
  if !r.takesConfig then s
  else if !s.idle r then s.finishCmd k [statusWord stBUSY]
  else if r.cores.any s.edgeStores then s
  else match s.readImage r.ctx c c.a.toNat with
    | (.waits, s) => s
    | (.refused w, s) => s.finishCmd k [w]
    | (.bytes image, s) =>
      match s.checkImage r false image with
      | .error w => s.finishCmd k [w]
      | .ok ps =>
        ((s.spread r ps Core.configure).setRegion { r.stepPhase with image := some c.a }).finishCmd k [statusWord stDONE]

/-- `cfg.shadow` at its region (R231). -/
def State.applyCfgShadow (s : State) (r : Region) (k : Nat) (c : Cmd) : State :=
  if !r.takesConfig then s
  else if r.swap.isSome || r.drain.isSome then s.finishCmd k [statusWord stBUSY]
  else match s.readImage r.ctx c c.a.toNat with
    | (.waits, s) => s
    | (.refused w, s) => s.finishCmd k [w]
    | (.bytes image, s) =>
      match s.checkImage r true image with
      | .error w => s.finishCmd k [w]
      | .ok ps => (s.spread r ps Core.configureShadow).finishCmd k [statusWord stDONE]

/-- The windows of a core into which a swap places a SWAP: those fed by the edge unit or by sequencers (R232). -/
def Core.swapWins (c : Core) : List Win := allWins.filter fun w => c.ordinary w && (wdSrc (c.desc w) == 1 || wdSrc (c.desc w) == 3)

/-- `cfg.swap` at its region (R232): the swap begins, and its status goes back when the last core has flipped. -/
def State.applyCfgSwap (s : State) (r : Region) (k : Nat) (c : Cmd) : State :=
  if c.begun || !r.takesConfig then s
  else if r.swap.isSome || r.drain.isSome then s.finishCmd k [statusWord stBUSY]
  else
    ((s.beginCmd k c).setRegion { r with swap := some (c.id, c.seq) }).onCores
      (fun u => { u.active_ s.now with flipped := false, swapDue := u.swapWins }) r.cores

/-- The last core has flipped: the swap ends (R232). -/
def State.endSwap (s : State) (r : Region) : State :=
  match r.swap with
  | none => s
  | some (id, _) =>
    ((s.setRegion { r.stepPhase with swap := none }).onCores (fun u => { u with flipped := false }) r.cores).finishId id [statusWord stDONE]

/-- SWAP_PLACE (R232). -/
def execSwapPlace (core : Nat) (win : Fin 16) (s : State) : Host.Outcome State Fault Refusal :=
  if s.coreFrozen core then .next s
  else match (s.core core).placeSwap win with
    | some c => .next (s.setCore core c)
    | none => .next s

/-- FLIP (R234). -/
def execFlip (core : Nat) (s : State) : Host.Outcome State Fault Refusal :=
  if !s.canFlip core then .next s
  else
    let s := s.setCore core ((s.core core).flip true)
    match s.regionOfCore core with
    | some r => .next (if r.cores.all fun n => (s.core n).flipped then s.endSwap r else s)
    | none => .next s

/-! ## Drains (R238) -/

/-- A drain meets one slot: a load or translation run ends at its next beat boundary, its last beat closed and sent, also where it withholds;
a withholding store run ends. -/
def State.drainSlot (s : State) (n : Nat) (e : Fin 4) : State :=
  let sl := s.edgeSlot n e
  if !sl.active then s
  else if sl.loadKind || sl.kind == 6 then
    if sl.waitFlip then s.stopRun n e
    else
      s.setEdge n e { sl with state := .running, stopping := true, parked := false, withheldSince := none, retryDue := false, blocked := false,
                              retried := [], failed := [] }
  else if sl.state == .withholding || sl.parked then s.stopRun n e
  else s

/-- Every slot of a region. -/
def State.drainRuns (s : State) (r : Region) : State :=
  r.cores.foldl (fun s n => (List.finRange 4).foldl (fun s e => s.drainSlot n e) s) s

/-- Only what withholds: for runs that come to withhold during the drain. -/
def State.drainWithheld (s : State) (r : Region) : State :=
  r.cores.foldl (fun s n => (List.finRange 4).foldl (fun s e =>
    if (s.edgeSlot n e).state == .withholding then s.drainSlot n e else s) s) s

/-- `cfg.drain` at its region (R238): it begins, and ends a checkpoint in progress. -/
def State.applyCfgDrain (s : State) (r : Region) (k : Nat) (c : Cmd) : State :=
  if c.begun || r.freezing || (r.frozen && r.checkpoint.isNone) then s
  else if r.drain.isSome then s.finishCmd k [statusWord stBUSY]
  else
    ((s.beginCmd k c).setRegion { r with
      drain := some ⟨c.id, c.seq, c.a, false⟩, checkpoint := none, checkpointSaved := false, frozen := false }).drainRuns r

/-- The report of some core of a region cannot reach the owner over a link that has stopped (R298, R300). -/
def State.reportWaits (s : State) (r : Region) : Bool := r.cores.any fun n => s.wayStopped (.core n) (.seq r.owner)

/-- STILLNESS_REPORT (R265). -/
def execStillnessReport (region : Nat) (s : State) : Host.Outcome State Fault Refusal :=
  match s.region? region with
  | none => .next s
  | some r =>
    match r.drain with
    | none => .next s
    | some d =>
      let s := s.drainWithheld r
      if s.still r && !s.reportWaits r then .next (s.setRegion { r with drain := some { d with still := true } }) else .next s

/-- What a drain discards of one core: elements in ordinary windows and beats in its router. -/
def Core.heldCount (c : Core) : Nat := (allWins.map fun w => if c.ordinary w then (c.win w).filled else 0).sum + c.staging.length

/-- A core as a drain leaves it, with its configuration kept; a stopped one is released, its failing word written as 0 (R120, R238). -/
def Core.keep (c : Core) : Core :=
  let c := if c.stop then { c.storeWord c.stopAddr 0 with stop := false } else c
  { c.clearDyn with
    pipe := [], staging := [], edge := Vector.replicate 4 EdgeSlot.init, guards := Vector.replicate 4 0,
    wstate := c.wdesc.map boundState, flipped := false, swapDue := [], swapPorts := Vector.replicate 4 false }

/-- A core in a drain: it flips where a swap is in progress and it has not, and what stands in it is discarded. -/
def Core.drained (c : Core) (swapping : Bool) : Core := (if swapping && !c.flipped then c.flip false else c).keep

/-- The end of a drain: the configuration in `ps` is loaded, or the old one is kept where there is none (R238). -/
def State.endDrain (s : State) (r : Region) (d : Drain) (ps : Option (List Pattern)) (status : Word) : State :=
  let n := min (r.cores.map fun n => (s.core n).heldCount).sum 0xFFFF
  let s := s.onCores (fun u => (u.drained r.swap.isSome).active_ s.now) r.cores
  let s := match ps with | some l => s.spread r l Core.configure | none => s
  let r' := { r.stepPhase with swap := none, drain := none, image := if ps.isSome then some d.imageVa else r.image }
  let s := s.setRegion r'
  let s := match r.swap with | some (id, _) => s.finishId id [statusWord stDONE] | none => s
  s.finishId d.cmdId [status ||| BitVec.ofNat 64 (at_ n 48 16)]

/-- The image that a drain names, read and checked. -/
def State.drainImage (s : State) (r : Region) (d : Drain) (c : Cmd) : Option (Option (List Pattern) × Word) × State :=
  if d.imageVa = 0 then (some (none, statusWord stDONE), s)
  else match s.readImage r.ctx c d.imageVa.toNat with
    | (.waits, s) => (none, s)
    | (.refused w, s) => (some (none, w), s)
    | (.bytes image, s) =>
      match s.checkImage r false image with
      | .error w => (some (none, w), s)
      | .ok ps => (some (some ps, statusWord stDONE), s)

/-- DRAIN_COMPLETE (R238): once the region has been reported still, and still is. -/
def execDrainComplete (region : Nat) (s : State) : Host.Outcome State Fault Refusal :=
  match s.region? region with
  | none => .next s
  | some r =>
    match r.drain with
    | none => .next s
    | some d =>
      if !d.still then .next s
      else if !s.still r then .next (s.setRegion { r with drain := some { d with still := false } })
      else match s.cmdById d.cmdId with
        | none => .next s
        | some (_, c) =>
          match s.drainImage r d c with
          | (none, s) => .next s
          | (some (ps, status), s) => .next (s.endDrain r d ps status)

/-! ## Phase and signature (R241, R242) -/

/-- `cfg.phase` at its region. -/
def State.applyCfgPhase (s : State) (r : Region) (k : Nat) (_ : Cmd) : State :=
  let busy := r.swap.isSome || r.drain.isSome
  let flipped := if r.swap.isSome then (r.cores.filter fun n => (s.core n).flipped).length else 0
  s.finishCmd k [BitVec.ofNat 64 (at_ (b2n busy) 63 1 + at_ flipped 32 31 + r.phase.toNat)]

/-- The signature of the image at an address, or zeros where it cannot be read (R242). -/
def State.signatureOf (s : State) (r : Region) (c : Cmd) (va : Word) : Option (List Byte) × State :=
  match s.readForCmd c.seq r.ctx c va.toNat 64 with
  | (.waits, s) => (none, s)
  | (.bytes h, s) =>
    if !headerOk h then (some (List.replicate 16 0), s)
    else match s.readForCmd c.seq r.ctx c va.toNat (imageSize h) with
      | (.waits, s) => (none, s)
      | (.bytes image, s) => (some (signature image s.pkg.feata), s)
      | (_, s) => (some (List.replicate 16 0), s)
  | (_, s) => (some (List.replicate 16 0), s)

/-- `cfg.sig` at its region: of the image named, or, for s0, of the one last loaded. -/
def State.applyCfgSig (a : Reg) (s : State) (r : Region) (k : Nat) (c : Cmd) : State :=
  match (if a = 0 then r.image else some c.a) with
  | none => s.finishCmd k [0, 0]
  | some va =>
    match s.signatureOf r c va with
    | (none, s) => s
    | (some l, s) => s.finishCmd k [wordAt l 0, wordAt l 1]

/-! ## The words -/

/-- `cfg.load sd, sa`. -/
def execCfgLoad (d a : Reg) (x : Bool) (g : Pred) (s : State) : Host.Outcome State Fault Refusal :=
  s.commandWord (configIssue (.cfgLoad d a x g) a [d] true x) fun s k c => s.applyConfig State.applyCfgLoad k c

/-- `cfg.shadow sd, sa`. -/
def execCfgShadow (d a : Reg) (x : Bool) (g : Pred) (s : State) : Host.Outcome State Fault Refusal :=
  s.commandWord (configIssue (.cfgShadow d a x g) a [d] true x) fun s k c => s.applyConfig State.applyCfgShadow k c

/-- `cfg.swap sd`. -/
def execCfgSwap (d a : Reg) (x : Bool) (g : Pred) (s : State) : Host.Outcome State Fault Refusal :=
  s.commandWord (configIssue (.cfgSwap d a x g) 0 [d] true x) fun s k c => s.applyConfig State.applyCfgSwap k c

/-- `cfg.drain sd, sa`. -/
def execCfgDrain (d a : Reg) (x : Bool) (g : Pred) (s : State) : Host.Outcome State Fault Refusal :=
  s.commandWord (configIssue (.cfgDrain d a x g) a [d] true x) fun s k c => s.applyConfig State.applyCfgDrain k c

/-- `cfg.phase sd`. -/
def execCfgPhase (d a : Reg) (x : Bool) (g : Pred) (s : State) : Host.Outcome State Fault Refusal :=
  s.commandWord (configIssue (.cfgPhase d a x g) 0 [d] false x) fun s k c => s.applyConfig State.applyCfgPhase k c

/-- `cfg.sig sd, sa`: two reply results, for sd and the register after it. -/
def execCfgSig (d a : Reg) (x : Bool) (g : Pred) (s : State) : Host.Outcome State Fault Refusal :=
  s.commandWord (configIssue (.cfgSig d a x g) a [d, d + 1] false x) fun s k c => s.applyConfig (State.applyCfgSig a) k c

end Sys2Proof.Machine
end

