-- ==== Sys2Proof/Machine/Control.lean ====
section
/-! DEFINITION. Control words of the sequencer (08 R184 to R186, R215): what they note in the block in issue. BLOCK_COMMIT applies them. -/

namespace Sys2Proof.Machine

/-- Some bits of a reserved FN's word that R178 and R217 mark 0 in its group are not 0; `rest` holds bits 25:3 of the word. -/
def reservedMbz (op : BitVec 6) (rest : BitVec 23) : Bool :=
  let set (lo n : Nat) : Bool := bv rest (lo - 3) n != 0
  match op.toNat with
  | 0x00 => set 3 3
  | 0x04 => set 3 3
  | 0x10 => set 21 2 || set 16 2 || set 11 2 || set 3 3
  | 0x11 => set 11 2 || set 3 3
  | 0x24 => set 6 10
  | 0x25 => set 6 2
  | 0x26 => set 6 5
  | 0x27 => set 6 10
  | 0x28 => set 6 5
  | _ => false

/-- `nop`, and a reserved FN of a group, which sets RSVF (R186, R215, R255). -/
def execSeqNop (kind : SeqNopKind) (x : Bool) (_ : Pred) (s : State) : Host.Outcome State Fault Refusal :=
  match kind with
  | .plain => s.plainWord [] x fun c => c.b
  | .reservedFn op rest => s.plainWord [] (x || reservedMbz op rest) fun c => c.b.warn swRSVF

def execHalt (x : Bool) (_ : Pred) (s : State) : Host.Outcome State Fault Refusal := s.plainWord [] x fun c => c.b.close .halt
def execWfe (x : Bool) (_ : Pred) (s : State) : Host.Outcome State Fault Refusal := s.plainWord [] x fun c => c.b.close .wfe
def execYield (x : Bool) (_ : Pred) (s : State) : Host.Outcome State Fault Refusal := s.plainWord [] x fun c => c.b.close .yield
def execEret (x : Bool) (_ : Pred) (s : State) : Host.Outcome State Fault Refusal := s.plainWord [] x fun c => c.b.close .eret
def execTrap (code : BitVec 15) (x : Bool) (_ : Pred) (s : State) : Host.Outcome State Fault Refusal :=
  s.plainWord [] x fun c => c.b.close (.trap code c.b.idx)

/-- PC + 4 × OFF (R185). -/
def branchTarget (pc : BitVec 56) (off : Int) : BitVec 56 := pc + BitVec.ofInt 56 (4 * off)

/-- A register as a control target: ADDR where bits 63:56 are not 0, ALIGN where it is not a multiple of 4 (R185). DESIGN CHOICE (log 142): ADDR
where both hold. -/
def registerTarget (u : Word) : Except (Nat × Word) (BitVec 56) :=
  if 2 ^ 56 ≤ u.toNat then .error (causeADDR, u) else if u.toNat % 4 ≠ 0 then .error (causeALIGN, u) else .ok (u.setWidth 56)

/-- A word that takes its target from a register, and does nothing where it has no part in the block (R184). -/
def State.targetWord (s : State) (a : Reg) (mbz : Bool) (nop : WordCtx → Bool) (f : Block → BitVec 56 → Block) :
    Host.Outcome State Fault Refusal :=
  s.runWord fun s x =>
    if nop x then (.issue (x.b.warn (warnIf mbz swMBZ)), s)
    else if x.awaits [a] then (.wait, s)
    else match registerTarget (x.reg a) with
      | .error (c, addr) => (.trap c addr, s)
      | .ok t => (.issue ((f x.b t).warn (x.crd [a] ||| warnIf mbz swMBZ)), s)

/-- `ret`: closing; PC := bits 55:0 of sa. -/
def execRet (a : Reg) (x : Bool) (_ : Pred) (s : State) : Host.Outcome State Fault Refusal :=
  s.targetWord a x (fun c => c.b.closing.isSome) fun b t => b.close (.ret t)

/-- `exitr`: an exit word; the fifth and later ones act as `nop` (R184). -/
def execExitr (a : Reg) (x : Bool) (_ : Pred) (s : State) : Host.Outcome State Fault Refusal :=
  s.targetWord a x (fun c => decide (4 ≤ c.b.exitsBefore)) fun b t => b.exit t

def execExitWord (off : BitVec 23) (_ : Pred) (s : State) : Host.Outcome State Fault Refusal :=
  s.plainWord [] false fun c => if 4 ≤ c.b.exitsBefore then c.b else c.b.exit (branchTarget c.v.pc off.toInt)

/-- `call`: closing; the link is written at commit (R186). -/
def execCall (d : Reg) (imm : BitVec 18) (_ : Pred) (s : State) : Host.Outcome State Fault Refusal :=
  s.plainWord [] false fun c => c.b.close (.call d (branchTarget c.v.pc imm.toInt))

end Sys2Proof.Machine
end

