-- ==== Sys2Proof/Machine/Net.lean ====
section
/-! DEFINITION. Network words (09 R253; 19 R362 to R366, R373): binding, the three messages, and congestion readback. -/

namespace Sys2Proof.Machine

/-! ## Handles (R363) -/

def State.conn? (s : State) (h : Nat) : Option Conn := s.fabric.conns.find? fun c => c.handle == h
def State.buf? (s : State) (h : Nat) : Option PubBuf := s.fabric.bufs.find? fun b => b.bound && b.handle == h

/-- Handles that are bound. -/
def Fabric.handles (f : Fabric) : List Nat := f.conns.map (·.handle) ++ (f.bufs.filter (·.bound)).map (·.handle)

/-- The lowest handle from `h` on that is not used. -/
def freeHandle (used : List Nat) : Nat → Nat → Nat
  | 0, h => h
  | n + 1, h => if used.contains h then freeHandle used n (h + 1) else h

def State.setConn (s : State) (c : Conn) : State :=
  { s with fabric := { s.fabric with conns := s.fabric.conns.map fun x => if x.handle = c.handle then c else x } }

/-! ## Addresses as the engines see them (R364, R366) -/

/-- Translate an address for an engine: shadow ranges too. -/
def State.engineTranslate (s : State) (ctx va : Nat) : Option Found × State :=
  match s.ctx? ctx with
  | none => (none, s)
  | some c =>
    match s.walk c.root c.domains (s.mappedVa ctx va) with
    | (.ok t, s) => (some ⟨t, s.mappedVa ctx va⟩, s)
    | (.error _, s) => (none, s)

/-- Every page of a range is mapped and granted; `pages` bounds the 2 MiB pages looked at. -/
def State.rangeMapped (s : State) (ctx : Nat) : Nat → Nat → Nat → Bool × State
  | 0, _, _ => (true, s)
  | pages + 1, va, len =>
    if len = 0 then (true, s)
    else if 2 ^ 56 ≤ va then (false, s)
    else match s.engineTranslate ctx va with
      | (none, s) => (false, s)
      | (some _, s) => let k := min len (2 ^ 21 - va % 2 ^ 21); s.rangeMapped ctx pages (va + k) (len - k)

/-- The bytes of a range, as an engine reads them at scope HOST, in pieces of at most eight; none where one cannot be read now. -/
def State.engineRead (s : State) (ctx : Nat) : Nat → Nat → Nat → Option (List Byte) × State
  | 0, _, _ => (some [], s)
  | fuel + 1, va, n =>
    if n = 0 then (some [], s)
    else
      let k := min n (8 - va % 8)
      match s.engineTranslate ctx va with
      | (none, s) => (none, s)
      | (some f, s) =>
        match s.loadAt f.place va k with
        | (.value v _, s) =>
          match s.engineRead ctx fuel (va + k) (n - k) with
          | (some l, s) => (some (leBytes k v ++ l), s)
          | (none, s) => (none, s)
        | (_, s) => (none, s)

/-- Every page of a range may be written; `pages` bounds the 2 MiB pages looked at. -/
def State.rangeWritable (s : State) (ctx : Nat) : Nat → Nat → Nat → Bool × State
  | 0, _, _ => (true, s)
  | pages + 1, va, len =>
    if len = 0 then (true, s)
    else if 2 ^ 56 ≤ va then (false, s)
    else match s.engineTranslate ctx va with
      | (none, s) => (false, s)
      | (some f, s) =>
        if f.tr.writable then let k := min len (2 ^ 21 - va % 2 ^ 21); s.rangeWritable ctx pages (va + k) (len - k) else (false, s)

/-- The 2 MiB pages that a message can touch (R365). -/
def messagePages : Nat := 514

/-- Place bytes where an engine writes them, in pieces of at most eight; none where one cannot be written, or has to wait behind an access that the home
of its tile withholds (R317). -/
def State.engineWrite (s : State) (ctx : Nat) : Nat → Nat → List Byte → Option State
  | 0, _, _ => some s
  | fuel + 1, va, l =>
    if l.isEmpty then some s
    else
      let k := min l.length (8 - va % 8)
      match s.engineTranslate ctx va with
      | (none, _) => none
      | (some f, s) =>
        if !f.tr.writable then none
        else
          let a : Access := { id := 0, source := .engine, op := .store, va := va, place := f.place, size := k, data := l.take k, aq := false, rl := false,
                              tag := 0, code := 0 }
          match (match f.place with
            | .floor pa => s.performAt a pa
            | .vug record => if s.tileHeld record va then .withheld s else s.applyVug a record) with
          | .done _ s => s.engineWrite ctx fuel (va + k) (l.drop k)
          | _ => none

/-- The bound buffer of a context whose visible range holds a whole range (R366). -/
def State.bufferHolding (s : State) (ctx va len : Nat) : Option PubBuf :=
  s.fabric.bufs.find? fun b => b.bound && b.ctx == ctx && decide (b.visible ≤ va) && decide (va + len ≤ b.visible + b.bytes)

/-- The address that leads to the shadow copy of a byte of a buffer. -/
def PubBuf.shadowOf (b : PubBuf) (va : Nat) : Nat := b.shadow + (va - b.visible)

/-! ## `net.bind` (R362, R363) -/

/-- Issue of a network word. -/
def netIssue (i : Instr) (d : Reg) (reads : List Reg) (a b : Reg) (mbz : Bool) (s : State) (x : WordCtx) : WordRes × State :=
  if x.awaits reads then (.wait, s)
  else sendCmd s x .engine i (x.reg a) (if reads.contains b then x.reg b else 0) 0 [d] (x.crd reads ||| warnIf mbz swMBZ)

/-- Two ranges of n bytes overlap, or one overlaps a bound buffer of the context. -/
def State.rangesTaken (s : State) (ctx vis sha n : Nat) : Bool :=
  rangesMeet vis n sha n ||
    s.fabric.bufs.any fun b => b.bound && b.ctx == ctx &&
      (rangesMeet vis n b.visible b.bytes || rangesMeet vis n b.shadow b.bytes || rangesMeet sha n b.visible b.bytes || rangesMeet sha n b.shadow b.bytes)

/-- The buffer that a descriptor of KIND 1 describes; none where it is refused. -/
def State.describeBuffer (s : State) (r : Region) (h : Nat) (l : List Byte) : Option PubBuf × State :=
  let vis := bv (wordAt l 1) 21 35 * 2 ^ 21
  let sha := bv (wordAt l 2) 21 35 * 2 ^ 21
  let z := bv (wordAt l 3) 0 32
  if z = 0 ∨ 2 ^ 20 < z ∨ s.rangesTaken r.ctx vis sha (z * 2 ^ 21) then (none, s)
  else match s.rangeMapped r.ctx z vis (z * 2 ^ 21) with
    | (false, s) => (none, s)
    | (true, s) =>
      match s.rangeMapped r.ctx z sha (z * 2 ^ 21) with
      | (false, s) => (none, s)
      | (true, s) => (some ⟨h, r.id, r.ctx, vis, sha, z, 0, false, true, false⟩, s)

/-- Entropy values of a connection that lead to a port in service. -/
def Fabric.livePaths (f : Fabric) (c : Conn) : Nat :=
  ((List.range c.paths).filter fun e => !f.deadPorts.contains (Config.pathPort c.handle e).val).length

/-- Paths of a connection that are in service: those that lead to a port in service (all while every port is, none while none is), and no more than
the last acknowledgement has (R361, R373; log 138). -/
def Fabric.pathsUp (f : Fabric) (c : Conn) : Nat :=
  if 16 ≤ f.deadPorts.length then 0
  else min (match c.record with | some said => said[3].toNat | none => c.paths) (if f.deadPorts.isEmpty then c.paths else f.livePaths c)

/-- Every path of a connection is out of service, so it fails (R361, R371). -/
def Fabric.pathless (f : Fabric) (c : Conn) : Bool := f.pathsUp c == 0

/-- The connection that a descriptor of KIND 0 describes; none where it is refused. -/
def State.describeConn (s : State) (r : Region) (h : Nat) (l : List Byte) : Option Conn :=
  let c0 := wordAt l 0
  let rank := bv (wordAt l 5) 0 8
  let win : BitVec 3 := BitVec.ofNat 3 (bv (wordAt l 5) 8 3)
  let v := s.seq (r.seqOfRank rank)
  if 2 < bv c0 8 4 ∨ wordAt l 7 ≠ 0 ∨ (bitAt c0 5 ∧ !s.feature featTsec) ∨ r.nseq ≤ rank ∨ !v.recordWin win then none
  else some
    { handle := h, region := r.id, ctx := r.ctx, job := bv c0 32 32, deliv := BitVec.ofNat 4 (bv c0 8 4), nscc := bitAt c0 7, rccc := bitAt c0 6,
      tss := bitAt c0 5, peer := (wordAt l 1, wordAt l 2), endpoints := wordAt l 3, key := BitVec.ofNat 32 (bv (wordAt l 4) 0 32),
      recvRank := rank, recvWin := win, slots := mdCap (v.desc win), ring := bv (wordAt l 6) 12 44 * 4096,
      paths := if bv (wordAt l 6) 16 8 = 0 then 16 else bv (wordAt l 6) 16 8, failed := false, closing := false,
      record := none, marked := 0, resent := 0, refused := 0, recvCount := 0, sendCount := 0 }

/-- The packets of an answer that the peer has not acknowledged. -/
def ReadAnswer.left (a : ReadAnswer) : List WirePacket := (a.packets.zipIdx.filter fun p => !a.acked.contains p.2).map (·.1)

/-- Messages on a handle that have not completed (R363), reads of the peer among them; one that a failed connection has left half arrived is over
(R371). -/
def State.handleBusy (s : State) (h : Nat) : Bool :=
  (s.fabric.msgs.any fun m => m.handle == h) || (s.fabric.answers.any fun a => a.handle == h && !a.left.isEmpty) || (s.fabric.inMsgs.any fun m => !m.done && s.fabric.works m.handle && (m.handle == h || m.buf == some h))
    || match s.buf? h with | some b => s.shadowBusy b | none => false

/-- A handle is freed (R363). -/
def State.release (s : State) (h : Nat) : State :=
  { s with fabric := { s.fabric with
      conns := s.fabric.conns.filter fun c => c.handle != h
      inMsgs := s.fabric.inMsgs.filter fun m => m.handle != h
      answers := s.fabric.answers.filter fun a => a.handle != h
      bufs := s.fabric.bufs.map fun (b : PubBuf) => if b.handle = h then { b with bound := false, closing := false } else b } }

/-- The handles of a region that has ended are freed once no message is outstanding on them (R363). -/
def State.freeHandles (s : State) : State :=
  let l := (s.fabric.conns.filter (·.closing)).map (·.handle) ++ (s.fabric.bufs.filter fun b => b.bound && b.closing).map (·.handle)
  l.foldl (fun s h => if s.handleBusy h then s else s.release h) s

/-- Every handle of a region is released when it ends: at once, or once its last message has completed (R363). -/
def State.releaseHandles (s : State) (r : Region) : State :=
  { s with fabric := { s.fabric with
      conns := s.fabric.conns.map fun (c : Conn) => if c.region = r.id then { c with closing := true } else c
      bufs := s.fabric.bufs.map fun (b : PubBuf) => if b.region = r.id then { b with closing := b.bound } else b } }.freeHandles

/-- The region holds a handle. -/
def State.holdsHandle (s : State) (r : Region) (h : Nat) : Bool :=
  (s.fabric.conns.any fun c => c.handle == h && c.region == r.id) || s.fabric.bufs.any fun b => b.bound && b.handle == h && b.region == r.id

/-- KIND 2: release of a handle, once every message on it has completed. -/
def State.bindRelease (s : State) (r : Region) (k h : Nat) : State :=
  if !s.holdsHandle r h then s.finishCmd k [statusWord stBADHANDLE]
  else if s.handleBusy h then s
  else (s.release h).finishCmd k [BitVec.ofNat 64 (at_ h 16 16 + stDONE)]

/-- A descriptor has been read. -/
def State.bindDescriptor (s : State) (r : Region) (k : Nat) (l : List Byte) : State :=
  let c0 := wordAt l 0
  let kind := bv c0 12 4
  let h := freeHandle s.fabric.handles 65535 1
  if 2 < kind ∨ bv c0 0 5 ≠ 0 ∨ (kind ≠ 2 ∧ bv c0 16 16 ≠ 0) then s.finishCmd k [statusWord stREFUSED]
  else if kind = 2 then s.bindRelease r k (bv c0 16 16)
  else if kind = 0 then
    match s.describeConn r h l with
    | none => s.finishCmd k [statusWord stREFUSED]
    | some c =>
      if 65535 ≤ s.fabric.handles.length then s.finishCmd k [statusWord stFULL]
      else ({ s with fabric := { s.fabric with conns := { c with failed := s.fabric.pathless c } :: s.fabric.conns } }).finishCmd k [BitVec.ofNat 64 (at_ h 16 16 + stDONE)]
  else
    match s.describeBuffer r h l with
    | (none, s) => s.finishCmd k [statusWord stREFUSED]
    | (some b, s) =>
      if 65535 ≤ s.fabric.handles.length then s.finishCmd k [statusWord stFULL]
      else ({ s with fabric := { s.fabric with bufs := b :: s.fabric.bufs } }).finishCmd k [BitVec.ofNat 64 (at_ h 16 16 + stDONE)]

/-- A network word at the engines, once NET is accepted and the region known: without NET every one returns BADHANDLE (R360). -/
def State.applyNet (s : State) (k : Nat) (c : Cmd) (body : State → Region → State) : State :=
  match s.regionOfSeq c.seq with
  | none => s.finishCmd k [statusWord stBADHANDLE]
  | some r => if !s.feature featNet then s.finishCmd k [statusWord stBADHANDLE] else body s r

/-- A descriptor of n bytes, aligned to n, is read for a network word; one that cannot be read is refused. -/
def State.withDescriptor (s : State) (r : Region) (k : Nat) (c : Cmd) (n : Nat) (body : State → List Byte → State) : State :=
  match s.readForCmd c.seq r.ctx c (c.a.toNat % 2 ^ 56 / n * n) n with
  | (.waits, s) => s
  | (.noXlat, s) => s.finishCmd k [statusWord stREFUSED]
  | (.bad, s) => s.finishCmd k [statusWord stREFUSED 0xFF]
  | (.bytes l, s) => body s l

/-- `net.bind sd, sa` (R363). -/
def execNetBind (d a b : Reg) (x : Bool) (g : Pred) (s : State) : Host.Outcome State Fault Refusal :=
  s.commandWord (netIssue (.netBind d a b x g) d [a] a b x) fun s k c =>
    s.applyNet k c fun s r => s.withDescriptor r k c 64 fun s l => s.bindDescriptor r k l

/-! ## Messages (R365, R366) -/

/-- Some bit that must be 0 of a message descriptor is not (R365). -/
def messageMbz (l : List Byte) : Bool :=
  bv (wordAt l 0) 56 8 != 0 || bv (wordAt l 1) 56 8 != 0 || bv (wordAt l 2) 16 16 != 0 || bv (wordAt l 2) 8 4 != 0 || bv (wordAt l 3) 16 47 != 0

/-- The message that a descriptor describes (R365). A send on a RUDI connection completes KIND, any message on a failed one PEERGONE. -/
def messageOf (c : Conn) (op : NetOp) (rank cmd : Nat) (l : List Byte) : NetMsg :=
  let q2 := wordAt l 2
  { handle := c.handle, num := c.sendCount, op := op, region := c.region, laddr := bv (wordAt l 0) 0 56, raddr := bv (wordAt l 1) 0 56,
    len := bv q2 32 32, cv := bitAt q2 15, cwin := BitVec.ofNat 3 (bv q2 12 3), crank := bv q2 0 8, rc := bitAt (wordAt l 3) 63,
    tag := BitVec.ofNat 16 (bv (wordAt l 3) 0 16), rank := rank, cmd := cmd, behind := 0, sent := [], kept := [], acked := [], placed := [],
    status := if op = .send ∧ c.deliv = 2 then some 2 else if c.failed then some 4 else none, due := none }

/-- Greatest LEN of an operation (R365). -/
def NetOp.maxLen : NetOp → Nat
  | .send => 4096
  | _ => 2 ^ 30

/-- A message of a word of sequencer `seq` is queued: the engine has copied its descriptor. -/
def State.queueMessage (s : State) (c : Conn) (op : NetOp) (k seq cmd : Nat) (l : List Byte) : State :=
  if op.maxLen < bv (wordAt l 2) 32 32 then s.finishCmd k [statusWord stREFUSED]
  else
    let v := s.seq seq
    let s := if messageMbz l then s.setSeq seq { v with swarn := v.swarn ||| swMBZ } else s
    let s := s.setConn { c with sendCount := c.sendCount + 1 }
    ({ s with fabric := { s.fabric with msgs := s.fabric.msgs ++ [messageOf c op v.rank cmd l] } }).finishCmd k [statusWord stDONE]

/-- A message word at the engines. -/
def State.applyMessage (s : State) (op : NetOp) (k : Nat) (c : Cmd) : State :=
  s.applyNet k c fun s r =>
    match s.conn? c.b.toNat with
    | none => s.finishCmd k [statusWord stBADHANDLE]
    | some n =>
      if n.region ≠ r.id then s.finishCmd k [statusWord stBADHANDLE]
      else s.withDescriptor r k c 32 fun s l => s.queueMessage n op k c.seq c.id l

/-- `net.write sd, sa, sb` (R253, R366). -/
def execNetWrite (d a b : Reg) (x : Bool) (g : Pred) (s : State) : Host.Outcome State Fault Refusal :=
  s.commandWord (netIssue (.netWrite d a b x g) d [a, b] a b x) fun s k c => s.applyMessage .write k c

/-- `net.read sd, sa, sb` (R253, R366). -/
def execNetRead (d a b : Reg) (x : Bool) (g : Pred) (s : State) : Host.Outcome State Fault Refusal :=
  s.commandWord (netIssue (.netRead d a b x g) d [a, b] a b x) fun s k c => s.applyMessage .read k c

/-- `net.send sd, sa, sb` (R253, R366). -/
def execNetSend (d a b : Reg) (x : Bool) (g : Pred) (s : State) : Host.Outcome State Fault Refusal :=
  s.commandWord (netIssue (.netSend d a b x g) d [a, b] a b x) fun s k c => s.applyMessage .send k c

/-! ## `net.stat` (R373) -/

/-- Bytes p of a range that are sent together: packets break where the address they go to is a multiple of 4, `low` being that of the range, so
that no aligned 4-byte word is divided (R360, R374). -/
def chunkOff (low p : Nat) : Nat := 4096 * p - low
def chunkLen (low len p : Nat) : Nat := min len (4096 * (p + 1) - low) - chunkOff low p
def chunks (low len : Nat) : Nat := max 1 ((len + low + 4095) / 4096)

/-- Where the destination of a message stands in its aligned 4-byte word: at the peer, or, for a slot, at its beginning. -/
def NetMsg.low (m : NetMsg) : Nat := match m.op with | .send => 0 | _ => m.raddr % 4

/-- Bytes of a packet of a write or a send. -/
def NetMsg.packetLen (m : NetMsg) (p : Nat) : Nat := match m.op with | .read => 0 | _ => chunkLen m.low m.len p

/-- Bytes of a connection that have been sent and are not acknowledged: of its messages, and of answers to the peer (R373). -/
def Fabric.unacked (f : Fabric) (h : Nat) : Nat :=
  ((f.msgs.filter fun m => m.handle == h && m.status.isNone).map fun m => ((m.sent.filter fun p => !m.acked.contains p.1).map fun p => m.packetLen p.1).sum).sum
    + ((f.answers.filter fun a => a.handle == h).map fun a => (a.left.map fun w => w.bytes.length).sum).sum

/-- A word of a congestion record (R373), `k` below 8, from what the engine keeps and what acknowledgements have said: words of controls that are
off read 0. -/
def Fabric.congestion (f : Fabric) (c : Conn) (said : Vector Word 5) (k : Nat) : Word :=
  match k with
  | 0 => if c.nscc then said[0] else 0
  | 1 => if c.rccc then said[1] else 0
  | 2 => said[2]
  | 3 => BitVec.ofNat 64 (f.unacked c.handle)
  | 4 => BitVec.ofNat 64 c.marked
  | 5 => BitVec.ofNat 64 c.resent
  | 6 => BitVec.ofNat 64 c.refused
  | _ => BitVec.ofNat 64 (at_ (b2n c.failed) 56 8 + at_ (f.pathsUp c) 48 8 + at_ said[4].toNat 0 48)

/-- `net.stat` at the engines: what only acknowledgements give is a free value before the first. -/
def State.applyNetStat (s : State) (k : Nat) (c : Cmd) : State :=
  s.applyNet k c fun s _ =>
    let j := c.a.toNat % 8
    match s.conn? c.b.toNat with
    | none => s.finishCmd k [0]
    | some n =>
      match n.record with
      | some said => s.finishCmd k [s.fabric.congestion n said j]
      | none => ({ s with frees := s.frees + 5 }).finishCmd k [s.fabric.congestion n (Vector.ofFn fun i : Fin 5 => Config.congestionWord (s.frees + i)) j]

/-- `net.stat sd, sa, sb` (R253, R373). -/
def execNetStat (d a b : Reg) (x : Bool) (g : Pred) (s : State) : Host.Outcome State Fault Refusal :=
  s.commandWord (netIssue (.netStat d a b x g) d [a, b] a b x) State.applyNetStat

end Sys2Proof.Machine
end

