-- ==== Sys2Proof/Machine/Fabric.lean ====
section
/-! DEFINITION. What the transport engines do: packets out and in, completions, acknowledgements and failures (19 R360 to R374). The peer and the
network are the environment: an event's arguments say what has come from them. -/

namespace Sys2Proof.Machine

/-! ## Sending (R366, R371) -/

/-- A message is changed in its place. -/
def State.setMsg (s : State) (k : Nat) (m : NetMsg) : State := { s with fabric := { s.fabric with msgs := setNth s.fabric.msgs k m } }

/-- A packet leaves for a peer. -/
def State.transmit (s : State) (w : WirePacket) : State := { s with fabric := { s.fabric with wire := s.fabric.wire ++ [w] } }

/-- The packets of a message: a read has one, its request; the token message has one, of no bytes. -/
def NetMsg.packets (m : NetMsg) : Nat := match m.op with | .read => 1 | _ => chunks m.low m.len

/-- Every packet of a message has been sent. -/
def NetMsg.allSent (m : NetMsg) : Bool := (List.range m.packets).all fun p => m.sent.any fun x => x.1 == p

/-- A packet of a connection, of a message or of an answer to the peer, has gone unacknowledged for 2^24 ns since its first attempt (R371). -/
def State.overdue (s : State) (handle : Nat) : Bool :=
  (s.fabric.msgs.any fun m => m.handle == handle && m.status.isNone && m.sent.any fun p => !m.acked.contains p.1 && decide (p.2 + 2 ^ 24 ≤ s.stamp))
    || s.fabric.answers.any fun a => a.handle == handle && !a.left.isEmpty && decide (a.sent + 2 ^ 24 ≤ s.stamp)

/-- A connection goes on: it has not failed, and no packet of it is overdue. -/
def State.connWorks (s : State) (c : Conn) : Bool := !c.failed && !s.overdue c.handle

/-- An access that a message's sequencer committed before the message may still change bytes of its source, or an earlier acquire has not performed, so
reading them waits (R220, R366). While the region is saved, what it holds of these cannot be told apart, and the message waits for the restore. -/
def State.sourceWaits (s : State) (m : NetMsg) : Bool :=
  match s.region? m.region with
  | none => decide (0 < m.behind)
  | some r => if r.restoring then decide (0 < m.behind) else s.waitsFor (r.seqOfRank m.rank) m.cmd m.laddr m.len

/-- Packet p of a message is sent for the first time (R371). -/
def State.sendPacket (s : State) (k : Nat) (m : NetMsg) (p : Nat) (w : WirePacket) : State :=
  (s.setMsg k { m with sent := m.sent ++ [(p, s.stamp)], kept := m.kept ++ [(p, w)] }).transmit w

/-- A packet is sent again, as it was (R366, R373, R374). -/
def State.sendAgain (s : State) (c : Conn) (w : WirePacket) : State := (s.setConn { c with resent := c.resent + 1 }).transmit w

/-- A message that asks too much ends before anything of it is sent (R367). -/
def State.refuseMsg (s : State) (k : Nat) (m : NetMsg) (status : Nat) : State := if m.sent.isEmpty then s.setMsg k { m with status := some status } else s

/-- Packet p of a write or a send is read from memory and sent; a local address without translation ends the message with LOCAL (R367), where
nothing of it has been sent yet; else the packet waits. -/
def State.sendBytes (s : State) (c : Conn) (k : Nat) (m : NetMsg) (p : Nat) : State :=
  match s.rangeMapped c.ctx messagePages m.laddr m.len with
  | (false, s) => s.refuseMsg k m 3
  | (true, s) =>
    let off := chunkOff m.low p
    let n := m.packetLen p
    match s.engineRead c.ctx (n / 8 + 2) (m.laddr + off) n with
    | (none, s) => s
    | (some l, s) =>
      let base := match m.op with | .send => 0 | _ => m.raddr
      s.sendPacket k m p ⟨m.handle, m.num, m.op, none, base + off, base, m.len, m.tag, m.rc, l⟩

/-- The request of a read is sent. A local range that lies outside one published buffer ends the message with NOTPUB, and one whose shadow copy has no
translation or may not be written with LOCAL (R366, R367). -/
def State.sendRequest (s : State) (c : Conn) (k : Nat) (m : NetMsg) : State :=
  match s.bufferHolding c.ctx m.laddr m.len with
  | none => s.refuseMsg k m 1
  | some b =>
    match s.rangeWritable c.ctx messagePages (b.shadowOf m.laddr) m.len with
    | (false, s) => s.refuseMsg k m 3
    | (true, s) => s.sendPacket k m 0 ⟨m.handle, m.num, .read, none, m.raddr, m.laddr, m.len, m.tag, m.rc, []⟩

/-- Packet p of an answer to the peer is sent again, until it is acknowledged. -/
def State.answerAgain (s : State) (a : ReadAnswer) (p : Nat) : State :=
  match s.conn? a.handle, a.packets[p]? with
  | some c, some w => if s.connWorks c && !a.acked.contains p then s.sendAgain c w else s
  | _, _ => s

/-- PACKET_RETRANSMIT (R371, R366): packet `packet` of a message is sent, for the first time or, until it is acknowledged, again; the numbers
behind those of the messages stand for the answers to the peer. Without NET no answer goes to the peer (R360). -/
def execPacketRetransmit (index packet : Nat) (s : State) : Host.Outcome State Fault Refusal :=
  match s.fabric.msgs[index]? with
  | none => match s.fabric.answers[index - s.fabric.msgs.length]? with
    | some a => .next (if s.feature featNet then s.answerAgain a packet else s)
    | none => .next s
  | some m =>
    match s.conn? m.handle with
    | none => .next s
    | some c =>
      if !s.connWorks c || m.status.isSome || decide (m.packets ≤ packet) || m.acked.contains packet then .next s
      else match m.kept.find? fun x => x.1 == packet with
        | some (_, w) => .next (s.sendAgain c w)
        | none =>
          if m.op = .read then .next (s.sendRequest c index m)
          else if s.sourceWaits m then .next s
          else .next (s.sendBytes c index m packet)

/-! ## Receiving (R366, R368, R372) -/

/-- Messages that have arrived on a connection and are done. -/
def State.msgDone (s : State) (h n : Nat) : Bool := s.fabric.inMsgs.any fun m => m.handle == h && m.num == n && m.done

/-- Under ROD, every earlier message on the connection is done (R368). -/
def State.inOrder (s : State) (c : Conn) (n : Nat) : Bool := c.deliv != 1 || (List.range n).all (s.msgDone c.handle)

/-- Where the windows of a sequencer of a region stand (R372): at the sequencer; away, while the region is frozen, saved or not yet thawed; or
nowhere, once it has ended, or where the region has no such rank (log 122). -/
inductive WindowHome where
  | at_ (q : Nat)
  | away
  | gone
  deriving DecidableEq, Repr

/-- Where the windows of the sequencer of a rank of a region stand. -/
def State.windowHome (s : State) (region rank : Nat) : WindowHome :=
  match s.regions.find? fun r => r.id == region with
  | none => .gone
  | some r =>
    if r.ended = some 9 then .away
    else if r.ended.isSome || decide (r.nseq ≤ rank) then .gone
    else if r.freezing || r.restoring then .away else .at_ (r.seqOfRank rank)

/-- Where a connection's receive window stands. -/
def State.receiver (s : State) (c : Conn) : WindowHome := s.windowHome c.region c.recvRank

/-- The record of a message still stands in the receive window of its connection: it has not been shrunk from it (R366). While the region is saved, a
record that stood there then. -/
def State.recordStands (s : State) (c : Conn) (m : InMsg) : Bool :=
  match m.pos with
  | none => false
  | some p =>
    match s.region? c.region with
    | some r => r.restoring || (s.seq (r.seqOfRank c.recvRank)).stands c.recvWin p
    | none => true

/-- The receive slots of a connection that are taken: those of messages under way, and those whose records still stand in the window. -/
def State.takenSlots (s : State) (c : Conn) : List Nat :=
  (s.fabric.inMsgs.filter fun m => m.handle == c.handle && (!m.done || s.recordStands c m)).filterMap (·.slot)

/-- Records of a connection that are still to be filled. -/
def State.owedRecords (s : State) (c : Conn) : Nat :=
  (s.fabric.inMsgs.filter fun m => m.handle == c.handle && m.slot.isSome && !m.done).length

/-- Fills of a connection that wait for its region: of records, and of local completions (R372). -/
def State.heldFills (s : State) (handle : Nat) : Nat :=
  (s.fabric.inMsgs.filter fun m => m.handle == handle && m.due.isSome && !m.done).length + (s.fabric.msgs.filter fun m => m.handle == handle && m.due.isSome).length

/-- Greatest number of fills that a connection holds (R372). -/
def mostHeld : Nat := 256

/-- A new message that asks for a record finds a free slot, room in the receive window, and, while the window's region is away, one of the 256 fills
that a connection can hold (R366, R372). -/
def State.slotFree (s : State) (c : Conn) : Bool :=
  decide (0 < c.slots) && !(s.takenSlots c).contains (c.recvCount % max c.slots 1)
    && match s.receiver c with
      | .at_ q => decide (((s.seq q).win c.recvWin).filled + s.owedRecords c < mdCap ((s.seq q).desc c.recvWin))
      | .away => decide (s.owedRecords c + (s.fabric.msgs.filter fun m => m.handle == c.handle && m.due.isSome).length < mostHeld)
      | .gone => false

/-- A message of the peer begins. -/
def InMsg.first (c : Conn) (p : NetPacket) (buf slot : Option Nat) (done : Bool) : InMsg :=
  { handle := c.handle, num := p.msg, isSend := p.kind == .send, len := p.len, tag := p.tag % 65536, rc := p.rc, buf := buf, slot := slot, placed := [],
    done := done, due := none }

/-- What tells the peer that a message of it has ended, with a status (R367). -/
def InMsg.answer (m : InMsg) (op : NetOp) (status : Nat) : WirePacket := ⟨m.handle, m.num, op, some status, 0, 0, m.len, BitVec.ofNat 16 m.tag, m.rc, []⟩

def State.answerPeer (s : State) (m : InMsg) (op : NetOp) (status : Nat) : State := s.transmit (m.answer op status)

/-- The operation of a message from the peer that places bytes. -/
def InMsg.op (m : InMsg) : NetOp := if m.isSend then .send else .write

/-- The buffer whose shadow copy takes a write of the peer: its range lies within one published buffer and is granted (R366, R367). -/
def State.writeTarget (s : State) (c : Conn) (p : NetPacket) : Option PubBuf × State :=
  match s.bufferHolding c.ctx p.base p.len with
  | none => (none, s)
  | some b =>
    match s.rangeWritable c.ctx messagePages (b.shadowOf p.base) p.len with
    | (true, s) => (some b, s)
    | (false, s) => (none, s)

/-- The first packet of a message takes what the message needs, its buffer, and with a record its slot; none where the packet is refused. A write
outside one published buffer ends with NOTPUB, and nothing of it is placed. -/
def State.openMessage (s : State) (c : Conn) (p : NetPacket) : Option (InMsg × State) :=
  let add (m : InMsg) (s : State) : State := { s with fabric := { s.fabric with inMsgs := s.fabric.inMsgs ++ [m] } }
  let (target, s) := if p.kind = .write && decide (0 < p.len) then s.writeTarget c p else (none, s)
  let record := p.kind == .send || p.rc
  if c.closing then none
  else if p.kind == .write && decide (0 < p.len) && target.isNone then
    let m := InMsg.first c p none none true
    some (m, (add m s).answerPeer m .write 1)
  else if record && !s.slotFree c then none
  else
    let m := InMsg.first c p (target.map (·.handle)) (if record then some (c.recvCount % max c.slots 1) else none) false
    some (m, add m (if record then s.setConn { c with recvCount := c.recvCount + 1 } else s))

/-- The address that a packet's bytes go to: the shadow copy of the buffer, or the receive slot. -/
def State.placeAddress (s : State) (c : Conn) (m : InMsg) (p : NetPacket) : Option Nat :=
  if m.isSend then m.slot.map fun k => c.ring + 4096 * k + p.addr
  else (m.buf.bind s.buf?).map fun b => b.shadowOf p.addr

/-- Bytes of a packet that begin `off` into a range at `start` divide no aligned 4-byte word of it with another packet (R374, log 123). -/
def wordsWhole (start len off n : Nat) : Bool :=
  (off == 0 || decide ((start + off) % 4 = 0)) && (off + n == len || decide ((start + off + n) % 4 = 0))

/-- The packet lies within its message, and breaks it where packets may. -/
def InMsg.covers (m : InMsg) (p : NetPacket) : Bool :=
  let n := p.bytes.length
  if m.isSend then decide (p.addr + n ≤ m.len) && decide (m.len ≤ 4096) && wordsWhole 0 m.len p.addr n
  else decide (p.base ≤ p.addr) && decide (p.addr + n ≤ p.base + m.len) && wordsWhole p.base m.len (p.addr - p.base) n

/-- A packet of a message that has been taken in is placed; none where it is refused or was placed before, which RUD and ROD never repeat. -/
def State.placeBytes (s : State) (c : Conn) (m : InMsg) (p : NetPacket) : Option State :=
  if m.done || !m.covers p || decide (4096 < p.bytes.length) || (c.deliv != 2 && m.placed.contains (p.addr, p.bytes.length)) then none
  else
    let part (s : State) : State :=
      { s with fabric := { s.fabric with inMsgs := s.fabric.inMsgs.map fun x =>
          if x.handle = m.handle ∧ x.num = m.num ∧ !x.done then { x with placed := x.placed ++ [(p.addr, p.bytes.length)] } else x } }
    if p.bytes.isEmpty then some s
    else match s.placeAddress c m p with
      | none => none
      | some va => (s.engineWrite c.ctx (p.bytes.length / 8 + 2) va p.bytes).map part

/-- The status with which a message of the peer has ended: NOTPUB for a write of bytes that no buffer took (R367). -/
def InMsg.status (m : InMsg) : Nat := if !m.isSend && decide (0 < m.len) && m.buf.isNone then 1 else 0

/-- The peer is told again that a message of it has ended; a read of it has an answer of its own. -/
def State.endAgain (s : State) (c : Conn) (m : InMsg) : Option State :=
  if s.fabric.answers.any fun a => a.handle == m.handle && a.num == m.num then none else some (s.sendAgain c (m.answer m.op m.status))

/-- A packet of a peer's write or send. One of a message that has ended places nothing, and the peer is told again: what told it was lost (R371). -/
def State.placeMessage (s : State) (c : Conn) (p : NetPacket) : Option State :=
  if !s.inOrder c p.msg || (p.kind == .send && c.deliv == 2) then none
  else match s.fabric.inMsgs.find? fun m => m.handle == c.handle && m.num == p.msg with
    | some m => if m.done then s.endAgain c m else s.placeBytes c m p
    | none => (s.openMessage c p).bind fun (m, s) => s.placeBytes ((s.conn? c.handle).getD c) m p

/-- A packet of the answer to a read (R366, R368): placed into the shadow copy of the local buffer. -/
def State.placeAnswer (s : State) (c : Conn) (p : NetPacket) : Option State :=
  match s.fabric.msgs.findIdx? fun m => m.handle == c.handle && m.num == p.msg && m.op == .read && m.status.isNone && m.allSent with
  | none => none
  | some k =>
    match s.fabric.msgs[k]? with
    | none => none
    | some m =>
      let earlier := (s.fabric.msgs.take k).any fun x => x.handle == c.handle && x.status.isNone
      if !s.connWorks c || !wordsWhole m.laddr m.len p.addr p.bytes.length || (c.deliv == 1 && earlier) || (c.deliv != 2 && m.placed.contains (p.addr, p.bytes.length)) || decide (m.len < p.addr + p.bytes.length)
          || decide (4096 < p.bytes.length) then none
      else match s.bufferHolding c.ctx m.laddr m.len with
        | none => none
        | some b =>
          (s.engineWrite c.ctx (p.bytes.length / 8 + 2) (b.shadowOf (m.laddr + p.addr)) p.bytes).map fun s =>
            s.setMsg k { m with placed := m.placed ++ [(p.addr, p.bytes.length)], acked := [0] }

/-- MESSAGE_PACKET_PLACE (R366): a packet arrives and is placed, or is refused and leaves everything as it was; without NET the engines answer nothing
(R360). -/
def execMessagePacketPlace (packet : NetPacket) (s : State) : Host.Outcome State Fault Refusal :=
  match s.conn? packet.handle with
  | none => .next s
  | some c =>
    if c.failed || !s.feature featNet then .next s
    else .next ((if packet.kind = .readReply then s.placeAnswer c packet else s.placeMessage c packet).getD s)

/-! ## Serving a peer's read (R366) -/

/-- A read of the peer (R366): its number, the range, and the address at the peer that the bytes go to. -/
structure PeerRead where
  msg : Nat
  addr : Nat
  len : Nat
  dest : Nat
  deriving DecidableEq, Repr

/-- Packets p, p + 1, … of the answer to a read; none where a byte cannot be read now. -/
def State.answers (s : State) (c : Conn) (r : PeerRead) : Nat → Nat → Option (List WirePacket) × State
  | 0, _ => (some [], s)
  | n + 1, p =>
    let off := chunkOff (r.dest % 4) p
    let k := chunkLen (r.dest % 4) r.len p
    match s.engineRead c.ctx (k / 8 + 2) (r.addr + off) k with
    | (none, s) => (none, s)
    | (some l, s) =>
      match s.answers c r n (p + 1) with
      | (some ws, s) => (some (⟨c.handle, r.msg, .read, some 0, off, r.dest, r.len, 0, false, l⟩ :: ws), s)
      | (none, s) => (none, s)

/-- A read of the peer that has been answered. -/
def InMsg.read (handle : Nat) (r : PeerRead) : InMsg :=
  { handle := handle, num := r.msg, isSend := false, len := r.len, tag := 0, rc := false, buf := none, slot := none, placed := [], done := true, due := none }

/-- The answer to a read of the peer leaves for the first time. -/
def State.answerRead (s : State) (m : InMsg) (ws : List WirePacket) : State :=
  { s with fabric := { s.fabric with
      wire := s.fabric.wire ++ ws, inMsgs := s.fabric.inMsgs ++ [m], answers := s.fabric.answers ++ [⟨m.handle, m.num, ws, s.stamp, []⟩] } }

/-- An answer goes to the peer again, as it was (R366, R374). -/
def State.serveAgain (s : State) (c : Conn) (a : ReadAnswer) : State :=
  let s := s.setConn { c with resent := c.resent + a.packets.length }
  { s with fabric := { s.fabric with wire := s.fabric.wire ++ a.packets } }

/-- NET_READ_SERVE (R366): a peer's read is answered from the visible copy of the buffer that holds its range; with NOTPUB where the range lies
outside one published buffer or is not granted (R367); without NET, not at all (R360). A read that has been answered is answered as it was (R374). -/
def execNetReadServe (handle msg addr : Nat) (span : ReadSpan) (s : State) : Host.Outcome State Fault Refusal :=
  match s.conn? handle with
  | none => .next s
  | some c =>
    if c.failed || c.closing || !s.feature featNet || decide (2 ^ 30 < span.len) || !s.inOrder c msg then .next s
    else match s.fabric.answers.find? fun a => a.handle == handle && a.num == msg with
    | some a => .next (s.serveAgain c a)
    | none =>
      let r : PeerRead := ⟨msg, addr, span.len, span.dest⟩
      let m := InMsg.read handle r
      let (mapped, s) := s.rangeMapped c.ctx messagePages addr span.len
      if !mapped || (s.bufferHolding c.ctx addr span.len).isNone then .next (s.answerRead m [m.answer .read 1])
      else match s.answers c r (chunks (span.dest % 4) span.len) 0 with
        | (none, s) => .next s
        | (some ws, s) => .next (s.answerRead m ws)

/-! ## Completions (R367) -/

/-- The lanes of a completion beat, as the words of one element of a record window, or one word each of a doubleword window (R177). -/
def completionElems (v : Seq) (m : BitVec 3) (lanes : List Lane) : List (List Word) :=
  let f : SeqFill := { source := .engine, win := m, count := lanes.length, lanes := Vector.ofFn fun j : Fin 16 => lanes[j.val]?.getD 0 }
  f.elems (mdElem (v.desc m))

/-- Fill a completion into a window of a sequencer; none while it has no room. -/
def State.fillCompletion (s : State) (q : Nat) (m : BitVec 3) (lanes : List Lane) : Option State :=
  let v := s.seq q
  let es := completionElems v m lanes
  if !v.roomFor m es.length then none else some (s.setSeq q (v.appendAll m es))

/-- Where the last element of a completion will stand in a window, counted from its first element ever. -/
def Seq.recordPos (v : Seq) (m : BitVec 3) (lanes : List Lane) : Nat :=
  v.freed[m.toFin] + (v.win m).filled + ((completionElems v m lanes).length - 1)

/-- The receive record or remote completion of a message (R367). -/
def recordLanes (c : Conn) (m : InMsg) : List Lane :=
  [BitVec.ofNat 36 (at_ c.handle 8 16 + (if m.isSend then 1 else 2)), BitVec.ofNat 36 (at_ m.len 0 32),
   BitVec.ofNat 36 (at_ (m.slot.getD 0) 16 16 + at_ m.tag 0 16), BitVec.ofNat 36 (m.num % 2 ^ 36)]

/-- A message from the peer is done, and the peer is told; the messages that are done stand in the order in which they became so. -/
def State.endInMsg (s : State) (m : InMsg) : State :=
  (State.answerPeer { s with fabric := { s.fabric with
    inMsgs := (s.fabric.inMsgs.filter fun x => !(x.handle == m.handle && x.num == m.num)) ++ [{ m with done := true, due := none }] } } m m.op 0).freeHandles

/-- The held fills of a window of a region: their places in the order in which they fell due (R372). -/
def State.heldOf (s : State) (region rank : Nat) (win : BitVec 3) : List Nat :=
  (s.fabric.inMsgs.filterMap fun m => if m.done then none else match s.conn? m.handle with
      | some c => if c.region = region ∧ c.recvRank = rank ∧ c.recvWin = win then m.due else none
      | none => none)
    ++ s.fabric.msgs.filterMap fun m => if m.region = region ∧ m.crank = rank ∧ m.cwin = win then m.due else none

/-- It is a fill's turn: no fill of its window fell due before it while the region was away (R372). -/
def inTurn (held : List Nat) (due : Option Nat) : Bool := match due with | some d => held.all fun e => decide (d ≤ e) | none => held.isEmpty

/-- A record falls due while its region is away: it is held, as one of at most 256 fills. -/
def State.holdRecord (s : State) (m : InMsg) : State :=
  if m.due.isSome || decide (mostHeld ≤ s.heldFills m.handle) then s
  else
    let (d, s) := s.fresh
    { s with fabric := { s.fabric with inMsgs := s.fabric.inMsgs.map fun x => if x.handle = m.handle ∧ x.num = m.num then { x with due := some d } else x } }

/-- REMOTE_COMPLETION (R367): once every byte of a message has been placed, its record is filled, where it asks for one; or held (R372). Without NET the
engines answer nothing (R360). -/
def execRemoteCompletion (handle msg : Nat) (s : State) : Host.Outcome State Fault Refusal :=
  match s.conn? handle, s.fabric.inMsgs.find? fun m => m.handle == handle && m.num == msg with
  | some c, some m =>
    if !s.feature featNet || m.done || decide (placedBytes m.placed < m.len) || !s.inOrder c msg then .next s
    else if m.slot.isNone then .next (s.endInMsg m)
    else match s.receiver c with
      | .gone => .next (s.endInMsg m)
      | .away => .next (s.holdRecord m)
      | .at_ q =>
        if !inTurn (s.heldOf c.region c.recvRank c.recvWin) m.due then .next s
        else match s.fillCompletion q c.recvWin (recordLanes c m) with
          | some s' => .next (s'.endInMsg { m with pos := some ((s.seq q).recordPos c.recvWin (recordLanes c m)) })
          | none => .next s
  | _, _ => .next s

/-- A peer's answer may end a message: DONE once everything has been sent and, for a read, placed; NOTPUB of the peer's range; SEC under the
security sublayer (R367, R371). -/
def NetMsg.mayEnd (m : NetMsg) (c : Conn) (answer : Nat) : Bool :=
  m.allSent && ((answer == 0 && (m.op != .read || decide (m.len ≤ placedBytes m.placed))) || (answer == 1 && m.op != .send && m.placed.isEmpty) || (answer == 5 && c.tss))

/-- The status of a message that has one, or that the peer's answer gives it. -/
def State.statusWith (s : State) (m : NetMsg) (answer : Nat) : Option Nat :=
  m.status.orElse fun _ => match s.conn? m.handle with
    | some c => if s.connWorks c && m.mayEnd c answer then some answer else none
    | none => none

/-- A message ends: its completion is filled where CV asks for one and its window is there, is held while the region is away (R372), or waits. -/
def State.endMsg (s : State) (k : Nat) (m : NetMsg) (status : Nat) : State :=
  let gone (s : State) : State := State.freeHandles { s with fabric := { s.fabric with msgs := dropNth s.fabric.msgs k } }
  let kept (s : State) (due : Option Nat) : State := s.setMsg k { m with status := some status, due := due }
  if !m.cv then gone s
  else match s.windowHome m.region m.crank with
    | .gone => gone s
    | .away =>
      if m.due.isSome then s
      else if mostHeld ≤ s.heldFills m.handle then s
      else let (d, s) := s.fresh; kept s (some d)
    | .at_ q =>
      if !inTurn (s.heldOf m.region m.crank m.cwin) m.due then kept s m.due
      else match s.fillCompletion q m.cwin [BitVec.ofNat 36 (at_ m.handle 8 16 + at_ status 0 8), BitVec.ofNat 36 m.tag.toNat] with
        | some s => gone s
        | none => kept s m.due

/-- LOCAL_COMPLETION (R367): a message completes with the status it has, or with the peer's answer; under ROD not before the earlier messages of
its connection. -/
def execLocalCompletion (index answer : Nat) (s : State) : Host.Outcome State Fault Refusal :=
  match s.fabric.msgs[index]? with
  | none => .next s
  | some m =>
    let rod := match s.conn? m.handle with | some c => c.deliv == 1 | none => false
    if rod && (s.fabric.msgs.take index).any fun x => x.handle == m.handle && x.status.isNone then .next s
    else match s.statusWith m answer with
      | none => .next s
      | some st => .next (s.endMsg index m st)

/-! ## Acknowledgements, failures and links (R361, R371, R373) -/

/-- What an acknowledgement says goes into the congestion record, with the time stamp of its arrival (R373). -/
def Conn.hear (c : Conn) (a : NetAck) (now : Word) : Conn :=
  { c with record := some #v[a.window, a.credit, a.rtt, BitVec.ofNat 64 a.paths, now],
           marked := c.marked + b2n a.ecn, refused := c.refused + b2n a.refused }

/-- Connections fail, and their outstanding messages complete PEERGONE (R371). -/
def State.failConns (s : State) (p : Conn → Bool) : State :=
  State.freeHandles { s with fabric := { s.fabric with
      conns := s.fabric.conns.map fun c => if p c then { c with failed := true } else c
      msgs := s.fabric.msgs.map fun m =>
        if m.status.isNone && s.fabric.conns.any (fun c => c.handle == m.handle && p c) then { m with status := some 4 } else m
      answers := s.fabric.answers.filter fun a => !s.fabric.conns.any fun c => c.handle == a.handle && p c } }

/-- Connections whose every path is out of service fail (R361, R371). -/
def State.failPathless (s : State) : State := s.failConns s.fabric.pathless

/-- Packets that the peer acknowledges: of a message, or of an answer to it. -/
def State.acknowledge (s : State) (handle : Nat) (ack : NetAck) : State :=
  if ack.refused then s
  else if ack.answer then
    { s with fabric := { s.fabric with answers := s.fabric.answers.map fun (a : ReadAnswer) =>
        if a.handle = handle ∧ a.num = ack.msg ∧ !a.acked.contains ack.packet then { a with acked := a.acked ++ [ack.packet] } else a } }.freeHandles
  else match s.fabric.msgs.findIdx? fun m => m.handle == handle && m.num == ack.msg with
    | none => s
    | some k => match s.fabric.msgs[k]? with
      | some m =>
        if !(m.sent.any fun p => p.1 == ack.packet) || m.acked.contains ack.packet then s else s.setMsg k { m with acked := m.acked ++ [ack.packet] }
      | none => s

/-- ACK_RECEIVE (R373): an acknowledgement, or a refusal, of one packet arrives; one that leaves a connection no path fails it (R361). -/
def execAckReceive (handle : Nat) (ack : NetAck) (s : State) : Host.Outcome State Fault Refusal :=
  match s.conn? handle with
  | none => .next s
  | some c =>
    if !s.connWorks c then .next s
    else
      let c' := c.hear ack s.time
      let s := (s.setConn c').acknowledge handle ack
      .next (if s.fabric.pathless c' then s.failConns fun x => x.handle == handle else s)

/-- CONNECTION_FAIL (R371): the peer's endpoint is gone, or a packet has gone unacknowledged for 2^24 ns. -/
def execConnectionFail (failure : ConnFailure) (s : State) : Host.Outcome State Fault Refusal :=
  if failure.peerGone || s.overdue failure.handle then .next (s.failConns fun c => c.handle == failure.handle) else .next s

/-- Retries in a row of an Ethernet link. -/
def State.portRetries (s : State) (port : Nat) : Nat := match s.fabric.portFails.find? fun p => p.1 == port with | some p => p.2 | none => 0

/-- LINK_LEVEL_RETRY (R361): a frame that failed its check is replayed, which changes only timing: the replay gets through, which ends a row of
failures, or fails. With the 64th failure in a row the link goes out of service, which is the next move. -/
def execLinkLevelRetry (replay : FrameReplay) (s : State) : Host.Outcome State Fault Refusal :=
  let k := s.portRetries replay.port
  if s.fabric.deadPorts.contains replay.port.val || (replay.ok && decide (64 ≤ k)) then .next s
  else
    let others := s.fabric.portFails.filter fun p => p.1 != replay.port.val
    .next { s with
      agenda := if !replay.ok && decide (63 ≤ k) then (0, .event (.linkOutOfService replay.port)) :: s.agenda else s.agenda
      fabric := { s.fabric with portFails := if replay.ok then others else (replay.port.val, k + 1) :: others } }

/-- LINK_OUT_OF_SERVICE (R361, R355): a link whose retry has failed 64 times in a row; a connection that has no path left fails (R371). -/
def execLinkOutOfService (port : Fin 16) (s : State) : Host.Outcome State Fault Refusal :=
  if s.fabric.deadPorts.contains port.val || decide (s.portRetries port < 64) then .next s
  else
    let s := { s with fabric := { s.fabric with deadPorts := port.val :: s.fabric.deadPorts,
                                                portFails := s.fabric.portFails.filter fun p => p.1 != port.val } }
    .next (s.packageEventWhole 6 (some (BitVec.ofNat 64 port))).failPathless

end Sys2Proof.Machine
end

