-- ==== Sys2Proof/Machine/Mailbox.lean ====
section
/-! DEFINITION. The mailbox commands (18 R337, R338, R349, R359), and bring-up, power and links of the module (R334, R356, R358). -/

namespace Sys2Proof.Machine

/-! ## Contexts and queues (R338, R349) -/

/-- No TLB holds a translation of an earlier context of a number (R338). -/
def State.dropContext (s : State) (ctx : Nat) : State :=
  { s with tlbs := s.tlbs.map fun (k, l) => (k, l.filter fun e => e.ctx != ctx),
           dieTlbs := s.dieTlbs.map fun (k, l) => (k, l.filter fun e => e.ctx != ctx) }

/-- The domain mask of M3 to M6, bit 0 first. -/
def State.domainMask (s : State) : BitVec 256 :=
  let m := s.pkg.mailbox.m
  m[6] ++ m[5] ++ m[4] ++ m[3]

/-- A number that no context has. -/
def noContext : Nat := 256

/-- No exchange of copies that an earlier context of a number has left, and no handle of it, concerns the new one (R338, R363). -/
def State.dropHandles (s : State) (ctx : Nat) : State :=
  { s with fabric := { s.fabric with
      bufs := (s.fabric.bufs.filter fun (b : PubBuf) => b.bound || b.ctx != ctx).map fun (b : PubBuf) => if b.ctx = ctx then { b with ctx := noContext } else b
      conns := s.fabric.conns.map fun (c : Conn) => if c.ctx = ctx then { c with ctx := noContext } else c } }

/-- `CTX.CREATE`: a module with a FAIL code admits no context (R358). -/
def State.ctxCreate (s : State) : State :=
  let c := s.marg 1
  if 255 < c ∨ (s.ctx? c).isSome ∨ s.marg 2 % 2 ^ 20 ≠ 0 ∨ s.pkg.fail ≠ 0 then s.respond mbREFUSED
  else
    let s := (s.dropContext c).dropHandles c
    { s with pkg := { s.pkg with ctxs := s.pkg.ctxs ++ [(⟨c, s.marg 2, s.domainMask, none⟩ : Ctx)] } }.respond mbDONE

/-- CTX_CREATE (R338). -/
def execCtxCreate (s : State) : Host.Outcome State Fault Refusal := s.mailboxCommand (· == 1) State.ctxCreate

/-- `Q.CREATE`. The ring must lie in the floor. -/
def State.qCreate (s : State) : State :=
  let n := s.marg 1
  let ring := s.marg 4
  if 2048 ≤ n ∨ (s.queue n).state ≠ .closed ∨ (s.ctx? (s.marg 2)).isNone ∨ s.marg 3 = 0 ∨ 4096 < s.marg 3 ∨ ring % 64 ≠ 0
      ∨ paReserved ring ∨ paReserved (ring + 64 * s.marg 3 - 1) then s.respond mbREFUSED
  else (s.setQueue n { Queue.init with state := .open_, ctx := s.marg 2, cap := s.marg 3, ring := ring }).respond mbDONE

/-- Q_CREATE (R338). -/
def execQCreate (s : State) : Host.Outcome State Fault Refusal := s.mailboxCommand (· == 3) State.qCreate

/-- `Q.DESTROY` (R349): undispatched packets, and one whose copy has not been validated, finish QGONE; the queue reads closed when the last of the
others has ended. -/
def State.qDestroy (s : State) : State :=
  let n := s.marg 1
  if 2048 ≤ n ∨ (s.queue n).state ≠ .open_ then s.respond mbREFUSED
  else
    let s := s.flushQueue n 4
    ((s.setQueue n { s.queue n with state := .closing }).closeIfDone n).respond mbDONE

/-- Q_DESTROY (R349). -/
def execQDestroy (s : State) : Host.Outcome State Fault Refusal := s.mailboxCommand (· == 4) State.qDestroy

/-- Move the ring elements after place k down by one place, so that the rest of the queue stays in order. -/
def State.closeGap (s : State) (q : Queue) (k : Nat) : Nat → State
  | 0 => s
  | n + 1 => (s.putFloor (q.elemAddr k) (s.readBytes (q.elemAddr (k + 1)) 64)).closeGap q (k + 1) n

/-- A slot takes a queue in this cycle, which dispatches its oldest packet: the dispatcher takes the head of the line whenever a slot is free (R345). -/
def State.dispatchDue (s : State) (n : Nat) : Bool :=
  (s.pkg.line.take (512 - (s.pkg.slots.length + s.pkg.copies.length))).contains (.queue n)

/-- `CANCEL` (R349): a packet that has not been dispatched is removed. One that is dispatched in this cycle is: the dispatch comes first. -/
def State.cancel (s : State) : State :=
  let n := s.marg 1
  let seqno := s.marg 2
  let q := s.queue n
  match q.packets.findIdx? fun k => k == seqno with
  | some k =>
    if k = 0 ∧ s.dispatchDue n then s
    else
      let s := s.finishQueued n k seqno 2
      let s := s.closeGap q k (q.packets.length - 1 - k)
      ((s.setQueue n { q with packets := dropNth q.packets k }).leaveLine n).respond mbDONE
  | none =>
    let dispatched := (s.pkg.live.any fun p => p.queue == n && p.seqno == seqno) || s.pkg.copies.any fun c => c.queue == n && c.seqno == seqno
    s.respond (if dispatched then mbTOOLATE else mbNOTFOUND)

/-- CANCEL (R349). -/
def execCancel (s : State) : Host.Outcome State Fault Refusal := s.mailboxCommand (· == 5) State.cancel

/-! ## Stopping regions (R272, R349) -/

/-- A region begins to stop: its sequencers stop at their block boundaries, and blocks in issue are discarded (R272). -/
def State.stopRegion (s : State) (r : Region) : State :=
  r.seqs.foldl (fun s q => s.setSeq q { s.seq q with blk := none, frozen := true }) (s.setRegion { r with stopping := true })

/-- Take the candidates that pass a test out of their slots. -/
def State.dropCandidates (s : State) (p : Candidate → Bool) : State :=
  let gone := s.pkg.slots.filter p
  let s := { s with pkg := { s.pkg with slots := s.pkg.slots.filter fun c => !p c } }
  gone.foldl (fun s c => s.endReservation c.offer) s

/-- The context of a candidate. -/
def State.candidateCtx (s : State) (c : Candidate) : Nat :=
  match c.offer with
  | .packet q n _ => match s.pkg.live.find? fun p => p.queue == q && p.seqno == n with | some p => p.ctx | none => (s.queue q).ctx
  | .restore _ q _ => (s.queue q).ctx

/-- The running regions of a context. -/
def State.regionsOfCtx (s : State) (ctx : Nat) : List Region := s.regions.filter fun r => r.live && r.ctx == ctx

/-- Close the queues of a context: their packets finish CTXGONE (R349). -/
def State.closeQueues (s : State) (ctx : Nat) : State :=
  s.pkg.queues.foldl (fun s (n, q) =>
    if q.ctx = ctx ∧ q.state ≠ .closed then
      let s := s.flushQueue n 3
      s.setQueue n { s.queue n with state := .closed }
    else s) s

/-- Dispatched packets of a context: nothing more of them is admitted, what is saved in a grotto is gone, and they finish CTXGONE. -/
def State.losePackets (s : State) (ctx : Nat) : State :=
  let saved := s.regions.filter fun (r : Region) => r.ctx == ctx && r.ended == some 9
  let s := saved.foldl (fun s r => (s.setRegion { r with ended := some 3 }).releaseHandles r) s
  let running (p : LivePacket) : Nat := ((s.regionsOfCtx ctx).filter fun r => r.queue == p.queue && r.seqno == p.seqno).length
  let lost := s.pkg.live.filter fun (p : LivePacket) => p.ctx == ctx
  let s := { s with pkg := { s.pkg with live := s.pkg.live.map fun (p : LivePacket) =>
    if p.ctx = ctx then { p with toAdmit := 0, running := running p, status := 3, reason := 0 } else p } }
  lost.foldl (fun s (p : LivePacket) => s.finishPacket p.queue p.seqno) s

/-- A `launch` of a context has been answered in this cycle, whatever its status. A CTX.DESTROY does not reach the dispatcher after it in that cycle, so
of the two in one cycle the teardown comes first, and the `launch` returns CTXGONE (R248, R349, log 121). -/
def State.launchedNow (s : State) (ctx : Nat) : Bool := s.pkg.ctxs.any fun x => x.id == ctx && x.launched == some s.now

/-- `CTX.DESTROY` (R349): the response comes when every running region of the context has been released. -/
def State.ctxDestroy (s : State) : State :=
  let c := s.marg 1
  if (s.ctx? c).isNone then s.respond mbREFUSED
  else if s.launchedNow c then s
  else
    let s := s.dropCandidates fun x => s.candidateCtx x == c
    let s := { s with pkg := { s.pkg with
      line := s.pkg.line.filter (fun e => match e with | .restore _ q _ => (s.queue q).ctx != c | .queue _ => true),
      ctxs := s.pkg.ctxs.filter fun x => x.id != c } }
    let s := (s.closeQueues c).losePackets c
    let l := s.regionsOfCtx c
    let s := l.foldl State.stopRegion s
    if l.isEmpty then s.respond mbDONE
    else { s with pkg := { s.pkg with mailbox := { s.pkg.mailbox with running := some (.teardown c) } } }

/-- CTX_DESTROY (R349). -/
def execCtxDestroy (s : State) : Host.Outcome State Fault Refusal := s.mailboxCommand (· == 2) State.ctxDestroy

/-! ## Pre-emption and restore (R272, R280, R338, R352) -/

/-- Bytes of the grotto of a region of a size (R274). -/
def grottoSize (w h nseq : Nat) : Nat := 0x1000 + 0xA000 * nseq + 0x1C000 * (w * h)

/-- A grotto of n bytes lies in the floor. -/
def grottoFits (pa n : Nat) : Bool := !paReserved pa && !paReserved (pa + n - 1) && paDie pa == paDie (pa + n - 1)

/-- `PREEMPT`: the oldest running region of the packet is stopped; the response comes when its grotto is written. -/
def State.preempt (s : State) : State :=
  if !s.feature featPreempt then s.respond mbREFUSED
  else match s.regions.find? fun r =>
      r.live && r.queue == s.marg 1 && r.seqno == s.marg 2 && !r.stopping && !r.restoring && !(s.seq r.owner).doubleTrapped with
    | none => s.respond mbNOTFOUND
    | some r =>
      if !grottoFits (s.marg 3) (grottoSize r.w r.h r.nseq) then s.respond mbREFUSED
      else
        let s := s.stopRegion { r with grotto := some (s.marg 3) }
        { s with pkg := { s.pkg with mailbox := { s.pkg.mailbox with running := some (.preempt r.id) } } }

/-- PREEMPT (R338). -/
def execPreempt (s : State) : Host.Outcome State Fault Refusal := s.mailboxCommand (· == 6) State.preempt

/-- The header of a grotto names a region that this module can place (R274, R280). -/
def State.grottoOk (s : State) (pa : Nat) : Bool :=
  let g0 := s.readLE pa 8
  let g1 := s.readLE (pa + 8) 8
  let w := bitsOf g1 48 16
  let h := bitsOf g1 32 16
  let nseq := bitsOf g1 24 8
  !s.readBad pa 64 && bitsOf g0 32 32 == 0xC1E76B07 && bitsOf g1 0 8 == 1 && decide (1 ≤ w) && decide (w ≤ 256) && decide (1 ≤ h) && decide (h ≤ 256)
    && nseq == (w + 15) / 16 * ((h + 15) / 16) % 256 && grottoFits pa (grottoSize w h ((w + 15) / 16 * ((h + 15) / 16)))
    && decide (s.readLE (pa + 32) 8 + 2 ^ 64 * s.readLE (pa + 40) 8 = s.pkg.feata.toNat)

/-- `RESTORE`: the grotto joins the waiting line; one that cannot be restored is refused and reported (R280, R355). -/
def State.restore (s : State) : State :=
  let g := s.marg 1
  let q := s.marg 2
  if !s.feature featPreempt then s.respond mbREFUSED
  else if !s.grottoOk g then (s.packageEventFree (paDie g) 5).respond mbREFUSED
  else if 2048 ≤ q ∨ (s.queue q).state = .closed then s.respond mbREFUSED
  else
    let (k, s) := s.fresh
    { s with pkg := { s.pkg with line := s.pkg.line ++ [LineEntry.restore g q k] } }.respond mbDONE

/-- RESTORE (R338). -/
def execRestore (s : State) : Host.Outcome State Fault Refusal := s.mailboxCommand (· == 7) State.restore

/-! ## Attestation (R359) -/

/-- The 192 bytes that a quote signs. -/
def State.quoteBody (s : State) : List Byte :=
  ([1, 2, 3, 4] : List (Fin 8)).flatMap (fun k => leBytes 8 (s.marg k)) ++ leBytes 8 midWord.toNat ++ Config.firmwareHash.toList
    ++ Config.recordHash.toList ++ leBytes 16 s.pkg.feata.toNat ++ leBytes 8 s.brstat.toNat

/-- `QUOTE`. -/
def State.quote (s : State) : State :=
  let pa := s.marg 5
  if !s.feature featAttest ∨ !grottoFits pa 306 ∨ s.mergeBad pa 306 then s.respond mbREFUSED
  else (s.putFloor pa (s.quoteBody ++ (Config.quoteSignature s.quoteBody).toList)).respond mbDONE

/-- QUOTE (R359). -/
def execQuote (s : State) : Host.Outcome State Fault Refusal := s.mailboxCommand (· == 8) State.quote

/-- MAILBOX_UNKNOWN (R338). -/
def execMailboxUnknown (s : State) : Host.Outcome State Fault Refusal :=
  s.mailboxCommand (fun c => c == 0 || decide (8 < c)) fun s => s.respond mbREFUSED

/-! ## Bring-up and links (R334, R358) -/

/-- FAIL codes with which a step can fail (R358). -/
def failCodes : Nat → List Nat
  | 1 => [1]
  | 2 => [2, 3]
  | 3 => [4]
  | 4 => [5]
  | _ => []

/-- BRING_UP (R358): the next step of bring-up succeeds (0), or fails with a code. -/
def execBringUp (fail : BitVec 4) (s : State) : Host.Outcome State Fault Refusal :=
  let n := s.pkg.step.toNat + 1
  if s.pkg.fail ≠ 0 ∨ 6 < n then .next s
  else if fail = 0 then
    let p := { s.pkg with step := s.pkg.step + 1, ucieTrained := s.pkg.ucieTrained || n == 4 }
    .next (if n = 6 then { s with pkg := p, stamp := 0, stampFrac := 0 } else { s with pkg := p })
  else if (failCodes n).contains fail.toNat then .next { s with pkg := { s.pkg with step := s.pkg.step + 1, fail := fail } }
  else .next s

/-- UCIE_RETRAIN (R334): the host die trains the link again; a module that fails stays at the training step. -/
def execUcieRetrain (ok : Bool) (s : State) : Host.Outcome State Fault Refusal :=
  if s.pkg.step.toNat < 4 ∨ (s.pkg.fail ≠ 0 ∧ s.pkg.fail ≠ 5) then .next s
  else if ok then .next { s with pkg := { s.pkg with ucieTrained := true, fail := 0 } }
  else .next { s with pkg := { s.pkg with ucieTrained := false, fail := 5 } }

/-! ## Power and cooling (R356) -/

/-- A clock step is due no earlier than 1 ms after the last. -/
def State.clockMayStep (s : State) : Bool := match s.pkg.lastClockStep with | some t => decide (t + 1000000 ≤ s.stamp) | none => true

/-- A step of the clock to a level, reported to the host (R355). -/
def State.stepClock (s : State) (level : Nat) : State :=
  { s with pkg := { s.pkg with level := level, lastClockStep := some s.stamp }.rebudget }.packageEventWhole 4 none

/-- 5 °C in the units of TMAX (R336). -/
def fiveDegrees : Nat := 80

/-- CLOCK_STEP (R356): a step down while TMAX is over the thermal limit, and a step up once it is 5 °C below it. At the lowest level the lantern
budgets fall instead. -/
def execClockStep (up : Bool) (s : State) : Host.Outcome State Fault Refusal :=
  let p := s.pkg
  if up then
    if s.clockMayStep && decide (p.level < 16) && decide (p.tmax.toNat + fiveDegrees ≤ p.modrec.thermal.toNat) then .next (s.stepClock (p.level + 1)) else .next s
  else if p.modrec.thermal.toNat < p.tmax.toNat then
    if p.level ≤ 8 then .next { s with pkg := p.rebudget } else if s.clockMayStep then .next (s.stepClock (p.level - 1)) else .next s
  else .next s

/-- BANDWIDTH_DEGRADED (R356). -/
def execBandwidthDegraded (on : Bool) (s : State) : Host.Outcome State Fault Refusal := .next { s with pkg := { s.pkg with degbw := on } }

/-- HARD_LIMIT_STOP (R356): over the hard limit the module stops, and the host sees FAIL 4. -/
def execHardLimitStop (s : State) : Host.Outcome State Fault Refusal :=
  if s.pkg.overHard then .next { s with pkg := { s.pkg with stopped := true, fail := 4 } } else .next s

end Sys2Proof.Machine
end

