-- ==== Sys2Proof/Machine/Grotto.lean ====
section
/-! DEFINITION. Saving a region into its grotto (10 R273 to R279): the header, the sequencer records and the core records. -/

namespace Sys2Proof.Machine

/-! ## Laying out bytes -/

/-- Some sections at rising offsets, with zeros between them and up to a total. -/
def layout (total : Nat) : Nat → List (Nat × List Byte) → List Byte
  | cur, [] => List.replicate (total - cur) 0
  | cur, (off, l) :: rest => List.replicate (off - cur) 0 ++ l ++ layout total (off + l.length) rest

/-- Doublewords. -/
def dwords (l : List Nat) : List Byte := l.flatMap (leBytes 8)

/-- Lane words packed as LW36 (R157). -/
def lanes36 (l : List Lane) : List Byte := lw36Pack ((l.length + 7) / 8) l

/-- The seventeen lane words of a beat. -/
def Beat.words17 (b : Beat) : List Lane := b.lanes.toList ++ [b.control]

/-! ## Sequencer records (R273, R275) -/

/-- The values of the A and B registers of a withdrawn command: of a register write, those of its address and of its data register. -/
def cmdRegs (c : Cmd) : Nat × Nat :=
  match c.instr with
  | .st _ _ _ _ off _ => (((c.a.toNat : Int) - off.toInt * 8).emod (2 ^ 56) |>.toNat, c.d.toNat)
  | _ => (c.a.toNat, c.b.toNat)

/-- The 24 bytes of an item. -/
def itemWords (i : Outstanding) : List Nat :=
  match i with
  | .access a => [a.va, leValue a.data, a.code.toNat]
  | .coreCmd c => let (a, b) := cmdRegs c; [a, b, 2 ^ 63 + (codeOf c.instr).toNat]

def Outstanding.id : Outstanding → Nat
  | .access a => a.id
  | .coreCmd c => c.id

/-- The block that committed an item, by the count of blocks. -/
def Outstanding.tag : Outstanding → Nat
  | .access a => a.tag
  | .coreCmd c => c.tag

/-- The widest scope of the fences that still wait with identities from lo to below hi. -/
def fenceBetween (l : List Queued) (lo hi : Nat) : Option Nat :=
  (l.filterMap fun e => match e.eff with | .fence scope => if lo ≤ e.id ∧ e.id < hi then some scope else none | _ => none).max?

/-- The items of a sequencer that a save takes. -/
def Seq.savedItems (v : Seq) : List Outstanding := v.items.take 128

/-- The fences of a sequencer that still wait before its saved items and behind the last, and the blocks that committed the items: the record has no place
for them, and the module keeps them (log 118). -/
def Seq.keep (v : Seq) : KeptSeq :=
  let l := v.savedItems
  { fences := l.zipIdx.map fun (i, k) => fenceBetween v.suspended (if k = 0 then 0 else ((l[k - 1]?).map Outstanding.id).getD 0) i.id
    tags := l.map Outstanding.tag
    last := (v.suspended.filterMap fun e => match e.eff with
      | .fence scope => if l.all fun i => decide (i.id < e.id) then some scope else none
      | _ => none).max? }

def Seq.sstatWord (v : Seq) : Nat := at_ (b2n v.eie) 1 1 + b2n v.tl

/-- The flags at 0x0008. DEDUCED (log 151): a member that has taken a double trap counts as halted, so that after a restore it commits nothing further
either (R190). -/
def Seq.flagWord (v : Seq) (items : Nat) : Nat :=
  ((List.finRange 8).map fun k : Fin 8 => at_ (b2n (readPred v.preds (BitVec.ofNat 3 k))) k.val 1).sum + at_ (b2n v.pendVug.isSome) 8 1
    + at_ (b2n (v.halted || v.doubleTrapped)) 9 1 + at_ (b2n (items != 0)) 10 1 + at_ (b2n v.pendFloor.isSome) 11 1

/-- The sequencer record of 40 KiB. -/
def State.seqRecord (s : State) (q : Nat) : List Byte :=
  let v := s.seq q
  let items := v.savedItems
  layout 0xA000 0
    [(0x0000, dwords [v.pc.toNat, v.flagWord items.length, items.length]),
     (0x0040, dwords ((List.finRange 32).map fun k : Fin 32 => (readReg v.regs (BitVec.ofNat 5 k)).toNat)),
     (0x0140, dwords [v.sstatWord, v.tvec.toNat, v.epc.toNat, v.ecause.toNat, v.eaddr.toNat, v.swarn.toNat, v.wid.toNat, v.widf.toNat,
                      v.wake.toNat, v.evwin.toNat, v.echoi.toNat, v.blocks.toNat]),
     (0x01A0, dwords [(BitVec.ofNat 64 s.now - v.startCycle).toNat]),
     (0x01C0, dwords (v.mdesc.toList.map (·.toNat) ++ v.mstat.toList.map (·.seqWord.toNat))),
     (0x0240, dwords (items.flatMap itemWords)),
     (0x1000, dwords ((List.range 4096).map fun k => (v.loadLocal k).toNat)),
     (0x9000, dwords (v.events.flatMap fun e => e.toList.map (·.toNat))),
     (0x9800, dwords [at_ v.events.length 0 8 + at_ v.lost 8 8])]

/-! ## Edge slots (R273, R278) -/

/-- Element number k of a store or erase run has performed: it is visited, and no access that has not performed stands for it. -/
def EdgeSlot.performed (sl : EdgeSlot) (k : Nat) : Bool :=
  decide (k < sl.visited) && !sl.pending.any fun t => decide (t ≤ k) && decide (k < t + sl.unitSize t)

/-- A kind whose accesses are reissued from the earliest that has not performed. -/
def EdgeSlot.reissues (sl : EdgeSlot) : Bool := sl.storeKind || sl.kind == 7

/-- A token has been read, of the row at the cursor or of one behind it, and stands in IWIN still: it is taken again after a restore. -/
def EdgeSlot.heldToken (sl : EdgeSlot) : Bool :=
  sl.byToken && (sl.tokenAhead.isSome || (sl.token.isSome && decide (sl.tokensTaken ≤ sl.rowNow)))

/-- The doubleword at offset 96: ESTAT's fields, GRAPH, acquire taken, completion token pending, and, in the bits that R278 leaves unnamed, the rest
of what the run needs to go on (log 117); `swapping` says that a swap of the region is in progress. -/
def EdgeSlot.stateWord (sl : EdgeSlot) (swapping : Bool) : Nat :=
  let ends := if sl.reissues then sl.finished && decide (sl.earliestNumber = sl.visited) else sl.finished
  sl.state.code + at_ sl.kread 4 4 + at_ sl.graph.toNat 8 2 + at_ (b2n sl.acquireTaken) 10 1 + at_ (b2n sl.tokenPending) 11 1
    + at_ (match sl.runEnd with | .never => 0 | .done => 1 | .stopped => 2 | .faulted => 3) 12 2 + at_ (b2n sl.waitFlip) 14 1
    + at_ (b2n sl.tileOpen) 15 1 + at_ (b2n sl.permitTaken) 16 1 + at_ (b2n sl.firstTile) 17 1 + at_ (b2n sl.quantised) 18 1
    + at_ (b2n (sl.kind == 5 && sl.token.isSome)) 19 1 + at_ (b2n ends) 20 1 + at_ (b2n sl.closed) 21 1
    + at_ sl.rowTokens.length 22 5 + at_ sl.maxima.length 27 3 + at_ (b2n swapping) 30 1
    + at_ ((List.finRange 16).map fun k : Fin 16 => at_ (b2n (sl.partialExists[k] != 0)) k.val 1).sum 32 16
    + at_ sl.packBuf.length 48 5 + at_ sl.laneUsed 53 5 + at_ (sl.iLaneUsed - b2n sl.heldToken) 58 5

/-- Some lane words, with zeros up to n. -/
def padLanes (n : Nat) (l : List Lane) : List Lane := l ++ List.replicate (n - l.length) 0

/-- Codes, four to a lane word. -/
def packCodes : Nat → List Lane → List Lane
  | 0, _ => []
  | n + 1, l => BitVec.ofNat 36 (((l.take 4).zipIdx.map fun (c, j) => at_ c.toNat (8 * j) 8).sum) :: packCodes n (l.drop 4)

/-- The lane words at offset 128: the beat being assembled; for a run that reissues, in its lanes, the elements of a unit that have left WIN, and the
maxima and tokens of the blocks and rows that are not over. Behind its seventeen words, in what is left of the three LW36 groups, stand the tokens of
the rows of a gather that are not over, and the rank of the sequencer that bound the slot (log 117). -/
def EdgeSlot.beatWords (sl : EdgeSlot) (rank : Nat) : List Lane :=
  let room := sl.tokenRoom
  let beat : List Lane :=
    if !sl.reissues then sl.partialBeat.lanes.toList ++ [sl.partialBeat.control]
    else
      let head := if sl.bp then packCodes 8 sl.packBuf ++ padLanes 4 sl.maxima else padLanes (16 - room) sl.packBuf
      head ++ padLanes room sl.rowTokens ++ [0]
  let tokens := if sl.reissues then [] else sl.rowTokens
  beat ++ [tokens[0]?.getD 0, BitVec.ofNat 36 rank] ++ tokens.drop 1

/-- The cursor that is saved: the earliest access that has not performed (R273). -/
def EdgeSlot.savedCursor (sl : EdgeSlot) : Vector Nat 5 := if sl.reissues then sl.earliest else sl.cursor

/-- An edge slot entry of 256 bytes. -/
def EdgeSlot.record (sl : EdgeSlot) (rank : Nat) (swapping : Bool) : List Byte :=
  let cur := sl.savedCursor
  let first := sl.earliestNumber
  let count := if sl.reissues then sl.done else sl.elements
  let marks := if sl.reissues then ((List.range 64).map fun j => at_ (b2n (sl.performed (first + 1 + j))) j 1).sum else 0
  layout 256 0
    [(0, dwords (sl.pattern.toList.map (·.toNat))),
     (64, dwords (sl.format.toList.map (·.toNat))),
     (96, dwords [sl.stateWord swapping, at_ cur[0] 0 16 + at_ cur[1] 16 16 + at_ cur[2] 32 16 + at_ cur[3] 48 16, at_ cur[4] 0 16 + at_ count 16 48,
                  sl.tokensTaken]),
     (128, lanes36 (sl.beatWords rank)),
     (236, dwords [marks])]

/-! ## Dynamic state of slots (R279) -/

/-- A stage word is of an opcode. -/
def isJoinWord (w : Code) : Bool := (match decodeStage w with | .join _ => true | _ => false)

/-- The first doubleword of an input of a `join`. DESIGN CHOICE (log 125): a cursor or a high-water position above 32,767 is cut to the 15 bits of
R279. -/
def JoinInput.word (j : JoinInput) : Nat :=
  at_ j.cursor 0 15 + at_ j.highWater 16 15 + at_ j.markLane 32 4 + at_ j.ordinalBase 36 10 + at_ (b2n j.ended) 48 1
    + at_ (b2n j.lastKey.isSome) 49 1 + at_ (b2n j.groupOpen) 50 1 + at_ j.groupRank 52 2

/-- The 64 bytes of branch state of a stage. -/
def Branch.record (b : Branch) (w : Code) : List Byte :=
  if isJoinWord w then
    layout 64 0 [(0, dwords [b.left.word, (b.left.lastKey.getD 0).toNat, b.right.word, (b.right.lastKey.getD 0).toNat, at_ b.lastEnd 0 2])]
  else layout 64 0 [(0, dwords [at_ b.usedTrue 0 5 + at_ b.usedFalse 8 5])]

/-- The twelve words of a lane cell. DESIGN CHOICE (log 141): the term count k does not wrap, and its low 36 bits are saved. -/
def LaneCell.words (c : LaneCell) : List Lane :=
  let present := [c.s] ++ c.q.toList ++ c.node.toList
  let bits := (present.zipIdx.map fun (v, k) => at_ (b2n v.isSome) k 1).sum + at_ (b2n c.pair.isSome) 9 1
  let vals := present.map (·.getD 0)
  let vals := match c.pair with | some p => vals.set 5 p.1 | none => vals
  vals ++ [BitVec.ofNat 36 c.k, BitVec.ofNat 36 bits, match c.pair with | some p => p.2 | none => 0]

/-- A group state word. -/
def GroupState.word (g : GroupState) : Nat := b2n g.isOpen + at_ g.rank 1 2 + at_ (b2n g.reduced) 3 1

/-- The 900 bytes of an accumulator section. -/
def AccSection.record (a : AccSection) : List Byte :=
  let used := match a.used with | some (m, x) => m.toNat + at_ x.toNat 3 4 + 2 ^ 7 | none => 0
  lanes36 ((a.cells.toList.flatMap (·.words)) ++ [BitVec.ofNat 36 a.group.word, BitVec.ofNat 36 used] ++ List.replicate 6 0)

/-- The 6,144 bytes of a slot; the group that decides exits stands in bits 19:16 of the first doubleword, which R279 leaves unnamed. -/
def SlotDyn.record (d : SlotDyn) (h : HandlerRec) : List Byte :=
  layout 6144 0
    [(0, dwords [at_ d.iter 0 10 + at_ (b2n (h0Mask h)) 10 1 + at_ d.exitGroup.word 16 4]),
     (64, (List.finRange 6).flatMap fun k : Fin 6 => d.branches[k].record (stageWordOf h (k.val + 1))),
     (448, d.sections.toList.flatMap (·.record))]

/-! ## Core records (R276, R277) -/

/-- The core header. -/
def Core.header (c : Core) (r : Region) (n : Nat) : List Nat :=
  [at_ (coreX n - r.x) 56 8 + at_ (coreY n - r.y) 48 8 + at_ (b2n c.stop) 39 1 + at_ n 0 20,
   (c.openGraph.getD 0).toNat + at_ (b2n c.openGraph.isSome) 2 1 + ((c.lru.take 8).zipIdx.map fun (k, i) => at_ k.val (8 + 3 * i) 3).sum
     + at_ (b2n c.flipped) 32 1 + ((List.finRange 4).map fun j : Fin 4 => at_ (b2n c.swapPorts[j]) (33 + j.val) 1).sum,
   c.aflg.toNat, c.cwarn.toNat, c.rwarn.toNat, c.ewarn.toNat, at_ c.pipe.length 0 3 + at_ c.staging.length 8 8, 0]

/-- The two doublewords of a window's state. -/
def WinState.words (v : WinState) : List Nat :=
  let point (p : Option Nat) (b : Nat) : Nat := match p with | some k => at_ 1 b 1 + at_ k (b + 1) 11 | none => 0
  [at_ v.head 0 10 + at_ v.filled 10 11 + at_ v.debt 21 11 + point v.swapPoint 32 + point v.drainPoint 44, v.shrunk.toNat]

/-- A handler record in the form of an image (R228). -/
def recordBytes (h : HandlerRec) : List Byte := h.toList.flatMap fun w => leBytes 4 w.toNat

/-- A staging entry. -/
def Staged.record (x : Staged) : List Byte :=
  layout 128 0 [(0, dwords [2 ^ 63 + at_ x.sel.toNat 4 4 + x.link.toNat]), (8, lanes36 x.beat.words17)]

/-- A hold as three bits and a place. -/
def Hold.word : Option Hold → Nat
  | none => 0
  | some (.read w) => 1 + 8 * w.val
  | some (.room w) => 2 + 8 * w.val
  | some (.port j) => 3 + 8 * j.val
  | some .older => 4
  | some .stopped => 5

/-- A pipeline entry of 512 bytes; what R276 gives no place stands from byte 416 on: AFLG, CWARN, the values that are present, the deliveries made, the
hold, the exit, the shrinks and the fills. -/
def Firing.record (f : Firing) : List Byte :=
  let held := if f.hold.isSome then f.stage else 0
  let shrinks (l : List (Fin 16 × Nat)) : List Byte := (l.take 20).flatMap fun (w, n) => leBytes 2 (at_ n 0 11 + at_ w.val 12 4)
  layout 512 0
    [(0, dwords [2 ^ 63 + at_ f.slot.val 8 3 + at_ held 4 3 + at_ f.stage 0 4, f.iter]),
     (16, lanes36 ((f.vals.toList.take 5).flatMap fun v => (v.getD (Beat.blank 0 0)).words17)),
     (416, dwords [f.aflg.toNat, f.cwarn.toNat,
       ((f.vals.toList.take 5).zipIdx.map fun (v, k) => at_ (b2n v.isSome) k 1).sum + at_ f.sent 8 4 + at_ (Hold.word f.hold) 16 7
         + at_ (b2n f.exits) 24 1 + at_ (b2n f.setMask) 25 1 + at_ f.fixedShrinks.length 32 5 + at_ f.shrinks.length 40 5
         + at_ f.fills.length 48 4]),
     (440, shrinks f.fixedShrinks ++ shrinks f.shrinks ++ shrinks f.fills)]

/-- The window in whose filled elements a store word lies. -/
def Core.elementWin (c : Core) (a : Nat) : Option Win :=
  allWins.find? fun w =>
    let d := c.desc w
    wdBound d && (List.range (if wdParam d then wdPsize d else (c.win w).filled)).any fun i =>
      decide (c.elemAddr w i ≤ a) && decide (a < c.elemAddr w i + wdStep d)

/-- The store as it is saved: filled elements only, and an uncorrectable word as 0 (R120, R276). -/
def Core.storeLanes (c : Core) : List Lane :=
  (List.range 8192).map fun a => let x := c.loadWord a; if x != 0 && !c.badStore.contains a && (c.elementWin a).isSome then x else 0

/-- The store words of some that a save reads, with their windows. -/
def Core.savedOf (c : Core) (l : List Nat) : List (Nat × Win) := l.filterMap fun a => (c.elementWin a).map fun w => (a, w)

/-- The lowest of some store words. -/
def lowestWord : List (Nat × Win) → Option (Nat × Win)
  | [] => none
  | x :: rest => match lowestWord rest with | some y => if y.1 < x.1 then some y else some x | none => some x

/-- The errors that a save of a core meets (R120): single errors are corrected and counted, and the first uncorrectable word stops a core that runs. -/
def State.saveErrors (s : State) (n : Nat) : State :=
  let c := s.core n
  let soft := c.savedOf c.softStore
  let bad := if c.stop then none else lowestWord (c.savedOf c.badStore)
  let s := if soft.isEmpty then s else s.setCore n (c.correctStore soft)
  match bad with
  | some hit => s.storeFault n 0 0 hit
  | none => s

/-- The same for every core of a region. -/
def State.regionErrors (s : State) (r : Region) : State := r.cores.foldl State.saveErrors s

/-- The rank of a sequencer of the region. -/
def Region.rankOf (r : Region) (q : Nat) : Nat := (q % 256 / 16 - r.y / 16) * r.tilesX + (q % 16 - r.x / 16)

/-- The core record of 112 KiB. -/
def Core.record (c : Core) (r : Region) (n : Nat) : List Byte :=
  layout 0x1C000 0
    [(0x00000, dwords (c.header r n)),
     (0x00040, dwords (c.wdesc.toList.map (·.toNat))),
     (0x000C0, dwords (c.wstate.toList.flatMap (·.words))),
     (0x001C0, dwords ((c.kActive.toList ++ c.kShadow.toList).map (·.toNat))),
     (0x00240, c.active.toList.flatMap recordBytes),
     (0x003C0, c.shadow.toList.flatMap recordBytes),
     (0x00540, (c.switches.take 64).flatMap fun x => leBytes 2 x.toNat),
     (0x005C0, dwords (c.guards.toList.map (·.toNat))),
     (0x00600, (c.staging.take 128).flatMap (·.record)),
     (0x04600, (c.pipe.take 6).flatMap (·.record)),
     (0x05200, c.edge.toList.flatMap fun sl => sl.record (r.rankOf sl.binder) r.swap.isSome),
     (0x05600, (List.finRange 8).flatMap fun k : Fin 8 => c.dyn[k].record c.active[k]),
     (0x11600, lanes36 c.storeLanes)]

/-! ## The grotto (R274) -/

/-- The header G0 to G7. -/
def State.grottoHeader (s : State) (r : Region) (reason : Nat) : List Nat :=
  [at_ 0xC1E76B07 32 32 + at_ ((grottoSize r.w r.h r.nseq + 4095) / 4096) 0 32,
   at_ r.w 48 16 + at_ r.h 32 16 + at_ r.nseq 24 8 + at_ reason 16 8 + 1,
   at_ r.pool 32 32 + r.phase.toNat, (r.image.getD 0).toNat, bv s.pkg.feata 0 64, bv s.pkg.feata 64 64, s.time.toNat, 0]

/-- Where the records stand. -/
def seqRecordAt (pa rank : Nat) : Nat := pa + 0x1000 + 0xA000 * rank
def coreRecordAt (pa nseq w x y : Nat) : Nat := pa + 0x1000 + 0xA000 * nseq + 0x1C000 * (y * w + x)

/-- A core whose store runs have freed all that has performed. -/
def Core.freedCore (c : Core) : Core := (List.finRange 4).foldl Core.edgeFreeDone c

/-- Write a region into a grotto. -/
def State.saveRegion (s : State) (r : Region) (pa reason : Nat) : State :=
  let t := s.putFloor pa (layout 0x1000 0 [(0, dwords (s.grottoHeader r reason))])
  let t := (List.range r.nseq).foldl (fun t k => t.putFloor (seqRecordAt pa k) (s.seqRecord (r.seqOfRank k))) t
  r.cores.foldl (fun t n => t.putFloor (coreRecordAt pa r.nseq r.w (coreX n - r.x) (coreY n - r.y)) ((s.core n).freedCore.record r n)) t

end Sys2Proof.Machine
end

