-- ==== Sys2Proof/Machine/Restore.lean ====
section
/-! DEFINITION. Writing a grotto into a region that has been placed for it (10 R273 to R280), and removing DRAIN beats (10 R271). -/

namespace Sys2Proof.Machine

/-! ## Reading a record -/

/-- n lane words of LW36 bytes at an address. -/
def State.readLane (s : State) (pa k : Nat) : Lane := BitVec.ofNat 36 (s.readLE (pa + 36 * k / 8) 5 / 2 ^ (36 * k % 8))

def State.readLanes (s : State) (pa n : Nat) : List Lane := (List.range n).map (s.readLane pa)

/-- A beat of seventeen lane words, its control word as a restore reads it; and what that sets in CWARN. -/
def State.readBeat (s : State) (pa k : Nat) : Beat :=
  beatOf (Vector.ofFn fun l : Fin 16 => s.readLane pa (k + l)) (restoredControl (s.readLane pa (k + 16))).1
def State.beatWarn (s : State) (pa k : Nat) : Lane := (restoredControl (s.readLane pa (k + 16))).2

def State.rd (s : State) (pa : Nat) : Nat := s.readLE pa 8

/-! ## Sequencers (R273, R275) -/

/-- What the word of a saved access does: the operation, its size, acquire and release, and the register of its reply. A `cas` that was
saved has compared equal already, so it stores its new value. -/
def accessOfWord : Instr → Option (AccessOp × Nat × Bool × Bool × List Reg)
  | .st _ _ w _ _ _ => some (.store, 2 ^ w.toNat, false, false, [])
  | .verase _ _ _ => some (.erase, 1, false, false, [])
  | .amoAdd d _ _ f _ _ => some (.amo 0x16, if f.sz = 1 then 8 else 4, f.aq == 1, f.rl == 1, [d])
  | .amoAnd d _ _ f _ _ => some (.amo 0x17, if f.sz = 1 then 8 else 4, f.aq == 1, f.rl == 1, [d])
  | .amoOr d _ _ f _ _ => some (.amo 0x18, if f.sz = 1 then 8 else 4, f.aq == 1, f.rl == 1, [d])
  | .amoXor d _ _ f _ _ => some (.amo 0x19, if f.sz = 1 then 8 else 4, f.aq == 1, f.rl == 1, [d])
  | .amoMin d _ _ f _ _ => some (.amo 0x1A, if f.sz = 1 then 8 else 4, f.aq == 1, f.rl == 1, [d])
  | .amoMax d _ _ f _ _ => some (.amo 0x1B, if f.sz = 1 then 8 else 4, f.aq == 1, f.rl == 1, [d])
  | .amoMinu d _ _ f _ _ => some (.amo 0x1C, if f.sz = 1 then 8 else 4, f.aq == 1, f.rl == 1, [d])
  | .amoMaxu d _ _ f _ _ => some (.amo 0x1D, if f.sz = 1 then 8 else 4, f.aq == 1, f.rl == 1, [d])
  | .amoSwap d _ _ f _ _ => some (.amo 0x1E, if f.sz = 1 then 8 else 4, f.aq == 1, f.rl == 1, [d])
  | .cas d _ _ f _ _ => some (.amo 0x1E, if f.sz = 1 then 8 else 4, f.aq == 1, f.rl == 1, [d])
  | .taskDone d _ _ _ _ _ => some (.amo 0x16, 8, false, true, [d])
  | _ => none

/-- Where the word of a withdrawn command goes, with its registers and the register of its reply. -/
def commandOfWord (r : Region) (i : Instr) (a b : Nat) : Option (UnitId × Word × Word × Word × List Reg) :=
  let wa := BitVec.ofNat 64 a
  let wb := BitVec.ofNat 64 b
  let window (d : Reg) := (r.target (bv wa 0 8) (bv wa 8 8)).map fun n => (UnitId.core n, wa, wb, (0 : Word), [d])
  let stream (d : Reg) (t : BitVec 9) := (r.target (targetXY t wb).1 (targetXY t wb).2).map fun n => (UnitId.core n, wa, wb, (0 : Word), [d])
  let region (l : List Reg) := some (UnitId.region r.id, wa, (0 : Word), (0 : Word), l)
  match i with
  | .st _ _ _ _ off _ =>
    let va := (((a : Int) + off.toInt * 8).emod (2 ^ 56)).toNat
    (r.coreControl va).map fun (n, _) => (.core n, BitVec.ofNat 64 va, 0, wb, [])
  | .wrdCore d _ _ _ _ => window d
  | .wflCore d _ _ _ _ => window d
  | .wshrCore d _ _ _ _ => window d
  | .wstCore d _ _ _ _ => window d
  | .sbind d _ t _ _ => stream d t
  | .sgo d _ t _ _ => stream d t
  | .sstop d _ t _ _ => stream d t
  | .sbar d _ t _ _ => stream d t
  | .cfgLoad d _ _ _ => region [d]
  | .cfgShadow d _ _ _ => region [d]
  | .cfgSwap d _ _ _ => region [d]
  | .cfgDrain d _ _ _ => region [d]
  | .cfgPhase d _ _ _ => region [d]
  | .cfgSig d _ _ _ => region [d, d + 1]
  | _ => none

/-- One saved item becomes a commit effect again; none where its word or its address names nothing any more. -/
def State.reviveItem (s : State) (r : Region) (q tag : Nat) (w0 w1 w2 : Nat) : Option Queued × State :=
  match decodeSeq (BitVec.ofNat 32 w2) with
  | .error _ => (none, s)
  | .ok i =>
    let (id, s) := s.fresh
    if w2 < 2 ^ 63 then
      match accessOfWord i with
      | none => (none, s)
      | some (op, size, aq, rl, regs) =>
        match s.translate q r.ctx w0 false with
        | (.error _, s) => (none, s)
        | (.ok f, s) =>
          let a : Access := { id := id, source := .seq q, op := op, va := w0, place := f.place, size := size,
                              data := if op = .erase then [] else leBytes size w1, aq := aq, rl := rl, tag := tag, code := BitVec.ofNat 32 w2 }
          (some ⟨id, tag, .access a, regs⟩, s)
    else
      match commandOfWord r i w0 w1 with
      | none => (none, s)
      | some (unit, a, b, d, regs) =>
        let c : Cmd := { id := id, seq := q, unit := unit, instr := i, a := a, b := b, d := d, tag := tag, begun := false }
        (some ⟨id, tag, .cmd c unit .cmd, regs⟩, s)

/-- A fence that waited at the save, where there was one (log 118). -/
def State.reviveFence (s : State) (tag : Nat) : Option Nat → List Queued × State
  | some scope => let (id, s) := s.fresh; ([⟨id, tag, .fence scope, []⟩], s)
  | none => ([], s)

/-- The saved items of a record, in order, with the fences and the blocks that the module has kept; `tag` is the block of an item of which it has kept
none (log 118). -/
def State.reviveItems (s : State) (r : Region) (kept : KeptSeq) (q tag pa : Nat) : Nat → State × List Queued
  | 0 => (s, [])
  | n + 1 =>
    let (s, l) := s.reviveItems r kept q tag pa n
    let p := pa + 0x240 + 24 * n
    let tag := kept.tags[n]?.getD tag
    let (f, s) := s.reviveFence tag (kept.fences[n]?).join
    let (x, s) := s.reviveItem r q tag (s.rd p) (s.rd (p + 8)) (s.rd (p + 16))
    (s, l ++ f ++ x.toList)

/-- A window state as MSTAT gives it. -/
def seqWinOf (w : Nat) : WinState := { WinState.init with head := bitsOf w 0 12, filled := bitsOf w 16 13, debt := bitsOf w 32 13 }

/-- Local memory as a record holds it. -/
def State.readLocal (s : State) (pa : Nat) : List (Nat × Word) :=
  (List.range 4096).filterMap fun k => let x := s.readWord (pa + 8 * k); if x = 0 then none else some (k, x)

/-- The sequencer of a record, without its items. What a pending asynchronous trap reports as its address is not saved: a free value. -/
def State.seqOfRecord (s : State) (r : Region) (rank pa : Nat) : Seq :=
  let w (off : Nat) : Word := s.readWord (pa + off)
  let flags := s.rd (pa + 8)
  let sstat := s.rd (pa + 0x140)
  let counts := s.rd (pa + 0x9800)
  { Seq.init with
    pc := (w 0).setWidth 56
    regs := Vector.ofFn fun k : Fin 32 => w (0x40 + 8 * k)
    preds := Vector.ofFn fun k : Fin 8 => flags.testBit k
    mem := s.readLocal (pa + 0x1000)
    eie := sstat.testBit 1, tl := sstat.testBit 0
    tvec := w 0x148 &&& tvecBits, epc := w 0x150, ecause := w 0x158 &&& ecauseBits, eaddr := w 0x160, swarn := w 0x168 &&& swarnBits, wid := w 0x170
    widf := widfStored (w 0x178), wake := w 0x180 &&& 0xFF, evwin := w 0x188 &&& 7, echoi := w 0x190, blocks := w 0x198
    startCycle := BitVec.ofNat 64 s.now - w 0x1A0
    mdesc := Vector.ofFn fun k : Fin 8 => mdescStored (w (0x1C0 + 8 * k))
    mstat := Vector.ofFn fun k : Fin 8 => seqWinOf (s.rd (pa + 0x200 + 8 * k))
    pendVug := if flags.testBit 8 then some (Config.freeWord s.frees) else none
    pendFloor := if flags.testBit 11 then some (Config.freeWord (s.frees + 1)) else none
    halted := flags.testBit 9
    events := (List.range (min (bitsOf counts 0 8) 64)).map fun k => Vector.ofFn fun j : Fin 4 => w (0x9000 + 32 * k + 8 * j)
    lost := bitsOf counts 8 8
    region := some r.id, rank := rank }

/-- The messages of a rank of a region stand again behind the items that they came after (R220, R273). -/
def State.placeMessages (s : State) (r : Region) (rank : Nat) (items : List Outstanding) : State :=
  { s with fabric := { s.fabric with msgs := s.fabric.msgs.map fun m =>
      if m.region = r.id ∧ m.rank = rank then { m with cmd := (items[m.behind]?.map Outstanding.id).getD s.nextId, behind := 0 } else m } }

/-- Write one sequencer record: its items are sent again before its first block (R273). -/
def State.restoreSeq (s : State) (r : Region) (pa rank : Nat) : State :=
  let q := r.seqOfRank rank
  let p := seqRecordAt pa rank
  let v := s.seqOfRecord r rank p
  let tag := v.blocks.toNat - 1
  let kept := r.kept[rank]?.getD ⟨[], [], none⟩
  let (s, l) := { s with frees := s.frees + 2 }.reviveItems r kept q tag p (min (bitsOf (s.rd (p + 16)) 0 8) 128)
  let (f, s) := s.reviveFence tag kept.last
  ((s.placeMessages r rank (newItems l)).setSeq q
    { v with suspended := l ++ f, resent := s.nextId, items := newItems l, awaits := newAwaits l }).sendEffects q

/-! ## Edge slots (R273, R278) -/

def stateOfCode : Nat → StreamState
  | 0 => .idle
  | 1 => .bound
  | 2 => .running
  | 3 => .waitAcquire
  | 4 => .waitPermit
  | 5 => .running
  | _ => .faulted

/-- The slot of an entry: the run goes on at its cursor, with fresh translations (R280). -/
def State.slotOfRecord (s : State) (r : Region) (pa : Nat) : EdgeSlot :=
  let w (off : Nat) : Word := s.readWord (pa + off)
  let st := s.rd (pa + 96)
  let c := s.rd (pa + 104)
  let e := s.rd (pa + 112)
  let lane (k : Nat) : Lane := s.readLane (pa + 128) k
  let sl : EdgeSlot :=
    { EdgeSlot.init with
      pattern := Vector.ofFn fun k : Fin 8 => w (8 * k), format := Vector.ofFn fun k : Fin 4 => w (64 + 8 * k)
      graph := BitVec.ofNat 2 (bitsOf st 8 2), state := stateOfCode (bitsOf st 0 3), kread := bitsOf st 4 4
      binder := r.seqOfRank (bv (lane 18) 0 8)
      runEnd := (match bitsOf st 12 2 with | 0 => .never | 1 => .done | 2 => .stopped | _ => .faulted)
      cursor := ⟨#[bitsOf c 0 16, bitsOf c 16 16, bitsOf c 32 16, bitsOf c 48 16, bitsOf e 0 16], rfl⟩
      finished := st.testBit 20, elements := bitsOf e 16 48, tokensTaken := s.rd (pa + 120), token := if st.testBit 19 then some 0 else none
      acquireTaken := st.testBit 10, tileOpen := st.testBit 15, permitTaken := st.testBit 16, firstTile := st.testBit 17
      quantised := st.testBit 18, waitFlip := st.testBit 14, laneUsed := bitsOf st 53 5, iLaneUsed := bitsOf st 58 5 }
  let tokens := bitsOf st 22 5
  if sl.reissues then
    let n := bitsOf st 48 5
    let first := if sl.finished then sl.total else sl.number sl.cursor
    let room := sl.tokenRoom
    let maxima := bitsOf st 27 3
    { sl with
      packBuf := (List.range n).map fun k => if sl.bp then BitVec.ofNat 36 (bv (lane (k / 4)) (8 * (k % 4)) 8) else lane k
      cursor := sl.cursor.set 0 (sl.cursor[0] + n), freed := first + n
      rowTokens := (List.range (min tokens room)).map fun k => lane (16 - room + k)
      maxima := (List.range (min maxima maximaRoom)).map fun k => lane (8 + k)
      maximaTaken := if sl.bp then sl.blockNumber first + min maxima maximaRoom else 0
      passed := (List.range 64).filterMap fun j => if (s.rd (pa + 236)).testBit j then some (first + 1 + j) else none }
  else
    { sl with partialBeat := s.readBeat (pa + 128) 0, closed := st.testBit 21, rowTokens := (List.range (min tokens 6)).map fun k => lane (if k = 0 then 17 else 18 + k),
              partialExists := Vector.ofFn fun k : Fin 16 => laneOfBool (st.testBit (32 + k)) }

/-- What the beat of an entry sets in CWARN: only a run that assembles one has one. -/
def State.slotWarn (s : State) (pa : Nat) (sl : EdgeSlot) : Lane := if sl.reissues then 0 else s.beatWarn (pa + 128) 0

/-! ## Dynamic state (R279) -/

/-- The input of a `join`. -/
def joinInputOf (w key : Nat) : JoinInput :=
  { cursor := bitsOf w 0 15, highWater := bitsOf w 16 15, markLane := bitsOf w 32 4, ordinalBase := bitsOf w 36 10, ended := w.testBit 48,
    lastKey := if w.testBit 49 then some (BitVec.ofNat 36 key) else none, groupOpen := w.testBit 50, groupRank := bitsOf w 52 2 }

def State.branchOfRecord (s : State) (pa : Nat) (w : Code) : Branch :=
  let d (k : Nat) : Nat := s.rd (pa + 8 * k)
  if isJoinWord w then
    { Branch.init with left := joinInputOf (d 0) (d 1), right := joinInputOf (d 2) (d 3), lastEnd := bitsOf (d 4) 0 2 }
  else { Branch.init with usedTrue := bitsOf (d 0) 0 5, usedFalse := bitsOf (d 0) 8 5 }

def groupOf (w : Nat) : GroupState := ⟨w.testBit 0, bitsOf w 1 2, w.testBit 3⟩

/-- The lane cell at lane word k of a section. -/
def State.cellOf (s : State) (pa k : Nat) : LaneCell :=
  let w (j : Nat) : Lane := s.readLane pa (k + j)
  let bits := (w 10).toNat
  let opt (j : Nat) : Option Lane := if bits.testBit j then some (w j) else none
  { s := opt 0, q := Vector.ofFn fun j : Fin 4 => opt (1 + j), node := Vector.ofFn fun j : Fin 4 => opt (5 + j),
    pair := if bits.testBit 9 then some (w 5, w 11) else none, k := (w 9).toNat }

def State.sectionOf (s : State) (pa : Nat) : AccSection :=
  let used := (s.readLane pa 193).toNat
  { cells := Vector.ofFn fun l : Fin 16 => s.cellOf pa (12 * l), group := groupOf (s.readLane pa 192).toNat,
    used := if used.testBit 7 then some (BitVec.ofNat 3 used, BitVec.ofNat 4 (used / 8)) else none }

def State.dynOf (s : State) (pa : Nat) (h : HandlerRec) : SlotDyn :=
  let w := s.rd pa
  { iter := bitsOf w 0 10, exitGroup := groupOf (bitsOf w 16 4),
    sections := Vector.ofFn fun k : Fin 6 => s.sectionOf (pa + 448 + 900 * k),
    branches := Vector.ofFn fun k : Fin 6 => s.branchOfRecord (pa + 64 + 64 * k) (stageWordOf h (k + 1)) }

/-! ## Cores (R276, R277) -/

def State.recordOf (s : State) (pa : Nat) : HandlerRec := Vector.ofFn fun k : Fin 12 => BitVec.ofNat 32 (s.readLE (pa + 4 * k) 4)

def State.winOf (s : State) (pa : Nat) : WinState :=
  let w := s.rd pa
  { head := bitsOf w 0 10, filled := bitsOf w 10 11, debt := bitsOf w 21 11, shrunk := BitVec.ofNat 36 (s.rd (pa + 8)),
    swapPoint := if w.testBit 32 then some (bitsOf w 33 11) else none, drainPoint := if w.testBit 44 then some (bitsOf w 45 11) else none }

def holdOf (w : Nat) : Option Hold :=
  match w % 8 with
  | 1 => some (.read (Fin.ofNat 16 (w / 8)))
  | 2 => some (.room (Fin.ofNat 16 (w / 8)))
  | 3 => some (.port (Fin.ofNat 4 (w / 8)))
  | 4 => some .older
  | 5 => some .stopped
  | _ => none

/-- The firing of a pipeline entry. -/
def State.firingOf (s : State) (pa : Nat) : Firing :=
  let t := s.rd pa
  let x := s.rd (pa + 432)
  let shrinks (k n : Nat) : List (Fin 16 × Nat) := (List.range n).map fun j =>
    let w := s.readLE (pa + 440 + 2 * (k + j)) 2
    (Fin.ofNat 16 (bitsOf w 12 4), bitsOf w 0 11)
  let nf := min (bitsOf x 32 5) 20
  let ns := min (bitsOf x 40 5) 20
  { slot := Fin.ofNat 8 (bitsOf t 8 3), iter := s.rd (pa + 8), stage := bitsOf t 0 4, sent := bitsOf x 8 4,
    vals := Vector.ofFn fun k : Fin 6 => if k.val < 5 ∧ x.testBit k then some (s.readBeat (pa + 16) (17 * k)) else none,
    fixedShrinks := shrinks 0 nf, shrinks := shrinks nf ns, fills := shrinks (nf + ns) (min (bitsOf x 48 4) 12), aflg := BitVec.ofNat 36 (s.rd (pa + 416)) &&& aflgBits,
    cwarn := BitVec.ofNat 36 (s.rd (pa + 424)) &&& cwarnBits, exits := x.testBit 24, setMask := x.testBit 25,
    hold := if bitsOf t 4 3 = 0 then none else some ((holdOf (bitsOf x 16 7)).getD .older) }

/-- The switch words, up to the last that is not 0. -/
def State.switchesOf (s : State) (pa : Nat) : List (BitVec 16) :=
  (((List.range 64).map fun k => BitVec.ofNat 16 (s.readLE (pa + 2 * k) 2)).reverse.dropWhile (· == 0)).reverse

/-- What the values of a pipeline entry set in CWARN. -/
def State.firingWarn (s : State) (pa : Nat) : Lane :=
  ((List.range 5).filter fun k => (s.rd (pa + 432)).testBit k).foldl (fun w k => w ||| s.beatWarn (pa + 16) (17 * k)) 0

/-- The control words of the filled elements of a window are as a restore reads them, with what that sets in CWARN (R27, R29, R32). -/
def Core.restoreControls (c : Core) (w : Win) : Core :=
  let d := c.desc w
  if wdBound d && wdBeat d then
    (List.range (if wdParam d then wdPsize d else (c.win w).filled)).foldl (fun c i =>
      let a := c.elemAddr w i + 16
      let x := restoredControl (c.loadWord a)
      { c.storeWord a x.1 with cwarn := c.cwarn ||| x.2 }) c
  else c

/-- Store words that are not 0. -/
def State.storeOf (s : State) (pa : Nat) : List (Nat × Lane) :=
  (List.range 8192).filterMap fun a => let x := s.readLane pa a; if x = 0 then none else some (a, x)

/-- Entries of 128 and 512 bytes whose tag is valid. -/
def State.validEntries (s : State) (pa size n : Nat) : List Nat :=
  ((List.range n).map fun k => pa + size * k).filter fun p => (s.rd p).testBit 63

/-- The core of a record, over what the admission left. A pipeline that holds a heavy firing is lit (R92). -/
def State.coreOfRecord (s : State) (r : Region) (pa : Nat) (c : Core) : Core :=
  let h0 := s.rd pa
  let h1 := s.rd (pa + 8)
  let lane (off : Nat) : Lane := BitVec.ofNat 36 (s.rd (pa + off))
  let active : Vector HandlerRec 8 := Vector.ofFn fun k : Fin 8 => s.recordOf (pa + 0x240 + 48 * k)
  let staged := s.validEntries (pa + 0x600) 128 128
  let fired := s.validEntries (pa + 0x4600) 512 6
  let pipe := fired.map s.firingOf
  let edge : Vector EdgeSlot 4 := Vector.ofFn fun e : Fin 4 => s.slotOfRecord r (pa + 0x5200 + 256 * e)
  let warn := (staged.map fun p => s.beatWarn (p + 8) 0) ++ fired.map s.firingWarn
    ++ (List.finRange 4).map fun e : Fin 4 => s.slotWarn (pa + 0x5200 + 256 * e) edge[e]
  let c := { c with
    store := s.storeOf (pa + 0x11600)
    wdesc := Vector.ofFn fun k : Fin 16 => s.readWord (pa + 0x40 + 8 * k) &&& wdescBits
    wstate := Vector.ofFn fun k : Fin 16 => s.winOf (pa + 0xC0 + 16 * k)
    kActive := Vector.ofFn fun k : Fin 8 => lane (0x1C0 + 8 * k)
    kShadow := Vector.ofFn fun k : Fin 8 => lane (0x200 + 8 * k)
    active := active
    shadow := Vector.ofFn fun k : Fin 8 => s.recordOf (pa + 0x3C0 + 48 * k)
    dyn := Vector.ofFn fun k : Fin 8 => s.dynOf (pa + 0x5600 + 6144 * k) active[k]
    switches := s.switchesOf (pa + 0x540)
    staging := staged.map fun p => ⟨BitVec.ofNat 4 (bitsOf (s.rd p) 4 4), BitVec.ofNat 4 (bitsOf (s.rd p) 0 4), s.readBeat (p + 8) 0⟩
    pipe := pipe
    openGraph := if h1.testBit 2 then some (BitVec.ofNat 2 (bitsOf h1 0 2)) else none
    lru := (List.range 8).map fun i => Fin.ofNat 8 (bitsOf h1 (8 + 3 * i) 3)
    aflg := lane 16 &&& aflgBits, cwarn := warn.foldl (· ||| ·) (lane 24 &&& cwarnBits), rwarn := lane 32 &&& rwarnBits
    ewarn := lane 40 &&& ewarnBits
    guards := Vector.ofFn fun k : Fin 4 => lane (0x5C0 + 8 * k) &&& 0xFFFFFFFF0
    stop := h0.testBit 39, stopAddr := if h0.testBit 39 then 8192 else 0
    flipped := h1.testBit 32
    swapPorts := Vector.ofFn fun j : Fin 4 => h1.testBit (33 + j)
    edge := edge
    lit := pipe.any fun f => heavyRec active[f.slot] }
  allWins.foldl Core.restoreControls c

/-! ## Thaw (R271) -/

/-- The store words of some elements, as they stand, with the marks of their errors. -/
structure StoreCopy where
  word : Lane
  soft : Bool
  bad : Bool
  deriving DecidableEq, Repr

/-- A copy of the n store words from an address on. -/
def Core.copyWords (c : Core) (a n : Nat) : List StoreCopy :=
  (List.range n).map fun k => ⟨c.loadWord (a + k), c.softStore.contains (a + k), c.badStore.contains (a + k)⟩

/-- Copied words stand from an address on, with the errors that they had (R120). -/
def Core.putWords (c : Core) (a : Nat) : List StoreCopy → Core
  | [] => c
  | x :: xs =>
    let c := c.storeWord a x.word
    Core.putWords { c with softStore := if x.soft then a :: c.softStore else c.softStore, badStore := if x.bad then a :: c.badStore else c.badStore }
      (a + 1) xs

/-- The DRAIN beats of a window are removed, and its drain point; elements behind one move up as they stand. -/
def Core.dropDrain (c : Core) (w : Win) : Core :=
  let st := c.win w
  if !c.ordinary w then c
  else if wdBeat (c.desc w) then
    let kept := ((List.range st.filled).map (c.elemAddr w)).filter fun a => (c.beatAt a).mark != markDRAIN
    if kept.length = st.filled then c
    else
      let copies := kept.map fun a => c.copyWords a 17
      (copies.zipIdx.foldl (fun c (l, i) => c.putWords (c.elemAddr w i) l) c).setWin w { st with filled := kept.length }
  else c.setWin w { st with drainPoint := none }

/-- A core thaws: its DRAINs go, and its stopped runs resume from their cursors. -/
def Core.thaw (c : Core) : Core :=
  let c := allWins.foldl Core.dropDrain c
  { c with edge := c.edge.map fun sl => { sl with parked := false } }

/-! ## The region (R280) -/

/-- A swap stands in progress in a grotto: windows of a core that has not flipped still await their SWAP (R272). -/
def Core.resumeSwap (c : Core) : Core :=
  if c.flipped then c
  else { c with swapDue := c.swapWins.filter fun w =>
    !(if wdBeat (c.desc w) then (List.range (c.win w).filled).any fun i => (c.beatAt (c.elemAddr w i)).mark == markSWAP
      else (c.win w).swapPoint.isSome) }

/-- Write the core records. -/
def State.restoreCores (s : State) (r : Region) (pa : Nat) : State :=
  r.cores.foldl (fun t n =>
    t.setCore n (s.coreOfRecord r (coreRecordAt pa r.nseq r.w (coreX n - r.x) (coreY n - r.y)) (t.core n)).thaw) s

/-- The grotto was saved while a swap was in progress: it says so (log 117), or a core had flipped. -/
def State.savedSwap (s : State) (r : Region) (pa : Nat) : Bool :=
  (s.rd (coreRecordAt pa r.nseq r.w 0 0 + 0x5200 + 96)).testBit 30 || r.cores.any fun n => (s.core n).flipped

/-- A region is written from a grotto, and thaws: its pool stands as its admission left it. A swap goes on, under an identity of its own. -/
def State.writeRegion (s : State) (r : Region) (pa : Nat) : State :=
  let g2 := s.rd (pa + 16)
  let image := s.readWord (pa + 24)
  let s := s.restoreCores r pa
  let (swap, s) := if s.savedSwap r pa then let (id, s) := s.fresh; (some (id, r.owner), s.onCores Core.resumeSwap r.cores) else (none, s)
  let s := (List.range r.nseq).foldl (fun s k => s.restoreSeq r pa k) s
  s.setRegion { r with
    phase := BitVec.ofNat 32 (bitsOf g2 0 32), image := if image = 0 then none else some image, frozen := false, restoring := false, grotto := none,
    swap := swap, kept := [] }

/-- REGION_RESTORE (R280): the grotto is written into the region that its arbiter has placed for it. -/
def execRegionRestore (region : Nat) (s : State) : Host.Outcome State Fault Refusal :=
  match s.region? region with
  | none => .next s
  | some r =>
    match r.restoring, r.grotto with
    | true, some pa => .next (s.writeRegion r pa)
    | _, _ => .next s

end Sys2Proof.Machine
end

