-- ==== Sys2Proof/Machine/Freeze.lean ====
section
/-! DEFINITION. The end of a region (10 R259), the withhold limit with the drain to a checkpoint and the thaw (R269 to R271), and the freeze for a
pre-emption, a teardown or an owner's double trap (R272, R273; 18 R343, R349). -/

namespace Sys2Proof.Machine

/-! ## A region leaves (R343, R350, R363) -/

/-- A mailbox command that waited for this has its response (R338, R349). -/
def State.endMailbox (s : State) (r : Region) : State :=
  match s.pkg.mailbox.running with
  | some (.preempt id) => if id = r.id then s.respond mbDONE else s
  | some (.teardown c) => if (s.regionsOfCtx c).isEmpty then s.respond mbDONE else s
  | none => s

/-- A region of a die has ended: an arbitration round of the die follows (R346). -/
def State.dieFreed (s : State) (r : Region) : State :=
  { s with pkg := { s.pkg with regionEnds := (s.now, Fin.ofNat 16 r.die) :: s.pkg.regionEnds.filter fun p => p.1 == s.now } }

/-- One instance of a packet has left. -/
def State.instanceGone (s : State) (r : Region) : State :=
  (s.onPacket r.queue r.seqno fun p => { p with running := p.running - 1 }).finishPacket r.queue r.seqno

/-- Every sequencer of the region has halted or double-trapped as a member, and nothing of it is under way (R259). -/
def State.quiet (s : State) (r : Region) : Bool :=
  r.seqs.all fun q =>
    let v := s.seq q
    v.halted && v.blk.isNone && v.outbox.isEmpty && v.suspended.isEmpty && v.awaits.isEmpty && !s.commandsOf q fun _ => true

/-- An access of the region's sequencers or edge units. -/
def Region.owns (r : Region) (a : Access) : Bool :=
  match a.source with
  | .edge n _ => r.holds n
  | .seq q => r.seqs.contains q
  | _ => false

/-- A packet of the region: it brings or answers an access of it, or goes to a sequencer of it. -/
def Region.ownsPacket (r : Region) (p : Packet) : Bool :=
  (p.access?.any r.owns) || match p.dst with | .seq q => r.seqs.contains q | _ => false

/-- A reader of a region. -/
def State.readerOf (s : State) (r : Region) : Reader → Bool
  | .block q _ => r.seqs.contains q
  | .run n _ => r.holds n
  | .cmd id => match s.cmdById id with | some (_, c) => r.seqs.contains c.seq | none => true

/-- Nothing of a region is on its way, stands at a controller or waits to be taken any more (R259, R396). -/
def State.dropTraffic (s : State) (r : Region) : State :=
  let s := { s with
    net := s.net.filter fun p => !r.ownsPacket p
    atSlice := s.atSlice.filter fun a => !r.owns a
    withheld := s.withheld.filter fun a => !r.owns a
    probes := s.probes.filter fun p => !r.holds p.origin
    parts := s.parts.filter fun p => !s.readerOf r p.reader }
  r.seqs.foldl (fun s q => s.setSeq q { s.seq q with arrivedRecords := [], arrivedFills := [], arrivedReplies := [], arrivedTakes := [] }) s

/-- REGION_END (R259): from then on nothing of the region moves or performs. -/
def execRegionEnd (region : Nat) (s : State) : Host.Outcome State Fault Refusal :=
  match s.region? region with
  | none => .next s
  | some r =>
    if r.stopping || r.frozen || !s.quiet r || !s.still r then .next s
    else
      let s := (s.dropTraffic r).setRegion { r with ended := some 0 }
      let s := r.seqs.foldl (fun s q => s.setSeq q { s.seq q with region := none }) s
      .next ((((s.releaseHandles r).instanceGone r).dieFreed r).endMailbox r)

/-! ## The withhold limit (R269) -/

/-- ECHOI of the owner. -/
def State.echoi (s : State) (r : Region) : Nat := (s.seq r.owner).echoi.toNat

/-- WITHHOLD_LIMIT (R269): a record, and the region begins to drain to a checkpoint. -/
def execWithholdLimit (core : Nat) (slot : Fin 4) (s : State) : Host.Outcome State Fault Refusal :=
  let sl := s.edgeSlot core slot
  match s.regionOfCore core, sl.withheldSince with
  | some r, some t =>
    if sl.state != .withholding || r.stopping || r.frozen || decide (s.now < t + 16 * s.echoi r) then .next s
    else
      let s := s.setEdge core slot { sl with withheldSince := none }
      let s := s.record r (.edge core slot) 5 slot 0 0 sl.faultAddr (BitVec.ofNat 64 sl.done)
      if r.checkpoint.isSome || r.drain.isSome then .next s
      else .next (s.setRegion { r with checkpoint := some (core, slot), checkpointSaved := false, grotto := none })
  | _, _ => .next s

/-- CHECKPOINT_SAVE (R269): once nothing can move, the region is saved; its cores and edge units stay frozen, its sequencers run on. -/
def execCheckpointSave (region grotto : Nat) (s : State) : Host.Outcome State Fault Refusal :=
  match s.region? region with
  | none => .next s
  | some r =>
    match r.checkpoint with
    | none => .next s
    | some (n, e) =>
      if r.checkpointSaved || r.stopping || !s.stuck r || !grottoFits grotto (grottoSize r.w r.h r.nseq) then .next s
      else
        let s := (s.regionErrors r).saveRegion r grotto 2
        let s := s.setRegion { r with frozen := true, checkpointSaved := true, grotto := some grotto }
        .next (s.record r (.region region) 1 0 0 0 (BitVec.ofNat 64 grotto) (BitVec.ofNat 64 (sourceNumber (.edge n e))))

/-- THAW (R271): the withheld access has performed. -/
def execThaw (region : Nat) (s : State) : Host.Outcome State Fault Refusal :=
  match s.region? region with
  | none => .next s
  | some r =>
    match r.checkpoint with
    | none => .next s
    | some (n, e) =>
      if r.stopping || (s.edgeSlot n (Fin.ofNat 4 e)).state == .withholding then .next s
      else
        let s := s.onCores Core.thaw r.cores
        let s := s.setRegion { r with frozen := false, checkpoint := none, checkpointSaved := false, grotto := none }
        .next (s.record r (.region region) 2 0 0 0 (BitVec.ofNat 64 (r.grotto.getD 0)) (BitVec.ofNat 64 (sourceNumber (.edge n e))))

/-! ## The freeze (R272, R273) -/

/-- The effects of a sequencer that have not gone out. -/
def Seq.unsent (v : Seq) : List Queued := v.suspended ++ v.outbox

/-- An effect behind a fence that waits for a withheld access: it can act inside its sequencer, or it can be saved as an item (log 118). -/
def savable (q : Nat) (e : Queued) : Bool := isFence e || actsInside q e || match e.item with
  | some (.access _) => true
  | some (.coreCmd c) => (match c.unit with | .core _ => true | _ => false)
  | none => false

/-- The freeze need not wait for what a sequencer has not sent: it is held back, and all of it can be saved. -/
def State.unsentSettled (s : State) (q : Nat) : Bool :=
  let l := (s.seq q).unsent
  l.isEmpty || (l.all (savable q) && s.heldBack q)

/-- A reply that the freeze need not wait for: that of an item that will be saved. -/
def State.awaitsOnly (s : State) (q : Nat) : Bool :=
  (s.seq q).awaits.all fun a => s.cmds.zipIdx.any (fun (c, k) => c.id == a.id && s.standsAtCore k c) || s.withheld.any (fun x => x.id == a.id)
    || (s.seq q).unsent.any fun e => e.id == a.id

/-- Step 1 is over: every committed command of the region's sequencers has been applied and answered, or stands at its core. -/
def State.commandsSettled (s : State) (r : Region) : Bool :=
  r.seqs.all fun q =>
    let v := s.seq q
    s.unsentSettled q && v.arrivedTakes.isEmpty && s.awaitsOnly q
      && (s.cmds.zipIdx.all fun (c, k) => c.seq != q || s.standsAtCore k c)
      && !s.net.any fun p => match p.payload with | .cmd c => c.seq == q | .take t => t.thief == q || p.dst == .seq q | .reply _ _ _ => p.dst == .seq q | _ => false

/-- Steps 2 and 3 are over at a core: load runs stand at a boundary, or wait; the oldest firing holds. -/
def State.coreParked (s : State) (n : Nat) : Bool :=
  (match (s.core n).pipe with | f :: _ => (s.core n).firingHolds 0 f | [] => true)
    && (List.finRange 4).all fun e => !edgeDiffers n s (execEdgeLoadBeat n e s) && !edgeDiffers n s (execTranslationToken n e s)

/-- Step 4 is over: no access of the region is on its way or at a controller; only withheld ones are left. -/
def State.accessesDone (s : State) (r : Region) : Bool := !s.underWay.any r.owns

/-- Records that are on their way to a sequencer enter its event queue, as far as it has room (R262). -/
def State.absorbRecords (s : State) (q : Nat) : State :=
  let v := s.seq q
  let l := v.arrivedRecords ++ s.net.filterMap fun p => if p.dst = .seq q then (match p.payload with | .record e => some e | _ => none) else none
  let room := 64 - v.events.length
  s.setSeq q { v with events := v.events ++ l.take room, lost := min (v.lost + (l.length - room)) 255, arrivedRecords := [] }

/-- The accesses that homes withhold for a region are cancelled; what other units have waiting behind them is tried again, oldest first (R273). -/
def State.cancelWithheld (s : State) (r : Region) : State :=
  let gone := s.withheld.filter r.owns
  let pools := s.poolsWanted.eraseDups
  pools.foldl (fun s d => s.retryWithheld d gone [] s.withheld) { s with withheld := s.withheld.filter fun a => !r.owns a }

/-- Nothing of a region is left on its cores and sequencers, in the network, among commands or at homes. -/
def State.clearRegion (s : State) (r : Region) : State :=
  let s := (s.cancelWithheld r).dropTraffic r
  let s := { s with cmds := s.cmds.filter fun c => !r.seqs.contains c.seq }
  let s := s.onCores (fun c => c.freshFor s.now) r.cores
  r.seqs.foldl (fun s q => s.setSeq q Seq.init) s

/-- The region has stopped for good: it leaves with a status, and what waited for that goes on. -/
def State.releaseRegion (s : State) (r : Region) (status : Nat) : State :=
  let s := ((s.clearRegion r).dieFreed r).setRegion { r with ended := some status, stopping := false, freezing := false, frozen := false }
  if status = 9 then s.endMailbox r else ((s.releaseHandles r).instanceGone r).endMailbox r

/-- Why a region is frozen: its context is gone (3), its owner took a double trap (5), or it is pre-empted (9). -/
def State.freezeStatus (s : State) (r : Region) : Nat :=
  if (s.ctx? r.ctx).isNone then 3 else if (s.seq r.owner).doubleTrapped then 5 else 9

/-- The place of a message's record, where it still stands in a window of a region that is saved: counted from the head, as the windows are filled
after a restore. -/
def State.posSaved (s : State) (r : Region) (m : InMsg) : Option Nat :=
  match s.conn? m.handle with
  | some c =>
    let v := s.seq (r.seqOfRank c.recvRank)
    if c.region = r.id then (m.pos.filter (v.stands c.recvWin)).map fun p => p - v.freed[c.recvWin.toFin] else m.pos
  | none => m.pos

/-- What the engines have to know of a region while it is saved: the records that stand in receive windows, and how many of a sequencer's items a
message comes after (R220, R366, R372). -/
def State.noteSaved (s : State) (r : Region) : State :=
  { s with fabric := { s.fabric with
      inMsgs := s.fabric.inMsgs.map fun m => { m with pos := s.posSaved r m }
      msgs := s.fabric.msgs.map fun m =>
        if m.region = r.id then { m with behind := (((s.seq (r.seqOfRank m.rank)).items.take 128).filter fun i => decide (i.id < m.cmd)).length } else m } }

/-- A region is saved into its grotto with reason 1 and leaves (R272); the module keeps what the records of its sequencers have no place for. -/
def State.saveAndRelease (s : State) (r : Region) : State :=
  match r.grotto with
  | some pa => ((s.saveRegion r pa 1).noteSaved r).releaseRegion
      { r with checkpoint := none, checkpointSaved := false, kept := r.seqs.map fun q => (s.seq q).keep } 9
  | none => s

/-- The last part of a freeze: the region is saved where it is pre-empted, and released. -/
def State.finishFreeze (s : State) (r : Region) : State :=
  let status := s.freezeStatus r
  if status ≠ 9 then s.releaseRegion r status else (r.seqs.foldl State.absorbRecords (s.regionErrors r)).saveAndRelease r

/-- REGION_FREEZE (R272): one step of a freeze that a pre-emption, a teardown or an owner's double trap has asked for. -/
def execRegionFreeze (region : Nat) (s : State) : Host.Outcome State Fault Refusal :=
  match s.region? region with
  | none => .next s
  | some r =>
    if !r.stopping then
      if (s.seq r.owner).doubleTrapped then .next (s.stopRegion r) else .next s
    else if !r.freezing then
      if s.commandsSettled r then .next (r.seqs.foldl State.suspend (s.setRegion { r with freezing := true })) else .next s
    else if r.cores.all s.coreParked && s.accessesDone r then .next (s.finishFreeze r)
    else .next s

end Sys2Proof.Machine
end

