-- ==== Sys2Proof/Machine/Integer.lean ====
section
/-! DEFINITION. Integer, address, compare and predicate words of the sequencer (08 R191 to R196). -/

namespace Sys2Proof.Machine

/-! ## Shared forms -/

/-- A word of format R: sd := f a b, with a warning. -/
def State.intWord (s : State) (d a b : Reg) (mbz : Bool) (f : Word → Word → Word × Word) : Host.Outcome State Fault Refusal :=
  s.plainWord [a, b] mbz fun x => (x.b.write d (f (x.reg a) (x.reg b)).1).warn (f (x.reg a) (x.reg b)).2

/-- A word of one operand: sd := f a. -/
def State.unaryWord (s : State) (d a : Reg) (mbz : Bool) (f : Word → Word) : Host.Outcome State Fault Refusal :=
  s.plainWord [a] mbz fun x => x.b.write d (f (x.reg a))

/-- The amount of a shift: bits 5:0 (R191). -/
def seqShiftAmount (b : Word) : Nat := b.toNat % 64

/-! ## The integer group (R191, R192) -/

def execAdd (d a b : Reg) (x : Bool) (_ : Pred) (s : State) : Host.Outcome State Fault Refusal := s.intWord d a b x fun u v => (u + v, 0)
def execSub (d a b : Reg) (x : Bool) (_ : Pred) (s : State) : Host.Outcome State Fault Refusal := s.intWord d a b x fun u v => (u - v, 0)
def execMul (d a b : Reg) (x : Bool) (_ : Pred) (s : State) : Host.Outcome State Fault Refusal := s.intWord d a b x fun u v => (u * v, 0)

/-- The high half of the 128-bit signed product. -/
def mulhValue (u v : Word) : Word := BitVec.ofInt 64 (u.toInt * v.toInt / 2 ^ 64)
def execMulh (d a b : Reg) (x : Bool) (_ : Pred) (s : State) : Host.Outcome State Fault Refusal :=
  s.intWord d a b x fun u v => (mulhValue u v, 0)

def mulhuValue (u v : Word) : Word := BitVec.ofNat 64 (u.toNat * v.toNat / 2 ^ 64)
def execMulhu (d a b : Reg) (x : Bool) (_ : Pred) (s : State) : Host.Outcome State Fault Refusal :=
  s.intWord d a b x fun u v => (mulhuValue u v, 0)

/-- `div`, truncated toward zero; −1 by 0 (R192). -/
def divValue (u v : Word) : Word := if v = 0 then BitVec.allOnes 64 else BitVec.ofInt 64 (u.toInt.tdiv v.toInt)
def divuValue (u v : Word) : Word := if v = 0 then BitVec.allOnes 64 else BitVec.ofNat 64 (u.toNat / v.toNat)
/-- `rem`, with the sign of the dividend; the dividend by 0 (R192). -/
def remValue (u v : Word) : Word := if v = 0 then u else BitVec.ofInt 64 (u.toInt.tmod v.toInt)
def remuValue (u v : Word) : Word := if v = 0 then u else BitVec.ofNat 64 (u.toNat % v.toNat)
/-- DIVZ (R192). -/
def divWarn (v : Word) : Word := warnIf (v == 0) swDIVZ

def execDiv (d a b : Reg) (x : Bool) (_ : Pred) (s : State) : Host.Outcome State Fault Refusal :=
  s.intWord d a b x fun u v => (divValue u v, divWarn v)
def execDivu (d a b : Reg) (x : Bool) (_ : Pred) (s : State) : Host.Outcome State Fault Refusal :=
  s.intWord d a b x fun u v => (divuValue u v, divWarn v)
def execRem (d a b : Reg) (x : Bool) (_ : Pred) (s : State) : Host.Outcome State Fault Refusal :=
  s.intWord d a b x fun u v => (remValue u v, divWarn v)
def execRemu (d a b : Reg) (x : Bool) (_ : Pred) (s : State) : Host.Outcome State Fault Refusal :=
  s.intWord d a b x fun u v => (remuValue u v, divWarn v)

def execAndW (d a b : Reg) (x : Bool) (_ : Pred) (s : State) : Host.Outcome State Fault Refusal := s.intWord d a b x fun u v => (u &&& v, 0)
def execOrW (d a b : Reg) (x : Bool) (_ : Pred) (s : State) : Host.Outcome State Fault Refusal := s.intWord d a b x fun u v => (u ||| v, 0)
def execXorW (d a b : Reg) (x : Bool) (_ : Pred) (s : State) : Host.Outcome State Fault Refusal := s.intWord d a b x fun u v => (u ^^^ v, 0)
def execShl (d a b : Reg) (x : Bool) (_ : Pred) (s : State) : Host.Outcome State Fault Refusal :=
  s.intWord d a b x fun u v => (u <<< seqShiftAmount v, 0)
def execShr (d a b : Reg) (x : Bool) (_ : Pred) (s : State) : Host.Outcome State Fault Refusal :=
  s.intWord d a b x fun u v => (u >>> seqShiftAmount v, 0)
def execSra (d a b : Reg) (x : Bool) (_ : Pred) (s : State) : Host.Outcome State Fault Refusal :=
  s.intWord d a b x fun u v => (u.sshiftRight (seqShiftAmount v), 0)
def execMinW (d a b : Reg) (x : Bool) (_ : Pred) (s : State) : Host.Outcome State Fault Refusal :=
  s.intWord d a b x fun u v => (if u.toInt ≤ v.toInt then u else v, 0)
def execMaxW (d a b : Reg) (x : Bool) (_ : Pred) (s : State) : Host.Outcome State Fault Refusal :=
  s.intWord d a b x fun u v => (if v.toInt ≤ u.toInt then u else v, 0)
def execMinu (d a b : Reg) (x : Bool) (_ : Pred) (s : State) : Host.Outcome State Fault Refusal :=
  s.intWord d a b x fun u v => (if u.toNat ≤ v.toNat then u else v, 0)
def execMaxu (d a b : Reg) (x : Bool) (_ : Pred) (s : State) : Host.Outcome State Fault Refusal :=
  s.intWord d a b x fun u v => (if v.toNat ≤ u.toNat then u else v, 0)

/-- Zero bits above the highest 1 bit, of n bits. -/
def wordLeadingZeros (n w : Nat) : Nat := if w = 0 then n else n - 1 - Nat.log2 w
/-- Zero bits below the lowest 1 bit; n for 0. -/
def trailingZeros : Nat → Nat → Nat
  | 0, _ => 0
  | n + 1, w => if w % 2 = 1 then 0 else trailingZeros n (w / 2) + 1
/-- Number of 1 bits among the low n. -/
def onesCount : Nat → Nat → Nat
  | 0, _ => 0
  | n + 1, w => w % 2 + onesCount n (w / 2)

def execClz (d a _b : Reg) (x : Bool) (_ : Pred) (s : State) : Host.Outcome State Fault Refusal :=
  s.unaryWord d a x fun u => BitVec.ofNat 64 (wordLeadingZeros 64 u.toNat)
def execCtz (d a _b : Reg) (x : Bool) (_ : Pred) (s : State) : Host.Outcome State Fault Refusal :=
  s.unaryWord d a x fun u => BitVec.ofNat 64 (trailingZeros 64 u.toNat)
def execPopc (d a _b : Reg) (x : Bool) (_ : Pred) (s : State) : Host.Outcome State Fault Refusal :=
  s.unaryWord d a x fun u => BitVec.ofNat 64 (onesCount 64 u.toNat)

def execSeqSel (d a b : Reg) (p : Pred) (_ : Pred) (s : State) : Host.Outcome State Fault Refusal :=
  s.plainWord [a, b] false fun x => x.b.write d (if x.pred p then x.reg a else x.reg b)

/-! ## Immediates and addresses (R193, R194) -/

def execAddi (d a : Reg) (imm : BitVec 13) (_ : Pred) (s : State) : Host.Outcome State Fault Refusal :=
  s.unaryWord d a false fun u => u + sext64 imm
def execAndi (d a : Reg) (imm : BitVec 13) (_ : Pred) (s : State) : Host.Outcome State Fault Refusal :=
  s.unaryWord d a false fun u => u &&& sext64 imm
def execOri (d a : Reg) (imm : BitVec 13) (_ : Pred) (s : State) : Host.Outcome State Fault Refusal :=
  s.unaryWord d a false fun u => u ||| sext64 imm
def execXori (d a : Reg) (imm : BitVec 13) (_ : Pred) (s : State) : Host.Outcome State Fault Refusal :=
  s.unaryWord d a false fun u => u ^^^ sext64 imm
def execShli (d a : Reg) (imm : BitVec 6) (x : Bool) (_ : Pred) (s : State) : Host.Outcome State Fault Refusal :=
  s.unaryWord d a x fun u => u <<< imm.toNat
def execShri (d a : Reg) (imm : BitVec 6) (x : Bool) (_ : Pred) (s : State) : Host.Outcome State Fault Refusal :=
  s.unaryWord d a x fun u => u >>> imm.toNat
def execSrai (d a : Reg) (imm : BitVec 6) (x : Bool) (_ : Pred) (s : State) : Host.Outcome State Fault Refusal :=
  s.unaryWord d a x fun u => u.sshiftRight imm.toNat

def execLi (d : Reg) (imm : BitVec 18) (_ : Pred) (s : State) : Host.Outcome State Fault Refusal :=
  s.plainWord [] false fun x => x.b.write d (sext64 imm)

/-- Sixteen bits of a register replaced (R194). -/
def luiValue (u : Word) (h : BitVec 2) (imm : BitVec 16) : Word :=
  (u &&& ~~~((0xFFFF : Word) <<< (16 * h.toNat))) ||| ((imm.setWidth 64) <<< (16 * h.toNat))
def execLui (d : Reg) (h : BitVec 2) (imm : BitVec 16) (_ : Pred) (s : State) : Host.Outcome State Fault Refusal :=
  s.unaryWord d d false fun u => luiValue u h imm

def execLea (d : Reg) (imm : BitVec 18) (_ : Pred) (s : State) : Host.Outcome State Fault Refusal :=
  s.plainWord [] false fun x => x.b.write d (x.v.pc.setWidth 64 + BitVec.ofInt 64 (4 * imm.toInt))

/-! ## Compares and predicates (R195, R196) -/

/-- The condition of `cmp`; false for a reserved COND (R195). -/
def cmpHolds (cond : BitVec 3) (u v : Word) : Bool :=
  match cond.toNat with
  | 0 => u == v
  | 1 => u != v
  | 2 => decide (u.toInt < v.toInt)
  | 3 => decide (u.toNat < v.toNat)
  | 4 => decide (v.toInt ≤ u.toInt)
  | 5 => decide (v.toNat ≤ u.toNat)
  | _ => false

def execCmp (p : Pred) (a b : Reg) (cond : BitVec 3) (x : Bool) (_ : Pred) (s : State) : Host.Outcome State Fault Refusal :=
  s.plainWord [a, b] x fun c =>
    (c.b.writePred p (cmpHolds cond (c.reg a) (c.reg b))).warn (warnIf (decide (6 ≤ cond.toNat)) swRSVF)

def execPand (p a b : Pred) (x : Bool) (_ : Pred) (s : State) : Host.Outcome State Fault Refusal :=
  s.plainWord [] x fun c => c.b.writePred p (c.pred a && c.pred b)
def execPor (p a b : Pred) (x : Bool) (_ : Pred) (s : State) : Host.Outcome State Fault Refusal :=
  s.plainWord [] x fun c => c.b.writePred p (c.pred a || c.pred b)
def execPnot (p a : Pred) (x : Bool) (_ : Pred) (s : State) : Host.Outcome State Fault Refusal :=
  s.plainWord [] x fun c => c.b.writePred p (!c.pred a)

end Sys2Proof.Machine
end

