-- ==== Sys2Proof/Machine/Issue.lean ====
section
/-! DEFINITION. The issue of a firing (03 R39, R40; 06 R134, R135, R137; 18 R350). -/

namespace Sys2Proof.Machine

/-- FIRING_ISSUE (R134): one firing of the selected handler, where there is one; at most one in a cycle, and none in a cycle whose issue slot a
sequencer command takes (R137). A head beat whose control word cannot be corrected stops the core: the firing holds in its first stage, and nothing is taken from that word (R120,
log 102). -/
def execFiringIssue (core : Nat) (s : State) : Host.Outcome State Fault Refusal :=
  let c := s.core core
  if s.coreStopping core then .next s
  else if c.stop then .next (s.returnLantern core)
  else match s.select core with
    | none => .next (s.returnLantern core)
    | some slot =>
      if !c.stageOneFree || !c.slotFree s.now || s.slotClaimed core || c.unsettled slot then .next s
      else
        let h := c.active[slot]
        let reads := match c.headBeat h with | some (_, a) => [(a + 16, h0Trig h)] | none => []
        let s' := if heavyRec h && !c.lit then s.takeLantern core else s
        match c.badRead reads with
        | some hit => .next ((s'.setCore core (c.issue slot s.now none (some .stopped))).storeFault core slot 1 hit)
        | none =>
          let s'' := s'.setCore core ((c.correctStore reads).issue slot s.now ((c.headBeat h).map (·.1)) none)
          .next (if heavyRec h then s'' else s''.returnLantern core)

end Sys2Proof.Machine
end

