-- ==== Sys2Proof/Machine/Probe.lean ====
section
/-! DEFINITION. Echo probes: blocked cores, wait edges, and the probes that follow them (10 R282 to R285). -/

namespace Sys2Proof.Machine

/-! ## Blocked cores (R282) -/

/-- A staging beat of the core cannot move. -/
def State.stagedHeld (s : State) (n : Nat) : Bool := (s.core n).staging.any fun x => !s.beatMoves n x

/-- A core is blocked (R282): a core that a store fault has stopped too. -/
def State.coreBlocked (s : State) (n : Nat) : Bool :=
  let c := s.core n
  match s.regionOfCore n with
  | none => false
  | some r =>
    decide (c.lastActive + s.echoi r ≤ s.now) && !r.freezing && !r.frozen
      && (c.pipe.zipIdx.any (fun (f, k) => c.firingHolds k f) || s.stagedHeld n || (List.finRange 8).any fun k => h0Valid c.active[k] && !h0Mask c.active[k])
      && !((List.finRange 8).any fun k => heavyRec c.active[k] && c.readyBut k && !s.lanternFor n)

/-! ## Wait edges (R283) -/

/-- The cores of a region at which a channel ends, followed from an input selector of a core; `fuel` bounds the routers visited. -/
def State.channelEnds (s : State) (r : Region) (link : BitVec 4) : Nat → List (Nat × BitVec 4) → List (Nat × BitVec 4) → List Nat
  | 0, _, _ => []
  | _, [], _ => []
  | fuel + 1, (n, sel) :: rest, seen =>
    if seen.contains (n, sel) then s.channelEnds r link fuel rest seen
    else match (s.core n).switch? sel link with
      | none => s.channelEnds r link fuel rest ((n, sel) :: seen)
      | some x =>
        let m := effectiveMask x
        let next := (maskDirs m).filterMap fun d => match s.neighbour n d with
          | some k => if r.holds k then some (k, dirCode (opposite d)) else none
          | none => none
        (if maskLocal m then [n] else []) ++ s.channelEnds r link fuel (rest ++ next) ((n, sel) :: seen)

/-- The cores at which the channel that begins at a port ends, with its link. -/
def State.portEnds (s : State) (r : Region) (n : Nat) (j : Fin 4) : Option (BitVec 4 × List Nat) :=
  ((s.core n).portLink j).map fun link => (link, s.channelEnds r link (64 * r.w * r.h + 64) [(n, BitVec.ofNat 4 (4 + j))] [])

/-- The core that produces a window's elements (R283). -/
def State.producerOf (s : State) (r : Region) (n : Nat) (w : Win) : Option Nat :=
  let d := (s.core n).desc w
  if !wdBound d then none
  else if wdSrc d = 2 then some n
  else if wdSrc d ≠ 0 then none
  else r.cores.find? fun m => (List.finRange 4).any fun j => match s.portEnds r m j with
    | some (link, ends) => link.toNat == wdLink d && ends.contains n
    | none => false

/-- A wait edge: what is waited for (1: room), the window, and the core that the edge goes to, where there is one. -/
structure WaitEdge where
  forRoom : Bool
  win : Nat
  toward : Option Nat
  deriving DecidableEq, Repr

/-- The wait edge of a firing that holds. -/
def State.holdEdge (s : State) (r : Region) (n : Nat) : Hold → Option WaitEdge
  | .read w => some ⟨false, w.val, s.producerOf r n w⟩
  | .room w => some ⟨true, w.val, some n⟩
  | .port j =>
    match s.portEnds r n j with
    | none => none
    | some (link, ends) =>
      let full := ends.find? fun m => match (s.core m).linkWin link with | some w => !(s.core m).room w 1 | none => false
      (full.orElse fun _ => ends.head?).map fun m => ⟨true, (((s.core m).linkWin link).map (·.val)).getD 0, some m⟩
  | _ => none

/-- The valid, unmasked slot of highest PRIO, and of lowest number among equals. -/
def Core.topSlot (c : Core) : Option (Fin 8) :=
  (List.finRange 8).foldl (fun best k =>
    if h0Valid c.active[k] && !h0Mask c.active[k] then
      match best with
      | none => some k
      | some b => if h0Prio c.active[b] < h0Prio c.active[k] then some k else best
    else best) none

/-- The window of the first readiness condition of a slot that fails: TRIG count, then taps 0 to 7. -/
def Core.failingWin (c : Core) (k : Fin 8) : Option Win :=
  let h := c.active[k]
  if c.visible (h0Trig h) < max (h0Min h) (h11Shrink h) then some (h0Trig h)
  else
    let taps := valueTaps h
    ((List.range 8).find? fun j => taps.contains (tapOf h j) && !c.tapReady c.dyn[k].iter (tapOf h j)).map fun j => (tapOf h j).win

/-- The wait edge of a core (R283). -/
def State.waitEdge (s : State) (r : Region) (n : Nat) : Option WaitEdge :=
  let c := s.core n
  match c.pipe.findSome? fun f => f.hold.bind (s.holdEdge r n) with
  | some e => some e
  | none =>
    match c.topSlot.bind c.failingWin with
    | some w => some ⟨false, w.val, s.producerOf r n w⟩
    | none => none

/-! ## Probes (R284, R285) -/

/-- A trail entry: the wait, and the core hopped to, region-relative (R285). -/
def trailEntry (r : Region) (e : WaitEdge) (dest : Nat) : Lane :=
  BitVec.ofNat 36 (at_ 1 35 1 + at_ (b2n e.forRoom) 20 1 + at_ e.win 16 4 + at_ (coreY dest - r.y) 8 8 + at_ (coreX dest - r.x) 0 8)

/-- A probe takes one hop along the wait edge of the core it is at; none where it is dropped. -/
def State.advanceProbe (s : State) (r : Region) (p : Probe) : Option Probe :=
  match s.waitEdge r p.at_ with
  | some e =>
    match e.toward with
    | some m => some { p with at_ := m, trail := p.trail ++ [trailEntry r e m] }
    | none => none
  | none => none

/-- The held firing that gives a core's wait edge (R283): its slot and its stage; 0 and 0 where none does. -/
def State.heldAt (s : State) (r : Region) (n : Nat) : Nat × Nat :=
  match (s.core n).pipe.find? fun f => (f.hold.bind (s.holdEdge r n)).isSome with
  | some f => (f.slot.val, f.stage)
  | none => (0, 0)

/-- The origin reports a window deadlock (R284, R285, R143), with the firing that holds there. -/
def State.reportDeadlock (s : State) (r : Region) (p : Probe) : State :=
  let c := s.core p.origin
  let first := p.trail.headD 0
  let at_ := s.heldAt r p.origin
  let s := s.setCore p.origin { c with trail := p.trail.take 64 }
  s.coreFault p.origin 3 at_.1 at_.2 (bv first 16 4) 0 (BitVec.ofNat 64 p.trail.length) (BitVec.ofNat 64 (bv first 16 4 + 16 * bv first 20 1))

/-- ECHO_PROBE_SEND (R284): a blocked core sends its one probe. -/
def execEchoProbeSend (core : Nat) (s : State) : Host.Outcome State Fault Refusal :=
  match s.regionOfCore core with
  | none => .next s
  | some r =>
    if (s.core core).probeSent || !s.coreBlocked core then .next s
    else
      let s := s.setCore core { s.core core with probeSent := true }
      match s.advanceProbe r ⟨core, core, core, [], [core]⟩ with
      | some p => .next { s with probes := s.probes ++ [p] }
      | none => .next s

/-- What becomes of a probe that has arrived: forwarded, dropped, or reported (R284). -/
def State.probeArrives (s : State) (r : Region) (p : Probe) : State :=
  if !s.coreBlocked p.at_ || decide (1024 ≤ p.trail.length) then s
  else if p.at_ = p.origin then (if p.lowest = p.origin then s.reportDeadlock r p else s)
  else if p.passed.contains p.at_ then s
  else match s.advanceProbe r { p with lowest := min p.lowest p.at_, passed := p.at_ :: p.passed } with
    | some q => { s with probes := s.probes ++ [q] }
    | none => s

/-- Two probes are on their way from one core to one core (R298). -/
def Probe.sameWay (p q : Probe) : Bool := p.passed.head? == q.passed.head? && p.at_ == q.at_

/-- The way of a probe leads over a link that has stopped (R300). -/
def State.probeWaits (s : State) (p : Probe) : Bool := s.wayStopped (.core (p.passed.headD p.origin)) (.core p.at_)

/-- ECHO_PROBE_HOP (R284): a probe reaches the core that it is on its way to; those between the same two cores arrive in sending order (R298). -/
def execEchoProbeHop (probe : Nat) (s : State) : Host.Outcome State Fault Refusal :=
  match s.probes[probe]? with
  | none => .next s
  | some p =>
    if s.probeWaits p || (s.probes.take probe).any p.sameWay then .next s
    else
      let s := { s with probes := dropNth s.probes probe }
      match s.regionOfCore p.origin with
      | none => .next s
      | some r => .next (s.probeArrives r p)

end Sys2Proof.Machine
end

