-- ==== Sys2Proof/Machine/Dispatch.lean ====
section
/-! DEFINITION. The meaning of every instruction and event of spec/opcode_table.json: one arm per constructor, one direct call of a meaning. -/

namespace Sys2Proof.Machine

def exec (i : Instr) (s : State) : Host.Outcome State Fault Refusal :=
  match i with
  | .firingIssue core => Sys2Proof.Machine.execFiringIssue core s
  | .firingComplete core => Sys2Proof.Machine.execFiringComplete core s
  | .stageNop op f => Sys2Proof.Machine.execStageNop op f s
  | .stageStop f => Sys2Proof.Machine.execStageStop f s
  | .stageMov f => Sys2Proof.Machine.execStageMov f s
  | .stageSel f => Sys2Proof.Machine.execStageSel f s
  | .iadd f => Sys2Proof.Machine.execIadd f s
  | .isub f => Sys2Proof.Machine.execIsub f s
  | .imul f => Sys2Proof.Machine.execImul f s
  | .imad f => Sys2Proof.Machine.execImad f s
  | .iand f => Sys2Proof.Machine.execIand f s
  | .ior f => Sys2Proof.Machine.execIor f s
  | .ixor f => Sys2Proof.Machine.execIxor f s
  | .iandn f => Sys2Proof.Machine.execIandn f s
  | .ishl f => Sys2Proof.Machine.execIshl f s
  | .ishr f => Sys2Proof.Machine.execIshr f s
  | .isra f => Sys2Proof.Machine.execIsra f s
  | .icmp f => Sys2Proof.Machine.execIcmp f s
  | .imin f => Sys2Proof.Machine.execImin f s
  | .imax f => Sys2Proof.Machine.execImax f s
  | .ipopc f => Sys2Proof.Machine.execIpopc f s
  | .iclz f => Sys2Proof.Machine.execIclz f s
  | .fadd f => Sys2Proof.Machine.execFadd f s
  | .fsub f => Sys2Proof.Machine.execFsub f s
  | .fmul f => Sys2Proof.Machine.execFmul f s
  | .fma f => Sys2Proof.Machine.execFma f s
  | .fms f => Sys2Proof.Machine.execFms f s
  | .fmax f => Sys2Proof.Machine.execFmax f s
  | .fmin f => Sys2Proof.Machine.execFmin f s
  | .fabs f => Sys2Proof.Machine.execFabs f s
  | .fneg f => Sys2Proof.Machine.execFneg f s
  | .fcmp f => Sys2Proof.Machine.execFcmp f s
  | .fclass f => Sys2Proof.Machine.execFclass f s
  | .frnd f => Sys2Proof.Machine.execFrnd f s
  | .frcp f => Sys2Proof.Machine.execFrcp f s
  | .frsq f => Sys2Proof.Machine.execFrsq f s
  | .fexp2 f => Sys2Proof.Machine.execFexp2 f s
  | .flog2 f => Sys2Proof.Machine.execFlog2 f s
  | .fscale f => Sys2Proof.Machine.execFscale f s
  | .cvtFi f => Sys2Proof.Machine.execCvtFi f s
  | .cvtIf f => Sys2Proof.Machine.execCvtIf f s
  | .acc f => Sys2Proof.Machine.execAcc f s
  | .fmab f => Sys2Proof.Machine.execFmab f s
  | .dot f => Sys2Proof.Machine.execDot f s
  | .rmax f => Sys2Proof.Machine.execRmax f s
  | .rmin f => Sys2Proof.Machine.execRmin f s
  | .ramax f => Sys2Proof.Machine.execRamax f s
  | .steer f => Sys2Proof.Machine.execSteer f s
  | .merge f => Sys2Proof.Machine.execMerge f s
  | .join f => Sys2Proof.Machine.execJoin f s
  | .cmpx f => Sys2Proof.Machine.execCmpx f s
  | .cpr f => Sys2Proof.Machine.execCpr f s
  | .stageMark f => Sys2Proof.Machine.execStageMark f s
  | .strip f => Sys2Proof.Machine.execStrip f s
  | .gate f => Sys2Proof.Machine.execGate f s
  | .cnt f => Sys2Proof.Machine.execCnt f s
  | .bcast f => Sys2Proof.Machine.execBcast f s
  | .shuf f => Sys2Proof.Machine.execShuf f s
  | .pack f => Sys2Proof.Machine.execPack f s
  | .unpack f => Sys2Proof.Machine.execUnpack f s
  | .wupd f => Sys2Proof.Machine.execWupd f s
  | .wfill f => Sys2Proof.Machine.execWfill f s
  | .shrink f => Sys2Proof.Machine.execShrink f s
  | .wcnt f => Sys2Proof.Machine.execWcnt f s
  | .routerForward core sel link => Sys2Proof.Machine.execRouterForward core sel link s
  | .linkFill core sel link => Sys2Proof.Machine.execLinkFill core sel link s
  | .storeSoftError core addr uncorrectable => Sys2Proof.Machine.execStoreSoftError core addr uncorrectable s
  | .coreWindowCommandApply core seq => Sys2Proof.Machine.execCoreWindowCommandApply core seq s
  | .hmsetWrite core seq => Sys2Proof.Machine.execHmsetWrite core seq s
  | .hmclrWrite core seq => Sys2Proof.Machine.execHmclrWrite core seq s
  | .loopGuardWrite core seq => Sys2Proof.Machine.execLoopGuardWrite core seq s
  | .coreRegisterWrite core seq => Sys2Proof.Machine.execCoreRegisterWrite core seq s
  | .linkReplay link => Sys2Proof.Machine.execLinkReplay link s
  | .uncorrectableLinkError link => Sys2Proof.Machine.execUncorrectableLinkError link s
  | .echoProbeSend core => Sys2Proof.Machine.execEchoProbeSend core s
  | .echoProbeHop probe => Sys2Proof.Machine.execEchoProbeHop probe s
  | .edgeLoadBeat core slot => Sys2Proof.Machine.execEdgeLoadBeat core slot s
  | .edgeStoreElement core slot => Sys2Proof.Machine.execEdgeStoreElement core slot s
  | .quantisingStoreBlock core slot => Sys2Proof.Machine.execQuantisingStoreBlock core slot s
  | .indexTokenTake core slot => Sys2Proof.Machine.execIndexTokenTake core slot s
  | .permitTake core slot => Sys2Proof.Machine.execPermitTake core slot s
  | .acquireTake core slot => Sys2Proof.Machine.execAcquireTake core slot s
  | .completionToken core slot => Sys2Proof.Machine.execCompletionToken core slot s
  | .translationToken core slot => Sys2Proof.Machine.execTranslationToken core slot s
  | .eraseElement core slot => Sys2Proof.Machine.execEraseElement core slot s
  | .edgeRetry core slot => Sys2Proof.Machine.execEdgeRetry core slot s
  | .withholdLimit core slot => Sys2Proof.Machine.execWithholdLimit core slot s
  | .checkpointSave region grotto => Sys2Proof.Machine.execCheckpointSave region grotto s
  | .thaw region => Sys2Proof.Machine.execThaw region s
  | .blockIssue seq => Sys2Proof.Machine.execBlockIssue seq s
  | .blockCommit seq => Sys2Proof.Machine.execBlockCommit seq s
  | .asyncTrapTake seq => Sys2Proof.Machine.execAsyncTrapTake seq s
  | .replyResult seq index => Sys2Proof.Machine.execReplyResult seq index s
  | .wfeWake seq => Sys2Proof.Machine.execWfeWake seq s
  | .yieldExpiry seq => Sys2Proof.Machine.execYieldExpiry seq s
  | .seqWindowFill seq index => Sys2Proof.Machine.execSeqWindowFill seq index s
  | .eventRecordDeliver seq => Sys2Proof.Machine.execEventRecordDeliver seq s
  | .stealApply seq index => Sys2Proof.Machine.execStealApply seq index s
  | .seqNop kind x g => Sys2Proof.Machine.execSeqNop kind x g s
  | .halt x g => Sys2Proof.Machine.execHalt x g s
  | .wfe x g => Sys2Proof.Machine.execWfe x g s
  | .yield x g => Sys2Proof.Machine.execYield x g s
  | .ret a x g => Sys2Proof.Machine.execRet a x g s
  | .eret x g => Sys2Proof.Machine.execEret x g s
  | .trap code x g => Sys2Proof.Machine.execTrap code x g s
  | .exitr a x g => Sys2Proof.Machine.execExitr a x g s
  | .exitWord off g => Sys2Proof.Machine.execExitWord off g s
  | .call d imm g => Sys2Proof.Machine.execCall d imm g s
  | .add d a b x g => Sys2Proof.Machine.execAdd d a b x g s
  | .sub d a b x g => Sys2Proof.Machine.execSub d a b x g s
  | .mul d a b x g => Sys2Proof.Machine.execMul d a b x g s
  | .mulh d a b x g => Sys2Proof.Machine.execMulh d a b x g s
  | .mulhu d a b x g => Sys2Proof.Machine.execMulhu d a b x g s
  | .div d a b x g => Sys2Proof.Machine.execDiv d a b x g s
  | .divu d a b x g => Sys2Proof.Machine.execDivu d a b x g s
  | .rem d a b x g => Sys2Proof.Machine.execRem d a b x g s
  | .remu d a b x g => Sys2Proof.Machine.execRemu d a b x g s
  | .andW d a b x g => Sys2Proof.Machine.execAndW d a b x g s
  | .orW d a b x g => Sys2Proof.Machine.execOrW d a b x g s
  | .xorW d a b x g => Sys2Proof.Machine.execXorW d a b x g s
  | .shl d a b x g => Sys2Proof.Machine.execShl d a b x g s
  | .shr d a b x g => Sys2Proof.Machine.execShr d a b x g s
  | .sra d a b x g => Sys2Proof.Machine.execSra d a b x g s
  | .minW d a b x g => Sys2Proof.Machine.execMinW d a b x g s
  | .maxW d a b x g => Sys2Proof.Machine.execMaxW d a b x g s
  | .minu d a b x g => Sys2Proof.Machine.execMinu d a b x g s
  | .maxu d a b x g => Sys2Proof.Machine.execMaxu d a b x g s
  | .clz d a b x g => Sys2Proof.Machine.execClz d a b x g s
  | .ctz d a b x g => Sys2Proof.Machine.execCtz d a b x g s
  | .popc d a b x g => Sys2Proof.Machine.execPopc d a b x g s
  | .seqSel d a b p g => Sys2Proof.Machine.execSeqSel d a b p g s
  | .addi d a imm g => Sys2Proof.Machine.execAddi d a imm g s
  | .andi d a imm g => Sys2Proof.Machine.execAndi d a imm g s
  | .ori d a imm g => Sys2Proof.Machine.execOri d a imm g s
  | .xori d a imm g => Sys2Proof.Machine.execXori d a imm g s
  | .shli d a imm x g => Sys2Proof.Machine.execShli d a imm x g s
  | .shri d a imm x g => Sys2Proof.Machine.execShri d a imm x g s
  | .srai d a imm x g => Sys2Proof.Machine.execSrai d a imm x g s
  | .li d imm g => Sys2Proof.Machine.execLi d imm g s
  | .lui d h imm g => Sys2Proof.Machine.execLui d h imm g s
  | .lea d imm g => Sys2Proof.Machine.execLea d imm g s
  | .cmp p a b cond x g => Sys2Proof.Machine.execCmp p a b cond x g s
  | .pand p a b x g => Sys2Proof.Machine.execPand p a b x g s
  | .por p a b x g => Sys2Proof.Machine.execPor p a b x g s
  | .pnot p a x g => Sys2Proof.Machine.execPnot p a x g s
  | .widGet d a f x g => Sys2Proof.Machine.execWidGet d a f x g s
  | .widSet d a f x g => Sys2Proof.Machine.execWidSet d a f x g s
  | .ld d a w u off g => Sys2Proof.Machine.execLd d a w u off g s
  | .st d a w u off g => Sys2Proof.Machine.execSt d a w u off g s
  | .ldx d a w u p off g => Sys2Proof.Machine.execLdx d a w u p off g s
  | .verase a x g => Sys2Proof.Machine.execVerase a x g s
  | .amoAdd d a b f x g => Sys2Proof.Machine.execAmoAdd d a b f x g s
  | .amoAnd d a b f x g => Sys2Proof.Machine.execAmoAnd d a b f x g s
  | .amoOr d a b f x g => Sys2Proof.Machine.execAmoOr d a b f x g s
  | .amoXor d a b f x g => Sys2Proof.Machine.execAmoXor d a b f x g s
  | .amoMin d a b f x g => Sys2Proof.Machine.execAmoMin d a b f x g s
  | .amoMax d a b f x g => Sys2Proof.Machine.execAmoMax d a b f x g s
  | .amoMinu d a b f x g => Sys2Proof.Machine.execAmoMinu d a b f x g s
  | .amoMaxu d a b f x g => Sys2Proof.Machine.execAmoMaxu d a b f x g s
  | .amoSwap d a b f x g => Sys2Proof.Machine.execAmoSwap d a b f x g s
  | .cas d a b f x g => Sys2Proof.Machine.execCas d a b f x g s
  | .fence scope x g => Sys2Proof.Machine.execFence scope x g s
  | .publish d a scope x g => Sys2Proof.Machine.execPublish d a scope x g s
  | .wrdLocal d imm m g => Sys2Proof.Machine.execWrdLocal d imm m g s
  | .wflLocal d imm m g => Sys2Proof.Machine.execWflLocal d imm m g s
  | .wshrLocal imm m x g => Sys2Proof.Machine.execWshrLocal imm m x g s
  | .wstLocal d imm m g => Sys2Proof.Machine.execWstLocal d imm m g s
  | .wrdCore d a b x g => Sys2Proof.Machine.execWrdCore d a b x g s
  | .wflCore d a b x g => Sys2Proof.Machine.execWflCore d a b x g s
  | .wshrCore d a b x g => Sys2Proof.Machine.execWshrCore d a b x g s
  | .wstCore d a b x g => Sys2Proof.Machine.execWstCore d a b x g s
  | .sbind d a t slot g => Sys2Proof.Machine.execSbind d a t slot g s
  | .sgo d a t slot g => Sys2Proof.Machine.execSgo d a t slot g s
  | .sstop d a t slot g => Sys2Proof.Machine.execSstop d a t slot g s
  | .sbar d a t slot g => Sys2Proof.Machine.execSbar d a t slot g s
  | .cfgLoad d a x g => Sys2Proof.Machine.execCfgLoad d a x g s
  | .cfgShadow d a x g => Sys2Proof.Machine.execCfgShadow d a x g s
  | .cfgSwap d a x g => Sys2Proof.Machine.execCfgSwap d a x g s
  | .cfgDrain d a x g => Sys2Proof.Machine.execCfgDrain d a x g s
  | .cfgPhase d a x g => Sys2Proof.Machine.execCfgPhase d a x g s
  | .cfgSig d a x g => Sys2Proof.Machine.execCfgSig d a x g s
  | .swapPlace core win => Sys2Proof.Machine.execSwapPlace core win s
  | .flip core => Sys2Proof.Machine.execFlip core s
  | .swapPortSend core port => Sys2Proof.Machine.execSwapPortSend core port s
  | .stillnessReport region => Sys2Proof.Machine.execStillnessReport region s
  | .drainComplete region => Sys2Proof.Machine.execDrainComplete region s
  | .taskFill a b m x g => Sys2Proof.Machine.execTaskFill a b m x g s
  | .taskTake d a b m x g => Sys2Proof.Machine.execTaskTake d a b m x g s
  | .taskSteal d a b m x g => Sys2Proof.Machine.execTaskSteal d a b m x g s
  | .taskDone d a b m x g => Sys2Proof.Machine.execTaskDone d a b m x g s
  | .launch d a b m x g => Sys2Proof.Machine.execLaunch d a b m x g s
  | .xlat d a scope all x g => Sys2Proof.Machine.execXlat d a scope all x g s
  | .tlbinv d a scope all x g => Sys2Proof.Machine.execTlbinv d a scope all x g s
  | .relatch d a scope all x g => Sys2Proof.Machine.execRelatch d a scope all x g s
  | .relatchToken core index => Sys2Proof.Machine.execRelatchToken core index s
  | .lantReq d a x g => Sys2Proof.Machine.execLantReq d a x g s
  | .lantRel d a x g => Sys2Proof.Machine.execLantRel d a x g s
  | .netWrite d a b x g => Sys2Proof.Machine.execNetWrite d a b x g s
  | .netRead d a b x g => Sys2Proof.Machine.execNetRead d a b x g s
  | .netSend d a b x g => Sys2Proof.Machine.execNetSend d a b x g s
  | .netStat d a b x g => Sys2Proof.Machine.execNetStat d a b x g s
  | .netBind d a b x g => Sys2Proof.Machine.execNetBind d a b x g s
  | .csrr d a csr g => Sys2Proof.Machine.execCsrr d a csr g s
  | .csrw a csr x g => Sys2Proof.Machine.execCsrw a csr x g s
  | .time d x g => Sys2Proof.Machine.execTime d x g s
  | .regionEnd region => Sys2Proof.Machine.execRegionEnd region s
  | .regionFreeze region => Sys2Proof.Machine.execRegionFreeze region s
  | .regionRestore region => Sys2Proof.Machine.execRegionRestore region s
  | .diePacketDeliver index => Sys2Proof.Machine.execDiePacketDeliver index s
  | .sliceApply index => Sys2Proof.Machine.execSliceApply index s
  | .pageWalkComplete cluster ctx va => Sys2Proof.Machine.execPageWalkComplete cluster ctx va s
  | .vugHomeApply index => Sys2Proof.Machine.execVugHomeApply index s
  | .poolChange descriptor => Sys2Proof.Machine.execPoolChange descriptor s
  | .arbitrationRound die => Sys2Proof.Machine.execArbitrationRound die s
  | .dispatchCopy => Sys2Proof.Machine.execDispatchCopy s
  | .packetCompletion index => Sys2Proof.Machine.execPacketCompletion index s
  | .packageEvent index => Sys2Proof.Machine.execPackageEvent index s
  | .queueAppend queue packet whole => Sys2Proof.Machine.execQueueAppend queue packet whole s
  | .completionHeadWrite window value => Sys2Proof.Machine.execCompletionHeadWrite window value s
  | .feataWrite high value => Sys2Proof.Machine.execFeataWrite high value s
  | .hostRegisterWrite offset value => Sys2Proof.Machine.execHostRegisterWrite offset value s
  | .dieRegisterWrite die seq => Sys2Proof.Machine.execDieRegisterWrite die seq s
  | .setBypassLimit start => Sys2Proof.Machine.execSetBypassLimit start s
  | .ctxCreate => Sys2Proof.Machine.execCtxCreate s
  | .ctxDestroy => Sys2Proof.Machine.execCtxDestroy s
  | .qCreate => Sys2Proof.Machine.execQCreate s
  | .qDestroy => Sys2Proof.Machine.execQDestroy s
  | .cancel => Sys2Proof.Machine.execCancel s
  | .preempt => Sys2Proof.Machine.execPreempt s
  | .restore => Sys2Proof.Machine.execRestore s
  | .quote => Sys2Proof.Machine.execQuote s
  | .mailboxUnknown => Sys2Proof.Machine.execMailboxUnknown s
  | .clockStep up => Sys2Proof.Machine.execClockStep up s
  | .bandwidthDegraded on => Sys2Proof.Machine.execBandwidthDegraded on s
  | .bringUp fail => Sys2Proof.Machine.execBringUp fail s
  | .ucieRetrain ok => Sys2Proof.Machine.execUcieRetrain ok s
  | .messagePacketPlace packet => Sys2Proof.Machine.execMessagePacketPlace packet s
  | .netReadServe handle msg addr span => Sys2Proof.Machine.execNetReadServe handle msg addr span s
  | .remoteCompletion handle msg => Sys2Proof.Machine.execRemoteCompletion handle msg s
  | .localCompletion index answer => Sys2Proof.Machine.execLocalCompletion index answer s
  | .packetRetransmit index packet => Sys2Proof.Machine.execPacketRetransmit index packet s
  | .ackReceive handle ack => Sys2Proof.Machine.execAckReceive handle ack s
  | .connectionFail failure => Sys2Proof.Machine.execConnectionFail failure s
  | .linkLevelRetry replay => Sys2Proof.Machine.execLinkLevelRetry replay s
  | .linkOutOfService port => Sys2Proof.Machine.execLinkOutOfService port s
  | .hardLimitStop => Sys2Proof.Machine.execHardLimitStop s

end Sys2Proof.Machine
end

