-- ==== Sys2Proof/Machine/Early.lean ====
section
/-! DEFINITION. Reads that a unit makes before their turn (07 R169; 08 R182, R208). -/

namespace Sys2Proof.Machine

/-- What comes of a move that reads before its turn. -/
def State.readMove (s : State) : Cue → State
  | .ahead q k => s.issueAhead q k
  | .early q va n => s.readEarly q va n
  | .recall q => s.recall q
  | .pointer n e i => s.pointerAhead n e i
  | _ => s

end Sys2Proof.Machine
end

