-- ==== Sys2Proof/Machine/Step.lean ====
section
/-! DEFINITION. One step of the module (log 1): the next move of the agenda, and the instruction or event that it comes to. -/

namespace Sys2Proof.Machine

/-- Run what a move comes to. -/
def Fetched.outcome : Fetched → Host.Outcome State Fault Refusal
  | .run i s => exec i s
  | .reads c s => .next (s.readMove c)
  | .done s => .next s

/-- One step: after the hard limit the module stands still (R356); otherwise the next move of the agenda. -/
def step (s : State) : Host.Outcome State Fault Refusal :=
  if s.pkg.stopped then .fault .moduleStopped
  else (s.nextCue.2.fetch s.nextCue.1).outcome

/-- s with one word where the next step finds it: a stage word in a handler record that fires, a sequencer word in a block in issue (log 5). -/
def State.withFetchWord (s : State) (nbits w : Nat) : State :=
  { s.placeWord (BitVec.ofNat 32 (w % 2 ^ nbits)) with pkg := { s.pkg with stopped := false, roundsDue := [] } }

end Sys2Proof.Machine
end

