-- ==== Sys2Proof/Safety.lean ====
section
/-! DEFINITION. A safe run: no step of it stops the module. -/

namespace Sys2Proof

open Machine

/-- The first k steps from s all give a next state. -/
def SafeFor : Nat → State → Prop
  | 0, _ => True
  | k + 1, s => match step s with
    | .next t => SafeFor k t
    | .fault _ => False
    | .refused _ => False

end Sys2Proof
end

