-- ==== Sys2Proof/Certificates/Slice0/Obligations.lean ====
section
/-! DEFINITION. The statements for the provers: what the rules of the spec say, of this model. The terms they share stand in Sys2Proof.Claims. -/

namespace Sys2Proof.Claims

open Sys2Proof.Machine

/-! ## Words of a sequencer -/

/-- A sequencer stands at the head of its block in issue, and no reply to an earlier block is still to write a register that the word reads
(R183). -/
structure WordReady (s : State) (q : Nat) (b : Block) (reads : List Reg) : Prop where
  focus : s.focus = .seq q
  block : (s.seq q).blk = some b
  there : ∀ r ∈ reads, r = 0 ∨ r ∈ b.written ∨ ∀ a ∈ (s.seq q).awaits, r ∉ a.regs

/-- The word has issued: the block goes on with what the word left of it, and nothing else of the module has changed. -/
def issued (s : State) (q : Nat) (b b' : Block) : State :=
  s.setSeq q { s.seq q with blk := some { b' with idx := b.idx + 1, waiting := false } }

/-- SWARN as a word leaves it: CRD (bit 5) when it reads a register that an earlier word of the block leaves to a reply (R183), MBZ (bit 4) when
a field that must be 0 is not (R215), and what else it sets. -/
def warned (b : Block) (reads : List Reg) (mbz : Bool) (more : Word) : Word :=
  b.swarn ||| more ||| (if reads.any (fun r => r != 0 && b.pendingRegs.contains r) then 0x20 else 0) ||| (if mbz then 0x10 else 0)

/-- A block in which an issue effect has written a register. -/
def wrote (b : Block) (d : Reg) (x : Word) (warn : Word) : Block :=
  { b with regs := writeReg b.regs d x, written := d :: b.written, pendingRegs := b.pendingRegs.filter (· != d), swarn := warn }

/-- A word of two operands writes f of them, with a warning of its own. -/
def BinaryWord (i : Reg → Reg → Reg → Bool → Pred → Instr) (f warn : Word → Word → Word) : Prop :=
  ∀ s q b d a c x g, WordReady s q b [a, c] →
    exec (i d a c x g) s =
      .next (issued s q b (wrote b d (f (readReg b.regs a) (readReg b.regs c))
        (warned b [a, c] x (warn (readReg b.regs a) (readReg b.regs c)))))

/-- A word of one operand and an unused register field writes f of the operand. -/
def UnaryWord (i : Reg → Reg → Reg → Bool → Pred → Instr) (f : Word → Word) : Prop :=
  ∀ s q b d a c x g, WordReady s q b [a] →
    exec (i d a c x g) s = .next (issued s q b (wrote b d (f (readReg b.regs a)) (warned b [a] x 0)))

/-- What a word that reads no memory reads: the value that stands now, or the one that it has read before earlier words of its block (R182). -/
def seesAhead (b : Block) (now : Word) : Word := ((b.reads.find? fun p => p.1 == b.idx).map (·.2)).getD now

/-- No warning. -/
def quietly : Word → Word → Word := fun _ _ => 0
/-- DIVZ (R192). -/
def divz : Word → Word → Word := fun _ v => if v = 0 then 0x40 else 0

/-- Number of 1 bits, and of 0 bits above the highest and below the lowest 1 bit, of a 64-bit word. -/
def ones (x : Word) : Nat := ((List.range 64).filter fun i => x.getLsbD i).length
def zerosAbove (x : Word) : Nat := ((List.range 64).takeWhile fun i => !x.getLsbD (63 - i)).length
def zerosBelow (x : Word) : Nat := ((List.range 64).takeWhile fun i => !x.getLsbD i).length

end Sys2Proof.Claims

open Sys2Proof Sys2Proof.Machine Sys2Proof.Claims

/-- R191, R192: the three-register words of the sequencer write the value the rules give, in their working copy, and change nothing else. -/
def Sys2Proof.Claims.IntegerWordsWriteTheirResults : Prop :=
  BinaryWord .add (fun u v => u + v) quietly ∧ BinaryWord .sub (fun u v => u - v) quietly ∧ BinaryWord .mul (fun u v => u * v) quietly
  ∧ BinaryWord .mulh (fun u v => BitVec.ofInt 64 (Int.fdiv (u.toInt * v.toInt) (2 ^ 64))) quietly
  ∧ BinaryWord .mulhu (fun u v => BitVec.ofNat 64 (u.toNat * v.toNat / 2 ^ 64)) quietly
  ∧ BinaryWord .div (fun u v => if v = 0 then BitVec.allOnes 64 else BitVec.ofInt 64 (u.toInt.tdiv v.toInt)) divz
  ∧ BinaryWord .divu (fun u v => if v = 0 then BitVec.allOnes 64 else u / v) divz
  ∧ BinaryWord .rem (fun u v => if v = 0 then u else BitVec.ofInt 64 (u.toInt.tmod v.toInt)) divz
  ∧ BinaryWord .remu (fun u v => if v = 0 then u else u % v) divz
  ∧ BinaryWord .andW (fun u v => u &&& v) quietly ∧ BinaryWord .orW (fun u v => u ||| v) quietly
  ∧ BinaryWord .xorW (fun u v => u ^^^ v) quietly
  ∧ BinaryWord .shl (fun u v => u <<< (v.toNat % 64)) quietly ∧ BinaryWord .shr (fun u v => u >>> (v.toNat % 64)) quietly
  ∧ BinaryWord .sra (fun u v => u.sshiftRight (v.toNat % 64)) quietly
  ∧ BinaryWord .minW (fun u v => if u.toInt < v.toInt then u else v) quietly
  ∧ BinaryWord .maxW (fun u v => if v.toInt < u.toInt then u else v) quietly
  ∧ BinaryWord .minu (fun u v => if u.toNat < v.toNat then u else v) quietly
  ∧ BinaryWord .maxu (fun u v => if v.toNat < u.toNat then u else v) quietly

/-- R191: the counts of bits write a number of 0 to 64. -/
def Sys2Proof.Claims.BitCountWordsCount : Prop :=
  UnaryWord .popc (fun u => BitVec.ofNat 64 (ones u)) ∧ UnaryWord .clz (fun u => BitVec.ofNat 64 (zerosAbove u))
  ∧ UnaryWord .ctz (fun u => BitVec.ofNat 64 (zerosBelow u))

/-- R191, R192: the integer words of the sequencer, with the bit counts, write the value the rules give into their working copy, and change nothing
else. -/
def Obligations.IntegerWordsWriteTheirResults : Prop := Claims.IntegerWordsWriteTheirResults ∧ Claims.BitCountWordsCount

namespace Sys2Proof.Claims

open Sys2Proof.Machine

/-- A word of one operand and no further field writes f of it. -/
def ImmWord (i : Pred → Instr) (d a : Reg) (x : Bool) (f : Word → Word) : Prop :=
  ∀ s q b g, WordReady s q b [a] → exec (i g) s = .next (issued s q b (wrote b d (f (readReg b.regs a)) (warned b [a] x 0)))

/-- The condition of R195. -/
def condition (c : BitVec 3) (u v : Word) : Bool :=
  if c = 0 then u == v else if c = 1 then u != v else if c = 2 then BitVec.slt u v else if c = 3 then BitVec.ult u v
  else if c = 4 then BitVec.sle v u else if c = 5 then BitVec.ule v u else false

/-- A block in which a predicate has been written. -/
def wrotePred (b : Block) (p : Pred) (y : Bool) (warn : Word) : Block := { b with preds := writePred b.preds p y, swarn := warn }

/-- A predicate word writes a predicate. -/
def PredWord (i : Pred → Instr) (p : Pred) (x : Bool) (f : Block → Bool) : Prop :=
  ∀ s q b g, WordReady s q b [] → exec (i g) s = .next (issued s q b (wrotePred b p (f b) (warned b [] x 0)))

/-- A closing word leaves its mark, the first of a block for all of them (R184). -/
def ClosingWord (i : Pred → Instr) (x : Bool) (c : Block → Closing) : Prop :=
  ∀ s q b g, WordReady s q b [] →
    exec (i g) s = .next (issued s q b { b with closing := some (b.closing.getD (c b)), swarn := warned b [] x 0 })

/-- A control target in a register: bits 63:56 are 0 and it is a multiple of 4 (R185). -/
def goodTarget (u : Word) : Prop := u.toNat < 2 ^ 56 ∧ u.toNat % 4 = 0

/-- Exit words that stand before the head of the block (R184). -/
def exitsBefore (b : Block) : Nat := ((b.words.take b.idx).filter isExitWord).length

/-- The block has issued its last word, it is the only thing the sequencer has to commit, no item and no take of an earlier block is outstanding,
and no freeze holds its effects. -/
structure BlockDone (s : State) (q : Nat) (b : Block) (effects : List Queued) : Prop where
  block : (s.seq q).blk = some b
  last : b.idx = b.words.length
  runs : (s.seq q).doubleTrapped = false
  sent : (s.seq q).outbox = []
  suspended : (s.seq q).suspended = []
  free : (s.seq q).items = []
  taken : ∀ a ∈ (s.seq q).awaits, a.isTake = false
  flows : ∀ r, s.regionOfSeq q = some r → r.freezing = false
  effects : b.effects = effects

/-- A sequencer after the commit of a block, before its effects and its closing word act (R183, R184). -/
def committed (v : Seq) (b : Block) : Seq :=
  { v with regs := b.regs, preds := b.preds, swarn := v.swarn ||| b.swarn, blocks := v.blocks + 1, blk := none }

/-- The natural successor of a block: the target of its first true exit, else the address after it (R184). -/
def successor (v : Seq) (b : Block) : BitVec 56 := b.exitTo.getD (v.pc + BitVec.ofNat 56 (4 + 4 * b.words.length))

/-- One identity has been given out. -/
def oneId (s : State) : State := { s with nextId := s.nextId + 1 }

/-- ECAUSE as R188 lays it out: the cause in bits 3:0, the word index in bits 15:8, the code of `trap` in bits 30:16. -/
def ecause (cause idx code : Nat) : Word := BitVec.ofNat 64 (cause % 16 + idx % 256 * 256 + code % 32768 * 65536)

/-- A sequencer whose trap handler is entered (R187). -/
def trapped (v : Seq) (epc ec addr : Word) : Seq :=
  { v with blk := none, wait := .none, epc := epc, ecause := ec, eaddr := addr, tl := true, pc := v.tvec.setWidth 56 }

/-- A double trap is reported with two sets of values (R190): that of an owner fails its packet, with the cause of the double-trapping trap (R343);
that of a member goes to the owner as a record of cause 1 (R261). -/
def reported (s : State) (q : Nat) (epc ec : Word) : State :=
  match s.regionOfSeq q with
  | none => s
  | some r =>
    if r.owner = q then
      { s with pkg := { s.pkg with live := s.pkg.live.map fun p =>
          if p.queue = r.queue ∧ p.seqno = r.seqno then { p with status := 5, reason := ec.toNat % 16 } else p } }
    else s.record r (.seq q) 1 0 0 0 epc (BitVec.ofNat 64 (ec.toNat % 2 ^ 32 + 2 ^ 32 * ((s.seq q).ecause.toNat % 2 ^ 32)))

/-- A synchronous trap of a sequencer. With TL = 0 its handler is entered (R187); with TL = 1 it is a double trap: the sequencer stops, no CSR is
written, and the trap is reported (R190). -/
def traps (s : State) (q : Nat) (epc ec addr : Word) : State :=
  let v := s.seq q
  if v.tl then reported (s.setSeq q { v with blk := none, doubleTrapped := true }) q epc ec else s.setSeq q (trapped v epc ec addr)

/-- The block in issue waits at its word (R186, R189). -/
def waitsAt (s : State) (q : Nat) (b : Block) : Host.Outcome State Fault Refusal :=
  .next (s.setSeq q { s.seq q with blk := some { b with waiting := true } })

end Sys2Proof.Claims

/-- R193, R194: the words with an immediate and the words that write constants and addresses. -/
def Sys2Proof.Claims.ImmediateWordsWriteTheirResults : Prop :=
  ∀ (d a : Reg) (imm : BitVec 13) (n : BitVec 6) (x : Bool) (h : BitVec 2) (k : BitVec 16),
    ImmWord (.addi d a imm) d a false (fun u => u + imm.signExtend 64)
    ∧ ImmWord (.andi d a imm) d a false (fun u => u &&& imm.signExtend 64)
    ∧ ImmWord (.ori d a imm) d a false (fun u => u ||| imm.signExtend 64)
    ∧ ImmWord (.xori d a imm) d a false (fun u => u ^^^ imm.signExtend 64)
    ∧ ImmWord (.shli d a n x) d a x (fun u => u <<< n.toNat)
    ∧ ImmWord (.shri d a n x) d a x (fun u => u >>> n.toNat)
    ∧ ImmWord (.srai d a n x) d a x (fun u => u.sshiftRight n.toNat)
    ∧ ImmWord (.lui d h k) d d false
        (fun u => (u &&& ~~~(BitVec.ofNat 64 (0xFFFF * 2 ^ (16 * h.toNat)))) ||| BitVec.ofNat 64 (k.toNat * 2 ^ (16 * h.toNat)))

/-- R194: `li` writes its sign-extended immediate, `lea` an address relative to the block's header. -/
def Sys2Proof.Claims.ConstantsAndAddresses : Prop :=
  ∀ s q b (d : Reg) (imm : BitVec 18) (g : Pred), WordReady s q b [] →
    exec (.li d imm g) s = .next (issued s q b (wrote b d (imm.signExtend 64) (warned b [] false 0)))
    ∧ exec (.lea d imm g) s =
        .next (issued s q b (wrote b d ((s.seq q).pc.setWidth 64 + BitVec.ofInt 64 (4 * imm.toInt)) (warned b [] false 0)))

/-- R195, R196 and `sel` of R191: compares and the predicate words write predicates; `sel` chooses by one. -/
def Obligations.ComparesAndPredicates : Prop :=
  (∀ (p a c : Pred) (x : Bool),
    PredWord (.pand p a c x) p x (fun b => readPred b.preds a && readPred b.preds c)
    ∧ PredWord (.por p a c x) p x (fun b => readPred b.preds a || readPred b.preds c)
    ∧ PredWord (.pnot p a x) p x (fun b => !readPred b.preds a))
  ∧ (∀ s q b (p : Pred) (a c : Reg) (k : BitVec 3) (x : Bool) (g : Pred), WordReady s q b [a, c] →
      exec (.cmp p a c k x g) s =
        .next (issued s q b (wrotePred b p (condition k (readReg b.regs a) (readReg b.regs c))
          (warned b [a, c] x (if 6 ≤ k.toNat then 0x8 else 0)))))
  ∧ (∀ s q b (d a c : Reg) (p g : Pred), WordReady s q b [a, c] →
      exec (.seqSel d a c p g) s =
        .next (issued s q b (wrote b d (if readPred b.preds p then readReg b.regs a else readReg b.regs c) (warned b [a, c] false 0))))

/-- R184 to R186: what the control words leave in the block, for its commit. A closing word after the first leaves no mark; `ret` then
reads no register. -/
def Sys2Proof.Claims.ControlWordsMarkTheBlock : Prop :=
  (∀ x, ClosingWord (.halt x) x (fun _ => .halt) ∧ ClosingWord (.wfe x) x (fun _ => .wfe) ∧ ClosingWord (.yield x) x (fun _ => .yield)
    ∧ ClosingWord (.eret x) x (fun _ => .eret))
  ∧ (∀ code x, ClosingWord (.trap code x) x (fun b => .trap code b.idx))
  ∧ (∀ s q b d (imm : BitVec 18) g, WordReady s q b [] →
      exec (.call d imm g) s =
        .next (issued s q b { b with closing := some (b.closing.getD (.call d ((s.seq q).pc + BitVec.ofInt 56 (4 * imm.toInt)))) }))
  ∧ (∀ s q b a x g, WordReady s q b [a] → b.closing = none → goodTarget (readReg b.regs a) →
      exec (.ret a x g) s =
        .next (issued s q b { b with closing := some (.ret ((readReg b.regs a).setWidth 56)), swarn := warned b [a] x 0 }))
  ∧ (∀ s q b a x g c, WordReady s q b [] → b.closing = some c →
      exec (.ret a x g) s = .next (issued s q b { b with swarn := warned b [] x 0 }))

/-- R184, R185: the first of at most four true exits names the successor; a later exit word of the block acts as `nop`. `nop` leaves
nothing, a reserved function RSVF (R186, R215). -/
def Sys2Proof.Claims.ExitWordsNameTheSuccessor : Prop :=
  (∀ s q b (off : BitVec 23) g, WordReady s q b [] →
      exec (.exitWord off g) s =
        .next (issued s q b (if exitsBefore b < 4 then { b with exitTo := some (b.exitTo.getD ((s.seq q).pc + BitVec.ofInt 56 (4 * off.toInt))) } else b)))
  ∧ (∀ s q b a x g, WordReady s q b [a] → exitsBefore b < 4 → goodTarget (readReg b.regs a) →
      exec (.exitr a x g) s =
        .next (issued s q b { b with exitTo := some (b.exitTo.getD ((readReg b.regs a).setWidth 56)), swarn := warned b [a] x 0 }))
  ∧ (∀ s q b k x g, WordReady s q b [] →
      exec (.seqNop k x g) s = .next (issued s q b { b with swarn := warned b [] x (if k = .plain then 0 else 0x8) }))

/-- R187, R188, R190: a control target that no block can begin at makes the word trap: the block is discarded, EPC names it, ECAUSE holds the cause
and the word's index, EADDR the register, TL is set and control passes to TVEC. -/
def Sys2Proof.Claims.BadControlTargetTraps : Prop :=
  ∀ s q b a x g, WordReady s q b [a] → ¬ goodTarget (readReg b.regs a) →
    let trap := Host.Outcome.next (φ := Fault) (ρ := Refusal) (traps s q ((s.seq q).pc.setWidth 64)
      (ecause (if 2 ^ 56 ≤ (readReg b.regs a).toNat then 4 else 3) b.idx 0) (readReg b.regs a))
    (b.closing = none → exec (.ret a x g) s = trap) ∧ (exitsBefore b < 4 → exec (.exitr a x g) s = trap)

/-- R183, R184, R186: the commit of a block without effects makes its working registers and predicates architectural, and does what its closing word
says. Choices of the model: log 52. -/
def Obligations.CommitFollowsTheClosingWord : Prop :=
  ∀ s q b, BlockDone s q b [] →
    let v := s.seq q
    let next := successor v b
    (b.closing = none → exec (.blockCommit q) s = .next ((oneId s).setSeq q { committed v b with pc := next }))
    ∧ (∀ d target, b.closing = some (.call d target) →
        exec (.blockCommit q) s =
          .next ((oneId s).setSeq q { committed v b with pc := target, regs := writeReg b.regs d (next.setWidth 64) }))
    ∧ (∀ target, b.closing = some (.ret target) → exec (.blockCommit q) s = .next ((oneId s).setSeq q { committed v b with pc := target }))
    ∧ (b.closing = some .eret → exec (.blockCommit q) s = .next ((oneId s).setSeq q { committed v b with pc := v.epc.setWidth 56, tl := false }))
    ∧ (b.closing = some .halt → exec (.blockCommit q) s = .next ((oneId s).setSeq q { committed v b with pc := next, halted := true }))
    ∧ (b.closing = some .wfe → exec (.blockCommit q) s =
        .next ((oneId s).setSeq q (if v.wake = 0 ∧ v.eie = false then { committed v b with pc := next, swarn := v.swarn ||| b.swarn ||| 0x4 }
          else { committed v b with pc := next, wait := .wfe })))
    ∧ (b.closing = some .yield → exec (.blockCommit q) s =
        .next ((oneId s).setSeq q { committed v b with pc := next, wait := .yield (s.now + 64) }))
    ∧ (∀ code idx, b.closing = some (.trap code idx) → exec (.blockCommit q) s =
        .next (traps ((oneId s).setSeq q (committed v b)) q (next.setWidth 64) (ecause 10 idx code.toNat) 0))

/-- R193, R194: the words with an immediate, and those that write constants and addresses. -/
def Obligations.ImmediateWordsWriteTheirResults : Prop := Claims.ImmediateWordsWriteTheirResults ∧ Claims.ConstantsAndAddresses

/-- R184 to R186: what the control words and the exit words leave in the block, for its commit. -/
def Obligations.ControlWordsMarkTheBlock : Prop := Claims.ControlWordsMarkTheBlock ∧ Claims.ExitWordsNameTheSuccessor

namespace Sys2Proof.Claims

open Sys2Proof.Machine

/-- An access of n bytes at an address made from register value u goes through: the register's high bits are 0, the address is no control
address and is aligned, it translates (f, with the TLBs as the walk leaves them in s'), and the page may be written where it must be (R198). -/
structure Reaches (s : State) (q : Nat) (u : Word) (va n : Nat) (write : Bool) (f : Found) (s' : State) : Prop where
  high : u.toNat < 2 ^ 56
  plain : isControl va = false
  aligned : va % n = 0
  found : ∃ r, s.regionOfSeq q = some r ∧ s.translate q r.ctx va true (s.blockReader q) = (.ok f, s')
  may : write = true → f.tr.writable = true

/-- The limit of R198 leaves room for one more outstanding item. -/
def HasRoom (s : State) (q : Nat) (b : Block) : Prop := WordCtx.itemsFull ⟨q, s.seq q, b⟩ = false

/-- The address of a memory word: bits 55:0 of the register plus the offset times the size. -/
def address (u : Word) (off : Int) : Nat := (u.setWidth 56 + BitVec.ofInt 56 off).toNat

/-- A value of n bytes as a register receives it: zero-extended with U, else sign-extended (R199). -/
def loaded (n : Nat) (u : BitVec 1) (v : Nat) : Word := if u = 1 then BitVec.ofNat 64 v else (BitVec.ofNat (8 * n) v).signExtend 64

/-- UNSG (R199, R215). -/
def unsg (c : Bool) : Word := if c then 0x1000 else 0

/-- The load of the word at the head has not been sent, and no access of an earlier block holds it back (R208, R210), nor one before a fence of its own
block (R209; log 154). -/
structure LoadReady (s : State) (q : Nat) (b : Block) (va n : Nat) : Prop where
  fresh : ∀ l ∈ b.loads, l.idx ≠ b.idx
  held : (s.seq q).loadWaits va n = false
  fenced : WordCtx.fenceHolds ⟨q, s.seq q, b⟩ b.idx = false

/-- The load of the word at the head goes out to the unit that holds its bytes, and the block stays at the word (R198). -/
def loading (s : State) (q : Nat) (b : Block) (va n : Nat) (f : Found) : State :=
  let a : Access := { id := s.nextId, source := .seq q, op := .load, va := va, place := f.place, size := n, data := [], aq := false, rl := false,
                      tag := 0, code := 0 }
  let t : State := { s with nextId := s.nextId + 1, net := s.net ++ [⟨.req, .seq q, accessUnit f.place, .access a⟩] }
  t.setSeq q { t.seq q with blk := some { b with loads := ⟨b.idx, [⟨s.nextId, va, n, []⟩]⟩ :: b.loads, waiting := false } }

/-- The load of the word at the head has been sent, and all of its parts have performed: what they came to. -/
structure LoadBack (b : Block) (l : BlockLoad) (g : Gathered) : Prop where
  sent : b.loads.find? (fun x => x.idx == b.idx) = some l
  back : gatherPieces l.pieces = g

/-- An access covers a byte. -/
def covers (x : Access) (a : Nat) : Bool := decide (x.span.1 ≤ a) && decide (a < x.span.1 + x.span.2)
/-- The latest store of the block that covers a byte gives it (R200). -/
def ownStore (effects : List Queued) (a : Nat) : Option Byte :=
  (effects.reverse.findSome? fun e => match e.eff with | .access x => if x.op = .store ∧ covers x a then some x.data[a - x.va]? else none | _ => none).join
/-- The latest access of the block that covers a byte is an atomic or an erase, whose result a load of the block does not see (R183). -/
def ownAtomic (effects : List Queued) (a : Nat) : Bool :=
  (effects.reverse.findSome? fun e => match e.eff with | .access x => if covers x a then some (x.op != .store) else none | _ => none).getD false
/-- The value that a load of a block sees, from what memory holds: the bytes of the block's own stores in place of memory's (R200). -/
def blockSees (b : Block) (va n m : Nat) : Nat :=
  leValue ((List.range n).map fun k => (ownStore b.effects (va + k)).getD (BitVec.ofNat 8 (m / 2 ^ (8 * k))))
/-- CRD where an atomic or an erase of the block changes a byte (R183). -/
def loadCrd (b : Block) (va n : Nat) : Word := if (List.range n).any fun k => ownAtomic b.effects (va + k) then 0x20 else 0
/-- The load has ended: its word leaves the head. -/
def loadEnded (b : Block) : Block := { b with loads := b.loads.filter fun l => l.idx != b.idx }

/-- A block with one more commit effect, whose reply is to write some registers. -/
def queued (s : State) (q : Nat) (b : Block) (e : Effect) (regs : List Reg) (warn : Word) : Block :=
  { b with effects := b.effects ++ [⟨s.nextId, (s.seq q).blocks.toNat, e, regs⟩], pendingRegs := regs.filter (· != 0) ++ b.pendingRegs,
           swarn := warn }

/-- The access that a memory word of the sequencer queues. -/
def accessOf (s : State) (q : Nat) (op : AccessOp) (va : Nat) (f : Found) (n : Nat) (data : List Byte) (aq rl : Bool) (code : Code) : Access :=
  { id := s.nextId, source := .seq q, op := op, va := va, place := f.place, size := n, data := data, aq := aq, rl := rl,
    tag := (s.seq q).blocks.toNat, code := code }

/-- SCOPEX (bit 8) of a scope code (R207). -/
def scopex (scope : BitVec 4) : Word := if scope.toNat ≤ 2 ∨ 11 ≤ scope.toNat then 0x100 else 0

/-- An atomic of major opcode op queues one access, whose reply is to write sd. -/
def AtomicWord (i : Reg → Reg → Reg → AmoFields → Bool → Pred → Instr) (op : BitVec 6) : Prop :=
  ∀ s q b d a c (f : AmoFields) x g fo s', let n : Nat := if f.sz = 1 then 8 else 4; let u := readReg b.regs a
    WordReady s q b [a, c] → HasRoom s q b → Reaches s q u u.toNat n true fo s' →
    exec (i d a c f x g) s =
      .next (issued (oneId s') q b (queued s q b
        (.access (accessOf s q (.amo op) u.toNat fo n (leBytes n (readReg b.regs c).toNat) (f.aq == 1) (f.rl == 1)
          (codeOf (i d a c f x g)))) [d] (warned b [a, c] x (if f.aq = 1 ∨ f.rl = 1 then scopex f.scope else 0))))

/-- A local window is bound, and holds more than so many elements once everything that earlier words free and add is counted (R222). -/
structure Holds (s : State) (q : Nat) (b : Block) (m : BitVec 3) (n : Nat) : Prop where
  bound : bitAt ((s.seq q).desc m) 63 = true
  most : n < bv ((s.seq q).desc m) 32 13
  count : n < ((WordCtx.view ⟨q, s.seq q, b⟩).win m).filled

/-- A local window is bound and has room for one more element (R222). -/
structure Fits (s : State) (q : Nat) (b : Block) (m : BitVec 3) : Prop where
  bound : bitAt ((s.seq q).desc m) 63 = true
  count : ((WordCtx.view ⟨q, s.seq q, b⟩).win m).filled < bv ((s.seq q).desc m) 32 13

/-- The registers that hold an element of a local window: one, or four in a row for a record (R222). -/
def elementRegs (s : State) (q : Nat) (m : BitVec 3) (d : Reg) : List Reg :=
  if bitAt ((s.seq q).desc m) 62 then [d, d + 1, d + 2, d + 3] else [d]

end Sys2Proof.Claims

/-- R198 to R201, R208: `ld` and `ldx` send a load to the unit that holds their bytes, and stay at the head of the block until it has performed; then
they write its value, extended, with the bytes of the block's own earlier stores in place of memory's, and `ldx` also writes whether the tile exists
into its predicate. Choices of the model: log 7, 8, 31. -/
def Sys2Proof.Claims.LoadsReadTheFloor : Prop :=
  ∀ s q b d a (w : BitVec 2) (u : BitVec 1) g, let n : Nat := 2 ^ w.toNat
    (∀ off : BitVec 10, let va := address (readReg b.regs a) (off.toInt * n)
      WordReady s q b [a] →
      (∀ fo s1, LoadReady s q b va n → Reaches s q (readReg b.regs a) va n false fo s1 →
        exec (.ld d a w u off g) s = .next (loading s1 q b va n fo))
      ∧ (∀ l m there, (readReg b.regs a).toNat < 2 ^ 56 → isControl va = false → va % n = 0 → LoadBack b l (.value m there) →
        exec (.ld d a w u off g) s =
          .next (issued s q b (wrote (loadEnded b) d (loaded n u (blockSees b va n m))
            (warned b [a] false (unsg (u == 1 && w == 3) ||| loadCrd b va n))))))
    ∧ (∀ (p : Pred) (off : BitVec 7), let va := address (readReg b.regs a) (off.toInt * n)
      WordReady s q b [a] →
      (∀ fo s1, LoadReady s q b va n → Reaches s q (readReg b.regs a) va n false fo s1 →
        exec (.ldx d a w u p off g) s = .next (loading s1 q b va n fo))
      ∧ (∀ l m there, (readReg b.regs a).toNat < 2 ^ 56 → isControl va = false → va % n = 0 → LoadBack b l (.value m there) →
        exec (.ldx d a w u p off g) s =
          .next (issued s q b { wrote (loadEnded b) d (loaded n u (blockSees b va n m))
            (warned b [a] false (unsg (u == 1 && w == 3) ||| loadCrd b va n)) with preds := writePred b.preds p there })))

/-- R138, R208 to R210, R305: an `ld.d` of a control address reads the register of the core or the die that it names, behind the sequencer's own writes
there, behind its acquires, and behind the accesses before a fence of its block. Choices of the model: log 31, 58, 154. -/
def Sys2Proof.Claims.LoadsReadRegisters : Prop :=
  ∀ s q b d a (u : BitVec 1) (off : BitVec 10) g, let va := address (readReg b.regs a) (off.toInt * 8)
    WordReady s q b [a] → (readReg b.regs a).toNat < 2 ^ 56 → (s.seq q).acquiring = false → WordCtx.fenceHolds ⟨q, s.seq q, b⟩ b.idx = false →
    let reads (x : Word) := exec (.ld d a 3 u off g) s = .next (issued s q b (wrote b d (seesAhead b x) (warned b [a] false (unsg (u == 1)))))
    (∀ k, isDieControl va = true → dieControl va = some k → (s.seq q).writesRegister (.die (q / 256)) = false →
      reads (s.readDie (s.regionOfSeq q) (q / 256) k))
    ∧ (∀ r n k, isControl va = true → isDieControl va = false → s.regionOfSeq q = some r → s.coreControl r va = some (n, k) →
      (s.seq q).writesRegister (.core n) = false → reads (s.readCore n k))

/-- R138, R198 to R201, R208, R210, R305: `ld` issues its load where nothing holds it, and writes the value of the bytes at its address, extended, with
those that an earlier store of its block has for it; `ldx` also writes whether the tile exists into its predicate; `ld.d` of a control address reads
the register, or gives what was read there ahead; that it waits for the sequencer's own earlier writes to the registers of that unit, for its acquires,
and for the accesses of earlier blocks before a fence of its own block, and for nothing else is the model's reading. Choices of the model: log 7, 8,
31, 58, 154. -/
def Obligations.LoadsReadTheFloor : Prop := Claims.LoadsReadTheFloor ∧ Claims.LoadsReadRegisters

/-- R198, R183: a store queues one access of its size with the low bytes of its data register, and `verase` one erase; nothing is stored before
the commit. -/
def Sys2Proof.Claims.StoresAndErasesAreQueued : Prop :=
  (∀ s q b d a (w : BitVec 2) (u : BitVec 1) (off : BitVec 10) g fo s', let n : Nat := 2 ^ w.toNat; let va := address (readReg b.regs a) (off.toInt * n)
    WordReady s q b [a, d] → HasRoom s q b → Reaches s q (readReg b.regs a) va n true fo s' →
    exec (.st d a w u off g) s =
      .next (issued (oneId s') q b (queued s q b
        (.access (accessOf s q .store va fo n (leBytes n (readReg b.regs d).toNat) false false (codeOf (.st d a w u off g)))) []
        (warned b [a, d] false (unsg (u == 1))))))
  ∧ (∀ s q b a x g fo s', let u := readReg b.regs a
    WordReady s q b [a] → HasRoom s q b → Reaches s q u u.toNat 1 false fo s' → fo.tr.vug = true → fo.tr.writable = true →
    exec (.verase a x g) s =
      .next (issued (oneId s') q b (queued s q b
        (.access (accessOf s q .erase u.toNat fo 1 [] false false (codeOf (.verase a x g)))) [] (warned b [a] x 0))))
  ∧ (∀ s q b a x g fo s', let u := readReg b.regs a
    WordReady s q b [a] → HasRoom s q b → Reaches s q u u.toNat 1 false fo s' → fo.tr.vug = false →
    exec (.verase a x g) s = .next (issued s' q b { b with swarn := warned b [a] x 0x400 }))

/-- R204, R205: the atomics and `cas` queue one read-modify-write of 4 or 8 bytes each, whose reply is to write sd. -/
def Sys2Proof.Claims.AtomicsAreQueued : Prop :=
  AtomicWord .amoAdd 0x16 ∧ AtomicWord .amoAnd 0x17 ∧ AtomicWord .amoOr 0x18 ∧ AtomicWord .amoXor 0x19 ∧ AtomicWord .amoMin 0x1A
  ∧ AtomicWord .amoMax 0x1B ∧ AtomicWord .amoMinu 0x1C ∧ AtomicWord .amoMaxu 0x1D ∧ AtomicWord .amoSwap 0x1E
  ∧ ∀ s q b d a c (f : AmoFields) x g fo s', let n : Nat := if f.sz = 1 then 8 else 4; let u := readReg b.regs a
    WordReady s q b [a, c, d] → HasRoom s q b → Reaches s q u u.toNat n true fo s' →
    exec (.cas d a c f x g) s =
      .next (issued (oneId s') q b (queued s q b
        (.access (accessOf s q (.cas (readReg b.regs d)) u.toNat fo n (leBytes n (readReg b.regs c).toNat) (f.aq == 1) (f.rl == 1)
          (codeOf (.cas d a c f x g)))) [d] (warned b [a, c, d] x (if f.aq = 1 ∨ f.rl = 1 then scopex f.scope else 0))))

/-- What keeps an access of n bytes from its address makes the word trap, in this order (R187, R188, R198, R304): high bits in the register ADDR, a
control address where none is allowed CTL, an address that is not aligned ALIGN, one without a translation XLAT, one that is not granted, or may not be
written, PERM, and a walk that meets an uncorrectable error FLOOR. The word waits while a walk does (R300). -/
structure Sys2Proof.Claims.AddressTraps (s : State) (q : Nat) (b : Block) (i : Instr) (u : Word) (va n : Nat) (control write : Bool) (goes : Prop) :
    Prop where
  high : 2 ^ 56 ≤ u.toNat → exec i s = .next (traps s q ((s.seq q).pc.setWidth 64) (ecause 4 b.idx 0) u)
  plain : u.toNat < 2 ^ 56 → control = false → isControl va = true →
    exec i s = .next (traps s q ((s.seq q).pc.setWidth 64) (ecause 7 b.idx 0) (BitVec.ofNat 64 va))
  aligned : u.toNat < 2 ^ 56 → isControl va = false → va % n ≠ 0 →
    exec i s = .next (traps s q ((s.seq q).pc.setWidth 64) (ecause 3 b.idx 0) (BitVec.ofNat 64 va))
  found : ∀ r code s', goes → u.toNat < 2 ^ 56 → isControl va = false → va % n = 0 → s.regionOfSeq q = some r →
    s.translate q r.ctx va true (s.blockReader q) = (.error code, s') →
    (∀ cause, (code, cause) ∈ [(1, 5), (2, 6), (4, 9)] →
      exec i s = .next (traps s' q ((s.seq q).pc.setWidth 64) (ecause cause b.idx 0) (BitVec.ofNat 64 va)))
    ∧ (code = 5 → exec i s = waitsAt s' q b)
  may : ∀ r f s', goes → write = true → u.toNat < 2 ^ 56 → isControl va = false → va % n = 0 → s.regionOfSeq q = some r →
    s.translate q r.ctx va true (s.blockReader q) = (.ok f, s') → f.tr.writable = false →
    exec i s = .next (traps s' q ((s.seq q).pc.setWidth 64) (ecause 6 b.idx 0) (BitVec.ofNat 64 va))

/-- R187, R188, R190, R198: `ld`, `ldx`, `st` and `verase` trap where their address keeps them from it; a load that meets an uncorrectable error traps
FLOOR (R304); a control address that is no register's, or that an access of another size names, CTL (R138). -/
def Sys2Proof.Claims.BadAddressesTrap : Prop :=
  ∀ s q b d a (w : BitVec 2) (u : BitVec 1) (off : BitVec 10) (off' : BitVec 7) (p : Pred) x g, let n : Nat := 2 ^ w.toNat
    let base := readReg b.regs a; let va := address base (off.toInt * n); let va' := address base (off'.toInt * n)
    let traps_ (i : Instr) (cause va : Nat) := exec i s = .next (traps s q ((s.seq q).pc.setWidth 64) (ecause cause b.idx 0) (BitVec.ofNat 64 va))
    (WordReady s q b [a] →
      AddressTraps s q b (.ld d a w u off g) base va n (w == 3) false (LoadReady s q b va n)
      ∧ AddressTraps s q b (.ldx d a w u p off' g) base va' n false false (LoadReady s q b va' n)
      ∧ (∀ l bad, base.toNat < 2 ^ 56 → isControl va = false → va % n = 0 → LoadBack b l (.bad bad) → traps_ (.ld d a w u off g) 9 va)
      ∧ (∀ l bad, base.toNat < 2 ^ 56 → isControl va' = false → va' % n = 0 → LoadBack b l (.bad bad) → traps_ (.ldx d a w u p off' g) 9 va'))
    ∧ (WordReady s q b [a, d] → HasRoom s q b → AddressTraps s q b (.st d a w u off g) base va n (w == 3) true True)
    ∧ (WordReady s q b [a] → HasRoom s q b →
      AddressTraps s q b (.verase a x g) base base.toNat 1 false false True
      ∧ (∀ r f s', base.toNat < 2 ^ 56 → isControl base.toNat = false → s.regionOfSeq q = some r → s.translate q r.ctx base.toNat true (s.blockReader q) = (.ok f, s') →
        f.tr.vug = true → f.tr.writable = false →
        exec (.verase a x g) s = .next (traps s' q ((s.seq q).pc.setWidth 64) (ecause 6 b.idx 0) base)))
    ∧ (base.toNat < 2 ^ 56 → isControl va = true →
        (isDieControl va = true ∧ dieControl va = none) ∨ (isDieControl va = false ∧ ∀ r, s.regionOfSeq q = some r → s.coreControl r va = none) →
        w = 3 →
        (WordReady s q b [a] → traps_ (.ld d a w u off g) 7 va) ∧ (WordReady s q b [a, d] → HasRoom s q b → traps_ (.st d a w u off g) 7 va))

/-- R187, R188, R190, R198, R244: the atomics, `cas` and `task.done` trap where their address keeps them from it. That `task.done` traps ADDR on bits
63:56 of its register, as an access does, is the model's reading (log 94). -/
def Sys2Proof.Claims.AtomicsTrap : Prop :=
  ∀ s q b d a c (f : AmoFields) m x g, let n : Nat := if f.sz = 1 then 8 else 4; let u := readReg b.regs a
    HasRoom s q b →
    (WordReady s q b [a, c] → ∀ i ∈ [Instr.amoAdd d a c f x g, .amoAnd d a c f x g, .amoOr d a c f x g, .amoXor d a c f x g, .amoMin d a c f x g,
        .amoMax d a c f x g, .amoMinu d a c f x g, .amoMaxu d a c f x g, .amoSwap d a c f x g], AddressTraps s q b i u u.toNat n false true True)
    ∧ (WordReady s q b [a, c, d] → AddressTraps s q b (.cas d a c f x g) u u.toNat n false true True)
    ∧ (WordReady s q b [a] → AddressTraps s q b (.taskDone d a c m x g) u u.toNat 8 false true True)

/-- R209, R213: `fence` and `publish` queue what they do; a reserved scope code acts as CLUSTER or SYSTEM and sets SCOPEX. -/
def Obligations.OrderWordsAreQueued : Prop :=
  (∀ s q b (scope : BitVec 4) x g, WordReady s q b [] →
    exec (.fence scope x g) s =
      .next (issued (oneId s) q b (queued s q b (.fence (if scope.toNat ≤ 2 then 4 else if 11 ≤ scope.toNat then 10 else scope.toNat)) []
        (warned b [] x (scopex scope)))))
  ∧ (∀ s q b d a (scope : BitVec 4) x g, WordReady s q b [a] →
    exec (.publish d a scope x g) s =
      .next (issued (oneId s) q b (queued s q b (.publish (readReg b.regs a)) [d] (warned b [a] x (scopex scope)))))

/-- R182, R197, R254: reads of CSRs, of the time and of work-ID fields write sd at once, with the value that stands then, or that a CSR or the time had
when it was read ahead; writes of them are queued for the commit. Choices of the model: log 7. -/
def Obligations.CsrTimeAndWorkIdWords : Prop :=
  (∀ s q b d a (csr : BitVec 10) g, WordReady s q b [] → (csr = 8 → (s.seq q).takeOutstanding = false) →
    exec (.csrr d a csr g) s =
      .next (issued s q b (wrote b d (seesAhead b (s.readCsr q csr.toNat)) (warned b [] false (if b.changesCsr csr.toNat then 0x20 else 0)))))
  ∧ (∀ s q b a (csr : BitVec 10) x g, WordReady s q b [a] →
    exec (.csrw a csr x g) s = .next (issued (oneId s) q b (queued s q b (.csrWrite csr (readReg b.regs a)) [] (warned b [a] x 0))))
  ∧ (∀ s q b d x g, WordReady s q b [] →
    exec (.time d x g) s = .next (issued s q b (wrote b d (seesAhead b (BitVec.ofNat 64 s.stamp)) (warned b [] x 0))))
  ∧ (∀ s q b d a (f : BitVec 3) x g, WordReady s q b [] → (s.seq q).takeOutstanding = false →
    exec (.widGet d a f x g) s =
      .next (issued s q b (wrote b d
        (if 6 ≤ f.toNat then (s.seq q).wid
         else BitVec.ofNat 64 (bv (s.seq q).wid (widfLow (s.seq q).widf f.toNat) (widfEff (s.seq q).widf f.toNat)))
        (warned b [] x ((if f = 7 then 0x8 else 0)
          ||| (if b.changesCsr 0x008 || (decide (f.toNat < 6) && b.changesCsr 0x009) then 0x20 else 0))))))
  ∧ (∀ s q b d a (f : BitVec 3) x g, WordReady s q b [a] →
    exec (.widSet d a f x g) s =
      .next (issued (oneId s) q b (queued s q b (.widWrite f (readReg b.regs a)) [] (warned b [a] x (if f = 7 then 0x8 else 0)))))

/-- R222, R244: the local window words and the task words on a window. A read gives the element at its offset at once; a fill, a shrink, a write and
a take are queued. -/
def Obligations.LocalWindowWords : Prop :=
  (∀ s q b d (imm : BitVec 12) m g, WordReady s q b [] → Holds s q b m imm.toNat →
    exec (.wrdLocal d imm m g) s =
      .next (issued s q b (b.writeAll (elementRegs s q m d) ((WordCtx.view ⟨q, s.seq q, b⟩).elem m imm.toNat))))
  ∧ (∀ s q b d (imm : BitVec 12) m g, WordReady s q b (elementRegs s q m d) → Fits s q b m →
    exec (.wflLocal d imm m g) s =
      .next (issued (oneId s) q b (queued s q b (.winFill m ((elementRegs s q m d).map (readReg b.regs))) []
        (warned b (elementRegs s q m d) false 0))))
  ∧ (∀ s q b (imm : BitVec 12) m x g, WordReady s q b [] → bitAt ((s.seq q).desc m) 63 = true →
    imm.toNat ≤ bv ((s.seq q).desc m) 32 13 → imm.toNat ≤ ((WordCtx.view ⟨q, s.seq q, b⟩).win m).filled →
    exec (.wshrLocal imm m x g) s =
      .next (issued (oneId s) q b (queued s q b (.winShrink m imm.toNat) [] (warned b [] x 0))))
  ∧ (∀ s q b d (imm : BitVec 12) m g, WordReady s q b (elementRegs s q m d) → Holds s q b m imm.toNat →
    exec (.wstLocal d imm m g) s =
      .next (issued (oneId s) q b (queued s q b (.winWrite m imm.toNat ((elementRegs s q m d).map (readReg b.regs))) []
        (warned b (elementRegs s q m d) false 0))))
  ∧ (∀ s q b a c m x g, bitAt ((s.seq q).desc m) 62 = true → WordReady s q b (elementRegs s q m a) → Fits s q b m →
    exec (.taskFill a c m x g) s =
      .next (issued (oneId s) q b (queued s q b (.winFill m ((elementRegs s q m a).map (readReg b.regs))) []
        (warned b (elementRegs s q m a) x 0))))
  ∧ (∀ s q b d a c m x g, bitAt ((s.seq q).desc m) 62 = true → bitAt ((s.seq q).desc m) 63 = true → WordReady s q b [] →
    exec (.taskTake d a c m x g) s =
      .next (issued (oneId s) q b (queued s q b (.take m q) [d, d + 1, d + 2, d + 3, d + 4] (warned b [] x 0))))

/-- R244: `task.steal` names a sequencer of the region by its cluster; `task.done` is an `amo.add.d.rl.region` of −1. -/
def Obligations.TaskStealAndDone : Prop :=
  (∀ s q b d a c m x g r, WordReady s q b [a] → s.regionOfSeq q = some r →
    r.seqs.contains (q / 256 * 256 + (readReg b.regs a).toNat % 256) = true →
    exec (.taskSteal d a c m x g) s =
      .next (issued (oneId s) q b (queued s q b (.take m (q / 256 * 256 + (readReg b.regs a).toNat % 256)) [d, d + 1, d + 2, d + 3, d + 4]
        (warned b [a] x 0))))
  ∧ (∀ s q b d a c m x g fo s', let u := readReg b.regs a
    WordReady s q b [a] → HasRoom s q b → Reaches s q u u.toNat 8 true fo s' →
    exec (.taskDone d a c m x g) s =
      .next (issued (oneId s') q b (queued s q b
        (.access (accessOf s q (.amo 0x16) u.toNat fo 8 (List.replicate 8 0xFF) false true (codeOf (.taskDone d a c m x g)))) [d]
        (warned b [a] x 0))))

/-- R222, R244: a local window word or task word on a window that is not bound traps WIN; so does one that asks for what the window can never hold,
and a task word on a window of doublewords. -/
def Sys2Proof.Claims.LocalWindowWordsTrapWIN : Prop :=
  ∀ s q b d a c (imm : BitVec 12) m x g, let v := s.seq q
    let trap := Host.Outcome.next (φ := Fault) (ρ := Refusal) (traps s q (v.pc.setWidth 64) (ecause 14 b.idx 0) 0)
    WordReady s q b [] →
    ((bitAt (v.desc m) 63 = false ∨ bv (v.desc m) 32 13 ≤ imm.toNat) → exec (.wrdLocal d imm m g) s = trap ∧ exec (.wstLocal d imm m g) s = trap)
    ∧ ((bitAt (v.desc m) 63 = false ∨ bv (v.desc m) 32 13 < imm.toNat) → exec (.wshrLocal imm m x g) s = trap)
    ∧ (bitAt (v.desc m) 63 = false → exec (.wflLocal d imm m g) s = trap)
    ∧ ((bitAt (v.desc m) 63 = false ∨ mdElem (v.desc m) = false) → exec (.taskFill a c m x g) s = trap ∧ exec (.taskTake d a c m x g) s = trap)

namespace Sys2Proof.Claims

open Sys2Proof.Machine

/-- What issuing a command word comes to: one command is queued for a unit, with the values of its registers, and its reply is to write some
registers. -/
def sends (s : State) (q : Nat) (b : Block) (i : Instr) (unit : UnitId) (u v w : Word) (regs : List Reg) (warn : Word) :
    Host.Outcome State Fault Refusal :=
  .next (issued (oneId s) q b (queued s q b
    (.cmd { id := s.nextId, seq := q, unit := unit, instr := i, a := u, b := v, d := w, tag := (s.seq q).blocks.toNat, begun := false } unit .cmd)
    regs warn))

/-- R138, R139, R305: an `st.d` to a control address queues a register write for the core or the die that it names; MBZ where the register of a die
is read-only. -/
def StoresToRegistersAreQueued : Prop :=
  ∀ s q b d a (u : BitVec 1) (off : BitVec 10) g, let va := address (readReg b.regs a) (off.toInt * 8)
    WordReady s q b [a, d] → HasRoom s q b → (readReg b.regs a).toNat < 2 ^ 56 →
    let writes (unit : UnitId) (more : Word) := exec (.st d a 3 u off g) s =
      sends s q b (.st d a 3 u off g) unit (BitVec.ofNat 64 va) 0 (readReg b.regs d) [] (warned b [a, d] false (unsg (u == 1) ||| more))
    (∀ k, isDieControl va = true → dieControl va = some k → writes (.die (q / 256)) (if k = 8 ∨ k = 16 then 0 else 0x10))
    ∧ (∀ r n k, isControl va = true → isDieControl va = false → s.regionOfSeq q = some r → s.coreControl r va = some (n, k) → writes (.core n) 0)

/-- The word names a core of the region, at these coordinates, that is not dark (R138, R218, R221, R223). -/
structure Names (s : State) (q x y n : Nat) : Prop where
  named : ∃ r, s.regionOfSeq q = some r ∧ x < r.w ∧ y < r.h ∧ n = r.die * 65536 + (r.y + y) * 256 + (r.x + x)
  bright : s.isDark n = false

/-- Coordinates of a target field (R218): of the field itself, or of the register that it names. -/
def targetX (t : BitVec 9) (regs : Vector Word 32) : Nat := if t.getLsbD 8 then (readReg regs (t.setWidth 5)).toNat % 256 else t.toNat / 16 % 16
def targetY (t : BitVec 9) (regs : Vector Word 32) : Nat := if t.getLsbD 8 then (readReg regs (t.setWidth 5)).toNat / 256 % 256 else t.toNat % 16
/-- The register that a target field names, where it names one. -/
def targetRegs (t : BitVec 9) : List Reg := if t.getLsbD 8 then [t.setWidth 5] else []
/-- MBZ of a target field: bits 7:5 of the second form, and bits 63:16 of its register. -/
def targetMbz (t : BitVec 9) (regs : Vector Word 32) : Bool :=
  t.getLsbD 8 && (t.toNat / 32 % 8 != 0 || decide (2 ^ 16 ≤ (readReg regs (t.setWidth 5)).toNat))

/-- A command has reached the unit that is to apply it, and its turn has come. -/
structure CmdAt (s : State) (k : Nat) (c : Cmd) (unit : UnitId) : Prop where
  focus : s.focus = .cmd k
  there : s.cmds[k]? = some c
  at_ : c.unit = unit

/-- A command has been applied: it stands no longer among the commands, nothing that it has read is kept, it is no longer outstanding (R198), and its
values go back (R183). -/
def answered (s : State) (k : Nat) (c : Cmd) (vals : List Word) : State :=
  let s := { s with cmds := dropNth s.cmds k, parts := s.parts.filter fun p => !(p.reader == Reader.cmd c.id) }
  let s := s.setSeq c.seq ((s.seq c.seq).dropItem c.id)
  if vals.isEmpty then s else s.send .rsp c.unit (.seq c.seq) (.reply c.id vals false)

/-- The region of a core lets commands through (R269, R272), and the core is not stopped (R120). -/
structure CoreOpen (s : State) (n : Nat) : Prop where
  runs : (s.core n).stop = false
  open_ : ∀ r, s.regionOfCore n = some r → r.freezing = false ∧ r.frozen = false ∧ r.checkpoint = none ∧ r.drain = none

/-- The issue slot of the present cycle is free (R134, R137). -/
def SlotFree (s : State) (n : Nat) : Prop := (s.core n).slotCycle ≠ some s.now

/-- A command has been applied in this cycle: the core counts as active (R282). -/
def active (s : State) (c : Core) : Core := { c with lastActive := s.now, probeSent := false }

/-- A command has been applied in this cycle, and has taken its issue slot (R137). -/
def slotTaken (s : State) (c : Core) : Core := { active s c with slotCycle := some s.now }

/-- The window of a core that a reference names (R223). -/
def refWindow (a : Word) : Win := Fin.ofNat 16 (a.toNat / 65536 % 16)
/-- The offset of a reference. -/
def refOffset (a : Word) : Nat := a.toNat / 2 ^ 20 % 1024

/-- No firing of the core is in flight. -/
def Idle (c : Core) : Prop := c.pipe = []

end Sys2Proof.Claims

/-- R138, R139, R198 to R206, R305: stores, erases and atomics leave an access for the commit of their block, with the address and data of their
registers, and a store to a control address a register write. Choices of the model: log 31, 54. -/
def Obligations.StoresAndAtomicsAreQueued : Prop :=
  Claims.StoresAndErasesAreQueued ∧ Claims.AtomicsAreQueued ∧ Claims.StoresToRegistersAreQueued

/-- R220 to R223, R225, R230 to R242, R248 to R253: each command word issues by queueing one command for its unit, with the values of the registers
it reads and the registers its reply is to write; nothing else changes. A MARK of SWAP, DRAIN or FAULT in register sb of a `wfl` sets MBZ whatever the
width of the window (R224); LANE of a reference to a word-wide window, B of `net.bind` and M of `launch` set none. Choices of the model: log 124. -/
def Obligations.CommandWordsAreQueued : Prop :=
  (∀ s q b d a c x g n, let u := readReg b.regs a; let mbz := x || decide (2 ^ 35 ≤ u.toNat)
    HasRoom s q b → Names s q (u.toNat % 256) (u.toNat / 256 % 256) n →
    (WordReady s q b [a] → exec (.wrdCore d a c x g) s = sends s q b (.wrdCore d a c x g) (.core n) u 0 0 [d] (warned b [a] mbz 0))
    ∧ (WordReady s q b [a] → exec (.wshrCore d a c x g) s = sends s q b (.wshrCore d a c x g) (.core n) u 0 0 [d] (warned b [a] mbz 0))
    ∧ (WordReady s q b [a, c] → exec (.wstCore d a c x g) s =
        sends s q b (.wstCore d a c x g) (.core n) u (readReg b.regs c) 0 [d] (warned b [a, c] mbz 0))
    ∧ (WordReady s q b [a, c] → exec (.wflCore d a c x g) s =
        sends s q b (.wflCore d a c x g) (.core n) u (readReg b.regs c) 0 [d]
          (warned b [a, c] (mbz || decide (2 ^ 42 ≤ (readReg b.regs c).toNat) || decide (5 ≤ (readReg b.regs c).toNat / 2 ^ 36 % 8)) 0)))
  ∧ (∀ s q b d a (t : BitVec 9) (e : BitVec 2) g n, HasRoom s q b → Names s q (targetX t b.regs) (targetY t b.regs) n →
    let u := if t.getLsbD 8 then readReg b.regs (t.setWidth 5) else 0
    (WordReady s q b (a :: targetRegs t) → exec (.sbind d a t e g) s =
        sends s q b (.sbind d a t e g) (.core n) (readReg b.regs a) u 0 [d]
          (warned b (a :: targetRegs t) (targetMbz t b.regs || (readReg b.regs a).toNat / 4 % 16 != 0) 0))
    ∧ (WordReady s q b (targetRegs t) →
        exec (.sgo d a t e g) s = sends s q b (.sgo d a t e g) (.core n) 0 u 0 [d] (warned b (targetRegs t) (targetMbz t b.regs) 0)
        ∧ exec (.sstop d a t e g) s = sends s q b (.sstop d a t e g) (.core n) 0 u 0 [d] (warned b (targetRegs t) (targetMbz t b.regs) 0)
        ∧ exec (.sbar d a t e g) s = sends s q b (.sbar d a t e g) (.core n) 0 u 0 [d] (warned b (targetRegs t) (targetMbz t b.regs) 0)))
  ∧ (∀ s q b d a x g r, s.regionOfSeq q = some r →
    (WordReady s q b [a] → r.owner = q →
      exec (.cfgLoad d a x g) s = sends s q b (.cfgLoad d a x g) (.region r.id) (readReg b.regs a) 0 0 [d] (warned b [a] x 0)
      ∧ exec (.cfgShadow d a x g) s = sends s q b (.cfgShadow d a x g) (.region r.id) (readReg b.regs a) 0 0 [d] (warned b [a] x 0)
      ∧ exec (.cfgDrain d a x g) s = sends s q b (.cfgDrain d a x g) (.region r.id) (readReg b.regs a) 0 0 [d] (warned b [a] x 0)
      ∧ exec (.lantReq d a x g) s = sends s q b (.lantReq d a x g) (.die (q / 256)) (readReg b.regs a) 0 0 [d] (warned b [a] x 0)
      ∧ exec (.lantRel d a x g) s = sends s q b (.lantRel d a x g) (.die (q / 256)) (readReg b.regs a) 0 0 [d] (warned b [a] x 0))
    ∧ (WordReady s q b [] → r.owner = q →
      exec (.cfgSwap d a x g) s = sends s q b (.cfgSwap d a x g) (.region r.id) 0 0 0 [d] (warned b [] x 0))
    ∧ (WordReady s q b [] → exec (.cfgPhase d a x g) s = sends s q b (.cfgPhase d a x g) (.region r.id) 0 0 0 [d] (warned b [] x 0))
    ∧ (WordReady s q b [a] → exec (.cfgSig d a x g) s =
        sends s q b (.cfgSig d a x g) (.region r.id) (readReg b.regs a) 0 0 [d, d + 1] (warned b [a] x 0)))
  ∧ (∀ s q b d a (scope : BitVec 4) (all : BitVec 1) x g, WordReady s q b [a] →
    let w := warned b [a] x (if scope = 4 ∨ scope = 5 ∨ scope = 6 then 0 else 0x100)
    exec (.tlbinv d a scope all x g) s = sends s q b (.tlbinv d a scope all x g) (.die (q / 256)) (readReg b.regs a) 0 0 [d] w
    ∧ exec (.relatch d a scope all x g) s = sends s q b (.relatch d a scope all x g) (.die (q / 256)) (readReg b.regs a) 0 0 [d] w)
  ∧ (∀ s q b d a c (m : BitVec 3) x g, WordReady s q b [a, c] → let u := readReg b.regs a; let v := readReg b.regs c
    exec (.launch d a c m x g) s = sends s q b (.launch d a c m x g) .package u v 0 [d] (warned b [a, c] (x || u.toNat % 64 != 0) 0)
    ∧ exec (.netWrite d a c x g) s = sends s q b (.netWrite d a c x g) .engine u v 0 [d] (warned b [a, c] x 0)
    ∧ exec (.netRead d a c x g) s = sends s q b (.netRead d a c x g) .engine u v 0 [d] (warned b [a, c] x 0)
    ∧ exec (.netSend d a c x g) s = sends s q b (.netSend d a c x g) .engine u v 0 [d] (warned b [a, c] x 0)
    ∧ exec (.netStat d a c x g) s = sends s q b (.netStat d a c x g) .engine u v 0 [d] (warned b [a, c] x 0))
  ∧ (∀ s q b d a c x g, WordReady s q b [a] →
    exec (.netBind d a c x g) s = sends s q b (.netBind d a c x g) .engine (readReg b.regs a) 0 0 [d] (warned b [a] x 0))

/-- R221, R244: a command word that names a core outside the region, or a dark one, and a steal from a cluster without a sequencer of the region, trap
TGT; a word that only the owning sequencer may issue traps OWNER in another. -/
def Sys2Proof.Claims.CommandWordsTrapTGTAndOWNER : Prop :=
  ∀ s q b d a c m (t : BitVec 9) (e : BitVec 2) x g r, let v := s.seq q; let u := readReg b.regs a
    let trap (cause : Nat) := Host.Outcome.next (φ := Fault) (ρ := Refusal) (traps s q (v.pc.setWidth 64) (ecause cause b.idx 0) 0)
    s.regionOfSeq q = some r →
    (HasRoom s q b → (∀ n, ¬ Names s q (u.toNat % 256) (u.toNat / 256 % 256) n) →
      (WordReady s q b [a] → exec (.wrdCore d a c x g) s = trap 12 ∧ exec (.wshrCore d a c x g) s = trap 12)
      ∧ (WordReady s q b [a, c] → exec (.wstCore d a c x g) s = trap 12 ∧ exec (.wflCore d a c x g) s = trap 12))
    ∧ (HasRoom s q b → (∀ n, ¬ Names s q (targetX t b.regs) (targetY t b.regs) n) →
      (WordReady s q b (a :: targetRegs t) → exec (.sbind d a t e g) s = trap 12)
      ∧ (WordReady s q b (targetRegs t) →
        exec (.sgo d a t e g) s = trap 12 ∧ exec (.sstop d a t e g) s = trap 12 ∧ exec (.sbar d a t e g) s = trap 12))
    ∧ (WordReady s q b [a] → q / 256 * 256 + u.toNat % 256 ∉ r.seqs → exec (.taskSteal d a c m x g) s = trap 12)
    ∧ (WordReady s q b [a] → r.owner ≠ q →
      exec (.cfgLoad d a x g) s = trap 13 ∧ exec (.cfgShadow d a x g) s = trap 13 ∧ exec (.cfgDrain d a x g) s = trap 13
        ∧ exec (.lantReq d a x g) s = trap 13 ∧ exec (.lantRel d a x g) s = trap 13)
    ∧ (WordReady s q b [] → r.owner ≠ q → exec (.cfgSwap d a x g) s = trap 13)

/-- R137, R223, R224: a core with no firing in flight, the issue slot of whose cycle is free, applies a window command and takes the slot: `wrd` gives
the word at a reference, `wfl` fills one beat, `wshr` frees elements, `wst` writes a word; and the status or value goes back. A command that is refused
changes no window. Choices of the model: log 15, 152. -/
def Obligations.WindowCommandsAct : Prop :=
  ∀ s k c n, CmdAt s k c (.core n) → CoreOpen s n → SlotFree s n → Idle (s.core n) →
    let u := s.core n; let w := refWindow c.a; let i := refOffset c.a
    (∀ d a e x g, u.refuses 0 c.a = false → u.settled w i = true → u.badStore.contains (u.refAddr c.a) = false →
      exec (.wrdCore d a e x g) s =
        .next (answered (s.setCore n (slotTaken s (u.correctStore [(u.refAddr c.a, w)]))) k c [(u.refWord c.a (u.refAddr c.a)).setWidth 64]))
    ∧ (∀ d a e x g u', u.refuses 1 c.a = false → u.fillCommand w (fillOf c.b) = some u' →
      exec (.wflCore d a e x g) s = .next (answered (s.setCore n (slotTaken s u')) k c [0]))
    ∧ (∀ d a e x g, u.refuses 2 c.a = false → i ≤ u.visible w →
      exec (.wshrCore d a e x g) s = .next (answered (s.setCore n (slotTaken s (u.shrinkWin w i false))) k c [0]))
    ∧ (∀ d a e x g, u.refuses 3 c.a = false → u.settled w i = true →
      exec (.wstCore d a e x g) s =
        .next (answered (s.setCore n (slotTaken s (u.storeWord (u.refAddr c.a) (c.b.setWidth 36)))) k c [0]))
    ∧ (∀ d a e x g, let refused := Host.Outcome.next (φ := Fault) (ρ := Refusal) (answered (s.setCore n (slotTaken s u)) k c [1])
      (u.refuses 0 c.a = true →
        exec (.wrdCore d a e x g) s = .next (answered (s.setCore n (slotTaken s u)) k c [BitVec.allOnes 64]))
      ∧ (u.refuses 1 c.a = true → exec (.wflCore d a e x g) s = refused) ∧ (u.refuses 2 c.a = true → exec (.wshrCore d a e x g) s = refused)
      ∧ (u.refuses 3 c.a = true → exec (.wstCore d a e x g) s = refused))

/-- R225, R226, R282: `sbind` binds a slot to descriptors that pass its checks, `sgo` starts a run, `sstop` ends one, `sbar` reports how the last run
ended, and waits while one goes on; each answers with its status, and its core has been active. Choices of the model: log 60, 61. -/
def Obligations.StreamCommandsAct : Prop :=
  ∀ s k c n (e : BitVec 2), CmdAt s k c (.core n) → (∀ r, s.regionOfCore n = some r → r.freezing = false ∧ r.frozen = false) →
    let u := s.core n; let sl := u.edge[e.toFin]
    let ends (t : State) (v : Word) := Host.Outcome.next (φ := Fault) (ρ := Refusal) (answered (t.setCore n (active t (t.core n))) k c [v])
    (∀ d a t g r l s1 fmt s2, s.regionOfCore n = some r → sl.active = false →
      s.readForCmd c.seq r.ctx c (bv c.a 6 50 * 64) 64 = (.bytes l, s1) → s1.readFormat r.ctx c l = (.bytes fmt, s2) →
      let bound := boundSlot l fmt (BitVec.ofNat 2 c.a.toNat) c.seq; let v := s2.core n
      (v.refusesBind bound = false →
        exec (.sbind d a t e g) s =
          ends (s2.setCore n { v with edge := v.edge.set e.toFin bound, ewarn := if bound.reservedSet then v.ewarn ||| ewRSVD else v.ewarn }) 0)
      ∧ (v.refusesBind bound = true → exec (.sbind d a t e g) s = ends s2 0x101))
    ∧ (∀ d a t g, sl.state = .bound → sl.formatFault = false → (∀ r, s.regionOfCore n = some r → r.swap = none) →
      exec (.sgo d a t e g) s = ends ((s.setEdge n e.toFin (sl.start false)).dropReaders (· == Reader.run n e.toFin)) 0)
    ∧ (∀ d a t g, sl.state = .bound → sl.formatFault = true →
      let t1 := s.setCore n { u with edge := u.edge.set e.toFin { sl.start false with state := .faulted, runEnd := .faulted },
                                     efault := efaultWith u.efault 1 e.toNat }
      exec (.sgo d a t e g) s = ends (t1.recordOfCore n (.edge n e.toNat) 1 e.toNat 0 0 0 0) 0)
    ∧ (∀ d a t g, sl.active = true → exec (.sstop d a t e g) s = ends (s.stopRun n e.toFin) 5)
    ∧ (∀ d a t g, sl.state = .faulted → exec (.sstop d a t e g) s = ends (s.setEdge n e.toFin { sl with state := .bound }) 3)
    ∧ (∀ d a t g, sl.state = .bound ∨ sl.state = .idle → exec (.sstop d a t e g) s = ends s 3)
    ∧ (∀ d a t g, sl.active = false →
      exec (.sbar d a t e g) s = ends s (match sl.runEnd with | .never => 3 | .done => 0 | .stopped => 5 | .faulted => 4))
    ∧ (∀ d a t g, sl.active = true →
      exec (.sbar d a t e g) s = .next s ∧ exec (.sgo d a t e g) s = ends s 2
        ∧ ((s.regionOfCore n).isSome = true → exec (.sbind d a t e g) s = ends s 2))
    ∧ (∀ d a t g, sl.state = .idle ∨ sl.state = .faulted → exec (.sgo d a t e g) s = ends s 1)

/-- R230, R231, R241, R242: `cfg.load` configures every core of an idle region from an image that passes the checks, and steps the phase;
`cfg.shadow` configures the shadows; `cfg.phase` reports the phase; `cfg.sig` gives the signature of an image. -/
def Sys2Proof.Claims.ConfigurationCommandsAct : Prop :=
  ∀ s k c r, CmdAt s k c (.region r.id) → s.region? r.id = some r → r.freezing = false → r.frozen = false → r.swap = none → r.drain = none →
    (∀ d a x g image s' ps, s.idle r = true → r.cores.any s.edgeStores = false → s.readImage r.ctx c c.a.toNat = (.bytes image, s') → s'.checkImage r false image = .ok ps →
      exec (.cfgLoad d a x g) s =
        .next (answered ((s'.spread r ps Core.configure).setRegion { r with phase := r.phase + 1, image := some c.a }) k c [0]))
    ∧ (∀ d a x g image s' ps, s.readImage r.ctx c c.a.toNat = (.bytes image, s') → s'.checkImage r true image = .ok ps →
      exec (.cfgShadow d a x g) s = .next (answered (s'.spread r ps Core.configureShadow) k c [0]))
    ∧ (∀ d a x g, exec (.cfgPhase d a x g) s = .next (answered s k c [r.phase.setWidth 64]))
    ∧ (∀ d a x g va l s', (if a = 0 then r.image else some c.a) = some va → s.signatureOf r c va = (some l, s') →
      exec (.cfgSig d a x g) s = .next (answered s' k c [wordAt l 0, wordAt l 1]))
    ∧ (∀ d x g, r.image = none → exec (.cfgSig d 0 x g) s = .next (answered s k c [0, 0]))

/-- R232, R238: `cfg.swap` and `cfg.drain` begin, and are answered only when the swap or the drain has ended. -/
def Sys2Proof.Claims.SwapAndDrainBegin : Prop :=
  ∀ s k c r, CmdAt s k c (.region r.id) → s.region? r.id = some r → r.freezing = false → r.frozen = false → r.swap = none → r.drain = none →
    c.begun = false →
    let begun := { s with cmds := setNth s.cmds k { c with begun := true } }
    (∀ d a x g, exec (.cfgSwap d a x g) s =
        .next ((begun.setRegion { r with swap := some (c.id, c.seq) }).onCores
          (fun u => { active s u with flipped := false, swapDue := u.swapWins }) r.cores))
    ∧ (∀ d a x g, exec (.cfgDrain d a x g) s =
        .next ((begun.setRegion { r with drain := some ⟨c.id, c.seq, c.a, false⟩, checkpoint := none, checkpointSaved := false }).drainRuns r))

/-- R249, R298, R300: `xlat` never traps: it writes the translation of an address, the physical address with the page's attributes, or a code. It writes
it at once, but where its walk has to wait, for a link that has stopped or for its next entry: there it waits, which is the model's reading of R298 and
R300 (log 39, 135). -/
def Sys2Proof.Claims.XlatReportsTheTranslation : Prop :=
  ∀ s q b d a (scope : BitVec 4) (all : BitVec 1) x g r, WordReady s q b [a] → s.regionOfSeq q = some r →
    let u := readReg b.regs a
    (∀ f s', u.toNat < 2 ^ 56 → s.translate q r.ctx u.toNat true (s.blockReader q) = (.ok f, s') → f.tr.phys f.va < 2 ^ 44 →
      exec (.xlat d a scope all x g) s =
        .next (issued s' q b (wrote b d
          (BitVec.ofNat 64 (2 ^ 63 + (if f.tr.writable then 2 ^ 62 else 0) + (if f.tr.vug then 2 ^ 61 else 0) + (if f.tr.big then 2 ^ 60 else 0)
            + (if f.tr.vug then 0 else f.tr.phys f.va))) (warned b [a] x 0))))
    ∧ (∀ code s', u.toNat < 2 ^ 56 → code ≤ 4 → s.translate q r.ctx u.toNat true (s.blockReader q) = (.error code, s') →
      exec (.xlat d a scope all x g) s = .next (issued s' q b (wrote b d (BitVec.ofNat 64 code) (warned b [a] x 0))))
    ∧ (∀ s', u.toNat < 2 ^ 56 → s.translate q r.ctx u.toNat true (s.blockReader q) = (.error 5, s') → exec (.xlat d a scope all x g) s = waitsAt s' q b)
    ∧ (2 ^ 56 ≤ u.toNat → exec (.xlat d a scope all x g) s = .next (issued s q b (wrote b d 3 (warned b [a] x 0))))

/-- R250, R251, R252: `tlbinv` removes a page, or every page, of the context from the TLBs in its scope, and walks for it begin anew; `relatch` without a latched translation to
remove is done at once; the lantern words move lanterns between the die and the pool. -/
def Sys2Proof.Claims.TranslationAndLanternCommandsAct : Prop :=
  ∀ s k c r die, CmdAt s k c (.die die) → s.regionOfSeq c.seq = some r →
    (∀ d a x g, exec (.tlbinv d a 4 1 x g) s =
      .next (answered { s with tlbs := s.tlbs.map fun (j, l) => if j == c.seq then (j, l.filter fun e => e.ctx != r.ctx) else (j, l)
                               parts := s.dropWalks c.seq r.ctx .cluster none } k c [0]))
    ∧ (∀ d a (scope : BitVec 4) (all : BitVec 1) x g, exec (.tlbinv d a scope all x g) s =
      .next (answered ((s.invalidate c.seq r.ctx (transScope scope) (s.namedPage r.ctx all c)).translationChange c.seq (transScope scope)) k c [0]))
    ∧ (∀ d a (scope : BitVec 4) (all : BitVec 1) x g, c.begun = false →
      s.relatchCores c.seq r.ctx (transScope scope) (s.namedPage r.ctx all c) = [] →
      exec (.relatch d a scope all x g) s = .next (answered s k c [0]))
    ∧ (∀ d a (scope : BitVec 4) (all : BitVec 1) x g, c.begun = false →
      let l := s.relatchCores c.seq r.ctx (transScope scope) (s.namedPage r.ctx all c)
      l ≠ [] →
      ∃ t, exec (.relatch d a scope all x g) s = .next t ∧ t.cmds = setNth s.cmds k { c with begun := true } ∧ t.cores = s.cores ∧ t.seqs = s.seqs
        ∧ t.net = s.net ++ l.map fun n => ⟨.ctl, .die (c.seq / 256), .core n, .relatch ⟨c.id, s.namedPage r.ctx all c⟩⟩)
    ∧ (∀ d a x g, let n := min c.a.toNat (s.unassigned r.die)
      exec (.lantReq d a x g) s = .next (answered (s.setRegion { r with pool := r.pool + n }) k c [BitVec.ofNat 64 n]))
    ∧ (∀ d a x g, let n := min c.a.toNat r.pool
      exec (.lantRel d a x g) s = .next (answered (s.setRegion { r with pool := r.pool - n }) k c [BitVec.ofNat 64 n]))

/-- R248, R349: `launch` puts a copy of the packet into an open queue of the region's context that has room; the context counts as one that has launched in
this cycle. -/
def Sys2Proof.Claims.LaunchAppendsThePacket : Prop :=
  ∀ s k c r l s' d a e m x g, CmdAt s k c .package → s.regionOfSeq c.seq = some r → (s.ctx? r.ctx).isSome = true →
    s.readForCmd c.seq r.ctx c (bv c.a 6 50 * 64) 64 = (.bytes l, s') → c.b.toNat < 2048 →
    (s'.queue c.b.toNat).state = .open_ → (s'.queue c.b.toNat).ctx = r.ctx → (s'.queue c.b.toNat).packets.length < (s'.queue c.b.toNat).cap →
    exec (.launch d a e m x g) s =
      .next (answered (let t := s'.appendPacket c.b.toNat (Vector.ofFn fun j : Fin 8 => wordAt l j)
        { t with pkg := { t.pkg with ctxs := t.pkg.ctxs.map fun (y : Ctx) => if y.id = r.ctx then { y with launched := some t.now } else y } }) k c [0])

/-- R253, R360, R361, R365, R371, R373: with NET accepted, a message word on a bound connection of its region queues one message with the fields of its
descriptor; `net.bind` answers with a handle; `net.stat` gives a word of the congestion record. Without NET every one answers BADHANDLE. That a
connection to a module without a path fails at its bind, and which paths are in service, are the model's choice (log 138). Choices of the model:
log 29, 82, 83, 84, 85, 86, 138. -/
def Obligations.NetworkCommandsAct : Prop :=
  ∀ s k c r, CmdAt s k c .engine → s.regionOfSeq c.seq = some r →
    (s.feature 2 = true → ∀ n l s', s.conn? c.b.toNat = some n → n.region = r.id →
      s.readForCmd c.seq r.ctx c (c.a.toNat % 2 ^ 56 / 32 * 32) 32 = (.bytes l, s') →
      let v := s'.seq c.seq
      let sent (op : NetOp) : Host.Outcome State Fault Refusal :=
        let w := if messageMbz l then s'.setSeq c.seq { v with swarn := v.swarn ||| 0x10 } else s'
        let w := w.setConn { n with sendCount := n.sendCount + 1 }
        .next (answered { w with fabric := { w.fabric with msgs := w.fabric.msgs ++ [messageOf n op v.rank c.id l] } } k c [0])
      (bv (wordAt l 2) 32 32 ≤ 2 ^ 30 →
        (∀ d a b x g, exec (.netWrite d a b x g) s = sent .write) ∧ (∀ d a b x g, exec (.netRead d a b x g) s = sent .read))
      ∧ (bv (wordAt l 2) 32 32 ≤ 4096 → ∀ d a b x g, exec (.netSend d a b x g) s = sent .send))
    ∧ (s.feature 2 = true → ∀ d a b x g l s' n, s.readForCmd c.seq r.ctx c (c.a.toNat % 2 ^ 56 / 64 * 64) 64 = (.bytes l, s') →
      bv (wordAt l 0) 12 4 = 0 → bv (wordAt l 0) 0 5 = 0 → bv (wordAt l 0) 16 16 = 0 → s'.fabric.handles.length < 65535 →
      s'.describeConn r (freeHandle s'.fabric.handles 65535 1) l = some n →
      exec (.netBind d a b x g) s =
        .next (answered { s' with fabric := { s'.fabric with conns := { n with failed := s'.fabric.pathless n } :: s'.fabric.conns } } k c
          [BitVec.ofNat 64 (freeHandle s'.fabric.handles 65535 1 % 65536 * 65536)]))
    ∧ (s.feature 2 = true → ∀ d a b x g l s' p s'', s.readForCmd c.seq r.ctx c (c.a.toNat % 2 ^ 56 / 64 * 64) 64 = (.bytes l, s') →
      bv (wordAt l 0) 12 4 = 1 → bv (wordAt l 0) 0 5 = 0 → bv (wordAt l 0) 16 16 = 0 →
      s'.describeBuffer r (freeHandle s'.fabric.handles 65535 1) l = (some p, s'') → s''.fabric.handles.length < 65535 →
      exec (.netBind d a b x g) s =
        .next (answered { s'' with fabric := { s''.fabric with bufs := p :: s''.fabric.bufs } } k c
          [BitVec.ofNat 64 (freeHandle s'.fabric.handles 65535 1 % 65536 * 65536)]))
    ∧ (s.feature 2 = true → ∀ d a b x g l s', s.readForCmd c.seq r.ctx c (c.a.toNat % 2 ^ 56 / 64 * 64) 64 = (.bytes l, s') →
      bv (wordAt l 0) 12 4 = 2 → bv (wordAt l 0) 0 5 = 0 → let h := bv (wordAt l 0) 16 16
      s'.holdsHandle r h = true → s'.handleBusy h = false →
      exec (.netBind d a b x g) s = .next (answered (s'.release h) k c [BitVec.ofNat 64 (h * 65536)]))
    ∧ (s.feature 2 = true → ∀ d a b x g n, s.conn? c.b.toNat = some n → n.record = none →
      exec (.netStat d a b x g) s =
        .next (answered { s with frees := s.frees + 5 } k c
          [s.fabric.congestion n (Vector.ofFn fun i : Fin 5 => Config.congestionWord (s.frees + i)) (c.a.toNat % 8)]))
    ∧ (s.feature 2 = true → ∀ d a b x g n said, s.conn? c.b.toNat = some n → n.record = some said →
      exec (.netStat d a b x g) s = .next (answered s k c [s.fabric.congestion n said (c.a.toNat % 8)]))
    ∧ (s.feature 2 = true → s.conn? c.b.toNat = none → ∀ d a b x g, let bad := Host.Outcome.next (φ := Fault) (ρ := Refusal) (answered s k c [11])
      exec (.netStat d a b x g) s = .next (answered s k c [0]) ∧ exec (.netWrite d a b x g) s = bad ∧ exec (.netRead d a b x g) s = bad
        ∧ exec (.netSend d a b x g) s = bad)
    ∧ (s.feature 2 = false → ∀ d a b x g, let bad := Host.Outcome.next (φ := Fault) (ρ := Refusal) (answered s k c [11])
      exec (.netBind d a b x g) s = bad ∧ exec (.netWrite d a b x g) s = bad ∧ exec (.netRead d a b x g) s = bad
        ∧ exec (.netSend d a b x g) s = bad ∧ exec (.netStat d a b x g) s = bad)

/-- R137, R139, R141, R266, R305: the store of a doubleword to a control address becomes a command to the core or the die, which writes the register;
the mask registers set and clear MASK bits of the active slots, and take the issue slot of their cycle; warnings clear by writing 1; a loop guard is
written but for its UND; a counter of a die becomes 0. -/
def Obligations.RegisterWritesAct : Prop :=
  (∀ s k c (die : Nat), CmdAt s k c (.die die) → ∀ d a w u off g, let o := c.a.toNat % 65536
    exec (.st d a w u off g) s = .next (answered (if o = 8 then { s with fecc := sparsePut s.fecc die 0 }
      else if o = 16 then { s with lretry := sparsePut s.lretry die 0 } else s) k c []))
  ∧ ∀ s k c n, CmdAt s k c (.core n) → CoreOpen s n → Idle (s.core n) →
    ∀ d a w u off g, let v : Lane := c.d.setWidth 36; let o := c.a.toNat % 65536
    let does (f : Core → Core) := exec (.st d a w u off g) s = .next (answered (s.setCore n (active s (f (s.core n)))) k c [])
    let takes (f : Core → Core) := SlotFree s n → exec (.st d a w u off g) s = .next (answered (s.setCore n (slotTaken s (f (s.core n)))) k c [])
    (o = 0x0010 → does fun x => { x with aflg := x.aflg &&& ~~~v })
    ∧ (o = 0x0018 → does fun x => { x with cwarn := x.cwarn &&& ~~~v })
    ∧ (o = 0x0020 → does fun x => { x with rwarn := x.rwarn &&& ~~~v })
    ∧ (o = 0x0028 → does fun x => { x with cfault := 0 })
    ∧ (o = 0x0030 → does fun x => { x with ecnt := 0 })
    ∧ (o = 0x0040 → takes fun x => x.writeMask (c.d.toNat % 256) true)
    ∧ (o = 0x0048 → takes fun x => x.writeMask (c.d.toNat % 256) false)
    ∧ (∀ j : Fin 4, o = 0x0500 + 8 * j.val → does fun x =>
        { x with guards := x.guards.set j ((v &&& 0xFFFFFFFE0) ||| (if x.guards[j].getLsbD 4 ∧ v.getLsbD 4 = false then 0x10 else 0)) })
    ∧ (o = 0x0400 → does fun x => { x with ewarn := x.ewarn &&& ~~~v })
    ∧ (o = 0x0408 → does fun x => { x with efault := 0 })
    ∧ (o = 0x0000 ∨ o = 0x0008 → does fun x => { x with rwarn := x.rwarn ||| rwCTLW })

/-- R187, R188, R190, R198, R199, R221, R222, R244: the synchronous traps of words: a control target or an address that cannot be used, a window operand
out of range, a core outside the region, and an owner's word in a member. With TL = 0 the trap enters the handler; with TL = 1 it is a double trap,
which stops the sequencer and is reported. That `task.done` traps ADDR on bits 63:56 of its register is the model's reading. Choices of the model:
log 31, 37, 94, 135. -/
def Obligations.WordsTrap : Prop :=
  Claims.BadControlTargetTraps ∧ Claims.BadAddressesTrap ∧ Claims.AtomicsTrap ∧ Claims.LocalWindowWordsTrapWIN
    ∧ Claims.CommandWordsTrapTGTAndOWNER

/-- R230 to R242: the configuration commands configure, shadow, report and sign at once; a swap and a drain begin, and end later. Choices of the
model: log 49, 62. -/
def Obligations.ConfigurationCommandsAct : Prop := Claims.ConfigurationCommandsAct ∧ Claims.SwapAndDrainBegin

/-- R249 to R252: `xlat` reports a translation and never traps, `tlbinv` and `relatch` remove translations, and the lantern words move lanterns. `xlat`
waits where its walk waits, for a link that has stopped (R300) or for its next entry (R298): the model's choice, log 39, 135. Choices of the model:
log 24, 39, 63, 135. -/
def Obligations.TranslationAndLanternWordsAct : Prop := Claims.XlatReportsTheTranslation ∧ Claims.TranslationAndLanternCommandsAct

namespace Sys2Proof.Claims

open Sys2Proof.Machine

/-! ## Stages of a firing -/

/-- Firing k of core n stands at a stage, in a region that lets it run. -/
structure StandsAt (s : State) (n k : Nat) (fr : Firing) : Prop where
  focus : s.focus = .stage n k
  firing : (s.core n).pipe[k]? = some fr
  stage : 1 ≤ fr.stage ∧ fr.stage ≤ 6
  running : s.coreFrozen n = false ∧ fr.hold ≠ some .stopped

/-- Firing k of core n stands at a stage that can run: its region lets it, no older firing has still to change what the stage reads or uses (R39,
R42), and its operands o are filled. -/
structure StageRuns (s : State) (n k : Nat) (fr : Firing) (op : BitVec 6) (f : StageFields) (o : Operands) : Prop extends StandsAt s n k fr where
  older : ∀ g ∈ (s.core n).pipe.take k,
    (s.core n).mustWait (s.core n).active[fr.slot] (stageWord op f) (s.core n).active[g.slot] g.stage = false
  operands : o = (StageCtx.mk (s.core n) k fr (s.core n).active[fr.slot] f).operandsOf op.toNat
  filled : o.wait = none

/-- What the stage of a firing sees. -/
def seen (s : State) (n k : Nat) (fr : Firing) (f : StageFields) : StageCtx := ⟨s.core n, k, fr, (s.core n).active[fr.slot], f⟩

/-- A firing that has run its sixth stage completes next (R39, R41). -/
def thenCompletes (n : Nat) (fr : Firing) (t : State) : State :=
  if fr.stage = 6 then { t with agenda := (0, .event (.firingComplete n)) :: t.agenda } else t

/-- A firing holds, for a reason, and nothing else of its core changes. -/
def holding (s : State) (n k : Nat) (u : Core) (fr : Firing) (h : Hold) : Host.Outcome State Fault Refusal :=
  .next (s.setCore n { u with pipe := setNth u.pipe k { fr with hold := some h, heldWin := h.win.map u.win } })

/-- A beat as it leaves a stage: one with SWAP, DRAIN or FAULT and lanes has COUNT 0 (R32; the model's reading, log 129). -/
def without (b : Beat) : Beat := if 5 ≤ b.mark.toNat ∧ b.count ≠ 0 then { Beat.blank 0 b.mark with graph := b.graph } else b

/-- A core's fault register and the record that its region gets (R140, R143). -/
def faulted (s : State) (n cause slot stage win addr : Nat) (detail extra : Word) : State :=
  (s.setCore n { s.core n with cfault := cfaultWith (s.core n).cfault cause slot stage win addr }).recordOfCore n (.core n) cause slot stage win
    detail extra

/-- The stage leaves a result: its beats are delivered where there is room for them, its value is kept for later stages unless DST is 7, and its
flags, warnings, store words and slot state are written (R41, R46); where a beat has no room, the firing holds, with the earlier ones delivered
(R42). A key out of order under STRICT is recorded as a data fault, with the key (R103, R140, R143). -/
def gives (s : State) (n k : Nat) (fr : Firing) (op : BitVec 6) (f : StageFields) (o : Operands) (i : Instr) (r : StageOut) : Prop :=
  let u := s.core n
  let graphed (b : Beat) : Beat := { b with graph := h0Graph u.active[fr.slot] }
  let r := { r with val := graphed (without r.val), outs := r.outs.map fun (d, b) => (d, graphed (without b)) }
  let beats := r.outs ++ (dstDests u.active[fr.slot] f.dst).map fun d => (d, r.val)
  u.badRead (r.reads ++ o.reads) = none →
  ∀ u' sent w hd, u.deliverAll (beats.drop fr.sent) = (u', sent, w, hd) →
    let fr := fr.filling (u.newFills u')
    (∀ h, hd = some h → exec i s = holding s n k u' { fr with sent := fr.sent + sent, cwarn := fr.cwarn ||| w } h)
    ∧ (hd = none →
      let t := s.setCore n (u'.commitStage k fr (f.dst != 7) { r with reads := r.reads ++ o.reads } (lanternWarn op.toNat f ||| o.cwarn ||| w))
      exec i s = .next (thenCompletes n fr (match r.keyFault with
        | some (key, win) => faulted t n 1 fr.slot.val fr.stage win.val 0 (key.setWidth 64) 0
        | none => t)))

/-- A result of N lanes, each lane below N from a function, and a marker. -/
def result (N : Nat) (m : BitVec 3) (g : Nat → Lane) : Beat := ⟨Vector.ofFn fun l : Fin 16 => if l.val < N then g l else 0, N, m, 0⟩

/-- A stage writes a function of its operands in each lane below COUNT; COUNT is the least of its tap and stage operands, the marker is that of the
first; the flags are those of the lanes below COUNT (R45, R29, R23). -/
def Computes (op : BitVec 6) (i : StageFields → Instr) (warn : StageFields → Lane) (g : StageFields → Lane → Lane → Lane → Flagged) : Prop :=
  ∀ s n k fr f o, StageRuns s n k fr op f o →
    let N := countOf [o.a, o.b, o.c]
    let lane (l : Nat) : Flagged := g f (o.a.lane l) (o.b.lane l) (o.c.lane l)
    gives s n k fr op f o (i f)
      ((seen s n k fr f).value (result N (markOf [o.a, o.b, o.c]) fun l => (lane l).val)
        (orAll ((List.range (min N 16)).map fun l => (lane l).flags)) (warn f ||| cntmOf [o.a, o.b, o.c]))

/-- An integer result narrowed by MOD (R16, R47): wrapped; or clamped to 32 or to 36 bits, setting SAT when it does not fit. -/
def narrowed (f : StageFields) (z : Int) : Flagged :=
  let clamp (lo hi : Int) : Flagged := if z < lo then ⟨BitVec.ofInt 36 lo, 2⟩ else if hi < z then ⟨BitVec.ofInt 36 hi, 2⟩ else ⟨BitVec.ofInt 36 z, 0⟩
  if f.mod = 1 then clamp (-2 ^ 31) (2 ^ 31 - 1) else if f.mod = 2 then clamp (-2 ^ 35) (2 ^ 35 - 1) else ⟨BitVec.ofInt 36 z, 0⟩

/-- A word without flags. -/
def quiet (w : Lane) : Flagged := ⟨w, 0⟩
/-- The word of a condition: 1 or 0. -/
def truth (b : Bool) : Flagged := ⟨if b then 1 else 0, 0⟩
/-- The comparison that COND names (R47). -/
def compared (cond : BitVec 3) (a b : Lane) : Bool :=
  if cond = 0 then a == b else if cond = 1 then a != b else if cond = 2 then a.slt b else if cond = 3 then a.sle b else if cond = 4 then b.slt a
  else if cond = 5 then b.sle a else if cond = 6 then a.ult b else b.ule a

/-- A stage whose fields MOD and AUX must be 0. -/
def noFields (f : StageFields) : Lane := modZero f ||| auxZero f
def saturates (f : StageFields) : Lane := modSaturation f ||| auxZero f
def rounds (f : StageFields) : Lane := modRounding f ||| auxZero f
def mode (f : StageFields) : RMode := rmode f.mod.toNat

end Sys2Proof.Claims

/-- R72 to R78: the integer stages and the moves write, in each lane, the value that the rules give. -/
def Obligations.IntegerStagesCompute : Prop :=
  Computes 0x02 .stageMov noFields (fun _ a _ _ => quiet a)
  ∧ Computes 0x03 .stageSel noFields (fun _ a b c => quiet (if a.getLsbD 0 then b else c))
  ∧ Computes 0x04 .iadd saturates (fun f a b _ => narrowed f (a.toInt + b.toInt))
  ∧ Computes 0x05 .isub saturates (fun f a b _ => narrowed f (a.toInt - b.toInt))
  ∧ Computes 0x06 .imul saturates (fun f a b _ => narrowed f (a.toInt * b.toInt))
  ∧ Computes 0x07 .imad saturates (fun f a b c => narrowed f (a.toInt * b.toInt + c.toInt))
  ∧ Computes 0x08 .iand noFields (fun _ a b _ => quiet (a &&& b)) ∧ Computes 0x09 .ior noFields (fun _ a b _ => quiet (a ||| b))
  ∧ Computes 0x0A .ixor noFields (fun _ a b _ => quiet (a ^^^ b)) ∧ Computes 0x0B .iandn noFields (fun _ a b _ => quiet (a &&& ~~~b))
  ∧ Computes 0x0C .ishl saturates (fun f a b _ => narrowed f (a.toInt * 2 ^ (b.toNat % 64)))
  ∧ Computes 0x0D .ishr noFields (fun _ a b _ => quiet (a >>> (b.toNat % 64)))
  ∧ Computes 0x0E .isra noFields (fun _ a b _ => quiet (a.sshiftRight (b.toNat % 64)))
  ∧ Computes 0x0F .icmp auxZero (fun f a b _ => truth (compared f.mod a b))
  ∧ Computes 0x10 .imin noFields (fun _ a b _ => quiet (if b.slt a then b else a))
  ∧ Computes 0x11 .imax noFields (fun _ a b _ => quiet (if a.slt b then b else a))
  ∧ Computes 0x12 .ipopc noFields (fun _ a _ _ => quiet (BitVec.ofNat 36 ((List.range 36).filter fun i => a.getLsbD i).length))
  ∧ Computes 0x13 .iclz noFields (fun _ a _ _ => quiet (BitVec.ofNat 36 ((List.range 36).takeWhile fun i => !a.getLsbD (35 - i)).length))

/-- R62 to R71: the float stages write, in each lane, the FF36 operation that the rules give, in the rounding mode of MOD. -/
def Obligations.FloatStagesCompute : Prop :=
  Computes 0x14 .fadd rounds (fun f a b _ => faddOp (mode f) a b) ∧ Computes 0x15 .fsub rounds (fun f a b _ => fsubOp (mode f) a b)
  ∧ Computes 0x16 .fmul rounds (fun f a b _ => fmulOp (mode f) a b) ∧ Computes 0x17 .fma rounds (fun f a b c => fmaOp (mode f) a b c)
  ∧ Computes 0x18 .fms rounds (fun f a b c => fmsOp (mode f) a b c)
  ∧ Computes 0x19 .fmax noFields (fun _ a b _ => quiet (fmaxOp a b)) ∧ Computes 0x1A .fmin noFields (fun _ a b _ => quiet (fminOp a b))
  ∧ Computes 0x1B .fabs noFields (fun _ a _ _ => quiet (fabsOp a)) ∧ Computes 0x1C .fneg noFields (fun _ a _ _ => quiet (fnegOp a))
  ∧ Computes 0x1D .fcmp auxZero (fun f a b _ => truth (fcmpOp f.mod.toNat a b))
  ∧ Computes 0x1E .fclass noFields (fun _ a _ _ => quiet (fclassOp a)) ∧ Computes 0x1F .frnd rounds (fun f a _ _ => quiet (frndOp (mode f) a))
  ∧ Computes 0x20 .frcp noFields (fun _ a _ _ => frcpOp a) ∧ Computes 0x21 .frsq noFields (fun _ a _ _ => frsqOp a)
  ∧ Computes 0x22 .fexp2 rounds (fun f a _ _ => fexp2Op (mode f) a) ∧ Computes 0x23 .flog2 rounds (fun f a _ _ => flog2Op (mode f) a)
  ∧ Computes 0x24 .fscale rounds (fun f a b _ => fscaleOp (mode f) a b)
  ∧ Computes 0x25 .cvtFi (fun f => modRounding f ||| auxAbove f 1)
      (fun f a _ _ => cvtFiOp (mode f) (if f.aux.getLsbD 0 then .sat32 else .sat36) a)
  ∧ Computes 0x26 .cvtIf rounds (fun f a _ _ => cvtIfOp (mode f) a)

namespace Sys2Proof.Claims

open Sys2Proof.Machine

/-- A stage leaves a result that is given in terms of what it sees and its operands. -/
def Leaves (op : BitVec 6) (i : StageFields → Instr) (r : StageCtx → StageFields → Operands → StageOut) : Prop :=
  ∀ s n k fr f o, StageRuns s n k fr op f o → gives s n k fr op f o (i f) (r (seen s n k fr f) f o)

/-- An accumulating stage adds its terms by the sum of its kind, and reduces or waits (R81). -/
def Accumulates (op : BitVec 6) (i : StageFields → Instr) (kind : AccOp) (scalar : Bool) (mark : StageCtx → Operands → BitVec 3)
    (count : StageCtx → Operands → Nat) (warn : Operands → Lane) (lanes : StageCtx → Operands → Nat → Option Term)
    (terms : AccKind → Operands → List Term) : Prop :=
  Leaves op i fun x f o => x.accumulate op.toNat (accKind kind f.mod.toNat) scalar (mark x o) (count x o) (warn o) (lanes x o)
    (terms (accKind kind f.mod.toNat) o)

/-- The lanes of an operand below its COUNT. -/
def lanesUpTo (o : Operand) (g : Nat → Term) : List Term := (List.range o.count).map g

/-- The lane of A that an `fmab` firing takes: lane 0 of C where C is there, else the iteration number (R86). -/
def fmabLane (x : StageCtx) (o : Operands) : Nat := if o.c.present then (o.c.lane 0).toNat % 16 else x.fr.iter % 16

/-- A stage that stands with no value: it delivers nothing (R50). -/
def passes (s : State) (n k : Nat) (fr : Firing) (op : BitVec 6) (f : StageFields) (i : Instr) (warn : Lane) : Prop :=
  exec i s = .next (thenCompletes n fr (s.setCore n ((s.core n).commitStage k fr (f.dst != 7)
    ((seen s n k fr f).value { Beat.blank 16 markNone with graph := h0Graph (s.core n).active[fr.slot] } 0 warn) (lanternWarn op.toNat f))))

/-- The fallbacks of a join's own fields: key kind 0b11, and end rank 0b00 (R116). -/
def joinCodes (f : StageFields) : Lane := modKeyKind f ||| (if f.aux.toNat / 4 % 4 = 0 then cwAUXX else 0)

/-- A beat of no lanes and no marker. -/
def emptyBeat : Beat := Beat.blank 0 markNone

/-- Number of lanes below l whose bool is true (R17). -/
def trues (o : Operand) (l : Nat) : Nat := ((List.range l).filter fun i => (o.lane i).getLsbD 0).length
/-- Lane i of an operand, 0 from its COUNT on. -/
def laneOr0 (o : Operand) (i : Nat) : Lane := if i < o.count then o.lane i else 0
/-- An operand that lets a gate or a marker through: it has a lane, and bool of lane 0 is true. -/
def lets (o : Operand) : Bool := decide (1 ≤ o.count) && (o.lane 0).getLsbD 0

end Sys2Proof.Claims

/-- R79 to R87: `acc` adds each lane of its operand to the lane's sum, `fmab` and `dot` add exact products, `rmax`, `rmin` and `ramax` take the
greatest, the least and the greatest magnitude. The COUNT 0 of a result marked SWAP, DRAIN or FAULT, and the part of a reserved operand in COUNT and
marker, are the model's choice (log 129, 95). Choices of the model: log 95, 129. -/
def Obligations.AccumulatingStagesAccumulate : Prop :=
  Accumulates 0x27 .acc .sum false (fun _ o => o.a.mark) (fun _ o => o.a.count) (fun _ => 0)
    (fun _ o l => if l < o.a.count then some (.word (o.a.lane l)) else none) (fun _ _ => [])
  ∧ Accumulates 0x28 .fmab .sum false (fun x o => if fmabLane x o = o.a.count - 1 then o.a.mark else markNone)
    (fun x o => if fmabLane x o < o.a.count then 1 else 0) (fun _ => 0)
    (fun x o l => if fmabLane x o < o.a.count ∧ l < o.b.count then some (.prod (o.a.lane (fmabLane x o)) (o.b.lane l)) else none) (fun _ _ => [])
  ∧ Accumulates 0x29 .dot .sum true (fun _ o => markOf [o.a, o.b]) (fun _ o => countOf [o.a, o.b]) (fun o => cntmOf [o.a, o.b]) (fun _ _ _ => none)
    (fun _ o => (List.range (countOf [o.a, o.b])).map fun l => .prod (o.a.lane l) (o.b.lane l))
  ∧ Accumulates 0x2A .rmax .greater true (fun _ o => o.a.mark) (fun _ o => o.a.count) (fun _ => 0) (fun _ _ _ => none)
    (fun _ o => lanesUpTo o.a fun l => .word (o.a.lane l))
  ∧ Accumulates 0x2B .rmin .lesser true (fun _ o => o.a.mark) (fun _ o => o.a.count) (fun _ => 0) (fun _ _ _ => none)
    (fun _ o => lanesUpTo o.a fun l => .word (o.a.lane l))
  ∧ Accumulates 0x2C .ramax .magnitude true (fun _ o => o.a.mark) (fun _ o => o.a.count) (fun _ => 0) (fun _ _ _ => none)
    (fun kd o => lanesUpTo o.a fun l => .word (if kd.float then fabsOp (o.a.lane l) else BitVec.ofNat 36 (o.a.lane l).toInt.natAbs))

/-- R35, R80 to R82: with wrapping integers and an empty accumulator, a scalar reduction of up to sixteen terms comes to their sum modulo 2^36,
whichever of the three shapes adds them. -/
def Obligations.EveryShapeSumsWrappingIntegers : Prop :=
  ∀ (x : StageCtx) op m n warn lanes (terms : List Term), x.f.mod = 4 → x.f.aux.toNat % 4 = 0 → terms.length ≤ 16 →
    x.core.dyn[x.fr.slot].sections[x.fr.stage - 1]?.getD AccSection.empty = AccSection.empty → op ≠ 0x2A → op ≠ 0x2B →
    let r := x.accumulate op (accKind .sum 4) true m n warn lanes terms
    r.val.lanes[0] = BitVec.ofInt 36 (terms.map (Term.int (accKind .sum 4))).sum ∧ r.val.count = 1 ∧ r.val.mark = m ∧ r.flags = 0

/-- R97, R104 to R108, R115: the flow stages that look at no window. The COUNT 0 of a result marked SWAP, DRAIN or FAULT, and the part of a reserved
operand in COUNT and marker, are the model's choice (log 129, 95). Choices of the model: log 95, 129. -/
def Obligations.FlowStagesMoveLanes : Prop :=
  Leaves 0x01 .stageStop (fun x f o => { x.value emptyBeat 0 (noFields f) with setMask := !o.a.present || lets o.a })
  ∧ Leaves 0x2D .steer (fun x f o =>
      let N := countOf [o.a, o.b]
      let side (b : Bool) : Beat :=
        let l := ((List.range N).filter fun i => (o.b.lane i).getLsbD 0 == b).map o.a.lane
        result l.length markNone fun i => l[i]?.getD 0
      { x.value (result N o.a.mark fun l => if (o.b.lane l).getLsbD 0 then 1 else 0) 0 (modBit2 f ||| cntmOf [o.a, o.b]) with
        outs := (if f.mod.getLsbD 1 then [] else [(.port (Fin.ofNat 4 (f.aux.toNat / 4 % 4)), side true)])
          ++ (if f.mod.getLsbD 0 then [] else [(.port (Fin.ofNat 4 (f.aux.toNat % 4)), side false)]) })
  ∧ Leaves 0x30 .cmpx (fun x f o =>
      let p := if o.b.present then o.b else o.a
      let d := 2 ^ (f.aux.toNat % 4)
      let swaps := cmpxSwaps f o.a.count fun l => keyOf (f.mod.toNat % 4) (o.a.lane l)
      x.value (result o.a.count o.a.mark fun l =>
        if l / d % 2 = 0 then (if swaps l (l + d) then p.lane (l + d) else p.lane l) else if swaps (l - d) l then p.lane (l - d) else p.lane l)
        0 (modKeyKind f))
  ∧ Leaves 0x31 .cpr (fun x f o =>
      let kept (l : Nat) : Nat := ((cprKept (cprKey (f.mod.getLsbD 1) o.a.count o.a.lane) (l / 2 * 4))[l % 2]?).getD 0
      x.value (result (2 * ((o.a.count + 3) / 4)) o.a.mark fun l =>
        if f.mod.getLsbD 0 then BitVec.ofNat 36 (kept l) else o.a.lane (l / 2 * 4 + kept l)) 0 (modBit2 f ||| auxZero f))
  ∧ Leaves 0x32 .stageMark (fun x f o =>
      x.value (result o.a.count (if f.mod.toNat ≤ 4 ∧ (!o.b.present || lets o.b) then f.mod else o.a.mark) o.a.lane) 0
        (modFrom f 5 ||| auxZero f))
  ∧ Leaves 0x33 .strip (fun x f o =>
      let c := f.mod.toNat % 4
      let m := if c < markRank o.a.mark then BitVec.ofNat 3 c else if o.a.mark = markSOT ∧ c = 0 then markNone else o.a.mark
      x.value (result o.a.count m o.a.lane) 0 (modBit2 f ||| auxZero f))
  ∧ Leaves 0x34 .gate (fun x f o =>
      x.value (if lets o.b then result o.a.count o.a.mark o.a.lane else Beat.blank 0 (if f.aux.getLsbD 0 then o.a.mark else markNone)) 0
        (modZero f ||| auxAbove f 1))
  ∧ Leaves 0x35 .cnt (fun x f o =>
      x.value (if f.mod = 1 then result 1 o.a.mark (fun _ => BitVec.ofNat 36 (trues o.a o.a.count))
        else if f.mod = 2 then result o.a.count o.a.mark (fun l => BitVec.ofNat 36 (trues o.a l))
        else result 1 o.a.mark (fun _ => BitVec.ofNat 36 o.a.count)) 0 (modFrom f 3 ||| auxZero f))
  ∧ Leaves 0x36 .bcast (fun x f o =>
      x.value (result o.a.count o.a.mark fun _ => laneOr0 o.a (if o.b.present then (o.b.lane 0).toNat % 16 else f.aux.toNat)) 0 (modZero f))
  ∧ Leaves 0x37 .shuf (fun x f o =>
      let from_ (l : Nat) : Nat := if f.mod = 1 then (l + f.aux.toNat) % 16 else if f.mod = 2 then l ^^^ f.aux.toNat else if f.mod = 3 then 15 - l
        else if l < o.b.count then (o.b.lane l).toNat % 16 else 0
      x.value (result o.a.count o.a.mark fun l => laneOr0 o.a (from_ l)) 0 (modFrom f 4))
  ∧ Leaves 0x38 .pack (fun x f o =>
      let l := ((List.range o.a.count).filter fun i => (o.b.lane i).getLsbD 0).map o.a.lane
      x.value (result l.length o.a.mark fun i => l[i]?.getD 0) 0 (noFields f))
  ∧ Leaves 0x39 .unpack (fun x f o =>
      x.value (result o.b.count o.a.mark fun l =>
        if (o.b.lane l).getLsbD 0 then laneOr0 o.a (trues o.b l) else if o.c.present then o.c.lane l else 0) 0 (noFields f))

/-- R50, R98 to R103, R109 to R114, R116: `nop` passes a firing on, and so does a stage that names a window without a tap; the stages that work on
windows give their results when the elements they need are filled. -/
def Sys2Proof.Claims.WindowStagesWork : Prop :=
  (∀ s n k fr f o,
    (StageRuns s n k fr 0x00 f o → passes s n k fr 0x00 f (.stageNop .plain f) (noFields f))
    ∧ (StageRuns s n k fr 0x3E f o → passes s n k fr 0x3E f (.stageNop .reserved3E f) cwOPC)
    ∧ (StageRuns s n k fr 0x3F f o → passes s n k fr 0x3F f (.stageNop .reserved3F f) cwOPC))
  ∧ (∀ s n k fr f o wt wf m, StageRuns s n k fr 0x2E f o → let x := seen s n k fr f
    codeWin x.h f.b = some wt → codeWin x.h f.c = some wf →
    let dyn := x.core.dyn[fr.slot]
    let br := dyn.branches[fr.stage - 1]?.getD Branch.init
    x.replay wt wf ((List.range o.a.count).map fun l => (o.a.lane l).getLsbD 0) ⟨[], ⟨0, br.usedTrue, 0⟩, ⟨0, br.usedFalse, 0⟩, [], 0⟩ = .ok m →
    gives s n k fr 0x2E f o (.merge f)
      { x.value (result m.lanes.length o.a.mark fun i => m.lanes[i]?.getD 0) 0 (noFields f ||| m.cwarn) with
        dyn := { dyn with branches := dyn.branches.setIfInBounds (fr.stage - 1) { br with usedTrue := m.t.used, usedFalse := m.f.used } },
        reads := m.reads,
        shrinks := (if m.t.done = 0 ∨ !x.core.ordinary wt then [] else [(wt, m.t.done)])
          ++ (if m.f.done = 0 ∨ !x.core.ordinary wf then [] else [(wf, m.f.done)]) })
  ∧ (∀ s n k fr f o wl wr r, StageRuns s n k fr 0x2F f o → let x := seen s n k fr f
    codeWin x.h f.a = some wl → codeWin x.h f.b = some wr → x.core.narrow wl = false → x.core.narrow wr = false →
    let constant := 16 ≤ f.c.toNat ∧ f.c.toNat < 24; let e := f.aux.toNat / 4 % 4
    x.joinFiring wl wr (x.core.dyn[fr.slot].branches[fr.stage - 1]?.getD Branch.init)
      ⟨f.mod.toNat % 4, f.mod.getLsbD 2, f.aux.toNat % 4, if constant then x.core.kActive[f.c.toNat - 16]?.getD 0 else 0, h0Strict x.h⟩
      (if e = 0 then 2 else e) (joinCodes f ||| (if constant then 0 else cwOPND)) = .out r →
    gives s n k fr 0x2F f o (.join f) r)
  ∧ (∀ (k : JoinCode) (j : JoinRun) n el er, k.strict = true → j.emitted.length < 16 → j.l.ended = some el → j.r.ended = some er →
    let badL := !el && (j.l.use.reach k.kind k.dup).2; let badR := !er && (j.r.use.reach k.kind k.dup).2
    let stops (key : Lane) (w : Win) := ∃ j', joinSteps k (n + 1) j = .ok j' ∧ j'.fault = some (key, w) ∧ j'.cwarn = j.cwarn ||| cwJKEY
      ∧ j'.emitted = j.emitted ∧ j'.l.cur = j.l.cur ∧ j'.l.mark = j.l.mark ∧ j'.r.cur = j.r.cur ∧ j'.r.mark = j.r.mark
    (badL = true → stops j.l.key j.l.w) ∧ (badL = false → badR = true → stops j.r.key j.r.w))
  ∧ (∀ s n k fr f o j u, StageRuns s n k fr 0x3A f o → let x := seen s n k fr f
    tapCode f.a = some j →
    x.updateLanes (tapOf x.h j) f.mod.toNat o.a.lane o.b.lane (List.range (countOf [o.a, o.b])) ⟨[], [], 0, 0, []⟩ = .ok u →
    gives s n k fr 0x3A f o (.wupd f)
      { x.value (result (countOf [o.a, o.b]) (markOf [o.a, o.b]) fun l => u.old[l]?.getD 0) u.flags
          (auxZero f ||| (if f.mod = 7 then cwMODX else 0) ||| cntmOf [o.a, o.b] ||| u.cwarn) with
        writes := if f.mod = 7 then [] else u.writes.reverse, reads := u.reads })
  ∧ Leaves 0x3B .wfill (fun x f o =>
      let v := result o.a.count o.a.mark o.a.lane
      { x.value v 0 (modZero f) with outs := [(.win (Fin.ofNat 16 f.aux.toNat), v)] })
  ∧ (∀ s n k fr f o w, StageRuns s n k fr 0x3C f o → let x := seen s n k fr f
    codeWin x.h f.a = some w →
    let bind := if wdBound (x.core.desc w) = false then cwTUNB else if wdParam (x.core.desc w) then cwTRANGE else 0
    (o.b.present = false → gives s n k fr 0x3C f o (.shrink f) (x.value emptyBeat 0 (modZero f ||| bind)))
    ∧ (o.b.present = true → let z := (o.b.lane 0).toInt
      let count := if o.b.count = 0 then 0 else (max 0 (min z 1024)).toNat
      gives s n k fr 0x3C f o (.shrink f)
        { x.value emptyBeat 0 (modZero f ||| bind ||| (if o.b.count ≠ 0 ∧ (z < 0 ∨ 1024 < z) then cwTRANGE else 0)) with
          shrinks := if count = 0 ∨ x.core.ordinary w = false then [] else [(w, count)] }))
  ∧ (∀ s n k fr f o w, StageRuns s n k fr 0x3D f o → let x := seen s n k fr f
    codeWin x.h f.a = some w → wdBound (x.core.desc w) = true →
    gives s n k fr 0x3D f o (.wcnt f) (x.value (result 5 markNone fun l =>
      [(x.core.win w).shrunk + BitVec.ofNat 36 (x.core.pendingOf k w), BitVec.ofNat 36 (wdCap (x.core.desc w)),
       BitVec.ofNat 36 (wdBase (x.core.desc w)), if wdBeat (x.core.desc w) then 1 else 0, if wdParam (x.core.desc w) then 1 else 0][l]?.getD 0)
      0 (noFields f)))
  ∧ (∀ s n k fr f o w, StageRuns s n k fr 0x3D f o → let x := seen s n k fr f
    codeWin x.h f.a = some w → wdBound (x.core.desc w) = false →
    gives s n k fr 0x3D f o (.wcnt f) (x.value (result 5 markNone fun _ => 0) 0 (noFields f ||| cwTUNB)))
  ∧ (∀ s n k fr f o, let x := seen s n k fr f
    (StageRuns s n k fr 0x2E f o → codeWin x.h f.b = none ∨ codeWin x.h f.c = none → passes s n k fr 0x2E f (.merge f) (noFields f ||| cwOPND))
    ∧ (StageRuns s n k fr 0x2F f o → codeWin x.h f.a = none ∨ codeWin x.h f.b = none → passes s n k fr 0x2F f (.join f) (joinCodes f ||| cwOPND))
    ∧ (∀ wl wr, StageRuns s n k fr 0x2F f o → codeWin x.h f.a = some wl → codeWin x.h f.b = some wr →
        x.core.narrow wl = true ∨ x.core.narrow wr = true → passes s n k fr 0x2F f (.join f) (joinCodes f ||| cwOPND))
    ∧ (StageRuns s n k fr 0x3A f o → codeWin x.h f.a = none → passes s n k fr 0x3A f (.wupd f) (auxZero f ||| cwOPND))
    ∧ (StageRuns s n k fr 0x3C f o → codeWin x.h f.a = none → passes s n k fr 0x3C f (.shrink f) (modZero f ||| cwOPND))
    ∧ (StageRuns s n k fr 0x3D f o → codeWin x.h f.a = none → passes s n k fr 0x3D f (.wcnt f) (noFields f ||| cwOPND)))

/-- R39, R42: every stage, whatever its opcode, holds while an older firing must go first, and where an operand waits for an element of a window; only
the hold of its firing changes. -/
def Sys2Proof.Claims.StageWaitsForItsElements : Prop :=
  ∀ i op f s n k fr, stageOpcode i = some (op, f) → StandsAt s n k fr → let u := s.core n
    let older := (u.pipe.take k).any fun g => u.mustWait u.active[fr.slot] (stageWord op f) u.active[g.slot] g.stage
    (older = true → exec i s = holding s n k u fr .older)
    ∧ (∀ w, older = false → ((seen s n k fr f).operandsOf op.toNat).wait = some w → exec i s = holding s n k u fr (.read w))

/-- R39, R42, R50, R98 to R103, R109 to R114, R116: `nop` passes a firing on; the stages that work on windows give their results when the elements they
need are filled; under STRICT a `join` whose key is out of order stops its step before it uses the key; a reserved `wupd` updates nothing; every stage
whose operand waits for an element holds. Choices of the model: log 11, 22, 23, 96, 97, 98, 99, 100, 125, 126, 127, 129. -/
def Obligations.WindowStagesWork : Prop := Claims.WindowStagesWork ∧ Claims.StageWaitsForItsElements

namespace Sys2Proof.Claims

open Sys2Proof.Machine

/-! ## Events of a core -/

/-- The next command that a unit is to apply of a sequencer's is c, at place k of the commands (R220). -/
def Next (s : State) (unit : UnitId) (q k : Nat) (c : Cmd) : Prop := s.cmdFor unit q = some (k, c) ∧ s.cmds[k]? = some c ∧ c.unit = unit

/-- A store of a doubleword, as a command to a control address. -/
def IsStore (c : Cmd) : Prop := ∃ d a w u off g, c.instr = .st d a w u off g

/-- The event applies a register write to a core as f says. -/
def Registers (s : State) (n k : Nat) (c : Cmd) (i : Instr) (f : Core → Core) : Prop :=
  exec i s = .next (answered (s.setCore n (active s (f (s.core n)))) k c [])

/-- So does one that takes the issue slot of its cycle, where that is free (R137). -/
def RegistersInSlot (s : State) (n k : Nat) (c : Cmd) (i : Instr) (f : Core → Core) : Prop :=
  SlotFree s n → exec i s = .next (answered (s.setCore n (slotTaken s (f (s.core n)))) k c [])

/-- The firing that an issue adds (R39, R55). -/
def newFiring (c : Core) (slot : Fin 8) (exits : Bool) : Firing :=
  { slot := slot, iter := c.dyn[slot].iter, stage := 1, sent := 0, vals := Vector.replicate 6 none,
    fixedShrinks := fixedShrinksOf c c.active[slot], shrinks := [], aflg := 0, cwarn := headerWarn c c.active[slot], exits := exits,
    setMask := exits && h11Xmask c.active[slot], hold := none }

end Sys2Proof.Claims

/-- R39, R55, R134, R135, R137: a core issues the selected handler when stage 1 is free, and the issue slot of the cycle: one firing joins the
pipeline, the iteration counter moves on, and the slot becomes the most recently fired. For a heavy handler the core must hold a lantern (R350). A head
beat whose control word cannot be corrected stops the core, with the firing held (R120). Choices of the model: log 21, 101, 102, 150. -/
def Obligations.FiringIssues : Prop :=
  ∀ s n slot, (s.core n).stop = false → s.coreStopping n = false → SlotFree s n → s.slotClaimed n = false → s.select n = some slot →
    let u := s.core n; let h := u.active[slot]
    u.pipe.length < 6 → (∀ f ∈ u.pipe, 2 ≤ f.stage) → u.unsettled slot = false →
    (u.headBeat h = none → ∃ t, exec (.firingIssue n) s = .next t
      ∧ (t.core n).pipe = u.pipe ++ [newFiring u slot false] ∧ (t.core n).openGraph = u.openGraph ∧ (t.core n).slotCycle = some s.now
      ∧ (t.core n).dyn[slot].iter = (if u.dyn[slot].iter + 1 = h11Ilim h then 0 else (u.dyn[slot].iter + 1) % 1024)
      ∧ (t.core n).lru = u.lru.filter (· != slot) ++ [slot] ∧ (t.core n).store = u.store
      ∧ (heavyRec h = true → (t.core n).lit = true))
    ∧ (∀ b a, u.headBeat h = some (b, a) → u.badRead [(a + 16, h0Trig h)] = none →
      let exits := decide (h11Xrank h ≠ 0) && (u.dyn[slot].exitGroup.after b.count b.mark).meets b.mark (h11Xrank h)
      ∃ t, exec (.firingIssue n) s = .next t ∧ (t.core n).pipe = u.pipe ++ [newFiring u slot exits]
        ∧ (t.core n).dyn[slot].iter = (if exits ∨ u.dyn[slot].iter + 1 = h11Ilim h then 0 else (u.dyn[slot].iter + 1) % 1024)
        ∧ (u.openGraph = none → (t.core n).openGraph = if b.mark = markSOT then some (h0Graph h) else none)
        ∧ (u.openGraph = some (h0Graph h) →
          let g := u.triggerGroup (h0Trig h)
          let sameBoundary := b.count = 0 ∧ g.isOpen = true ∧ 2 ≤ g.rank
          (t.core n).openGraph = if 2 ≤ markRank b.mark ∧ ¬ sameBoundary then none else some (h0Graph h)))
    ∧ (∀ b a hit, u.headBeat h = some (b, a) → u.badRead [(a + 16, h0Trig h)] = some hit →
      ∃ t, exec (.firingIssue n) s = .next t ∧ (t.core n).stop = true
        ∧ (t.core n).pipe = u.pipe ++ [{ newFiring u slot false with hold := some .stopped }])

/-- R134, R40: the handler that issues is a ready one, no ready handler has a higher PRIO, and none of the same PRIO was fired less recently. -/
def Obligations.SelectedHandlerHasHighestPriority : Prop :=
  ∀ (s : State) n slot, s.select n = some slot →
    slot ∈ (s.core n).lru ∧ s.ready n slot = true
      ∧ ∀ k ∈ (s.core n).lru, s.ready n k = true → h0Prio (s.core n).active[k] ≤ h0Prio (s.core n).active[slot]
        ∧ (h0Prio (s.core n).active[k] = h0Prio (s.core n).active[slot] → (s.core n).lru.idxOf slot ≤ (s.core n).lru.idxOf k)

/-- R41: a firing that has run its six stages completes: its shrinks take effect, and its flags, warnings and MASK. -/
def Obligations.FiringCompletes : Prop :=
  ∀ s n fr rest, s.coreFrozen n = false → (s.core n).pipe = fr :: rest → fr.stage = 7 →
    let u := s.core n; let u' := Core.applyShrinks { u with pipe := rest } (fr.shrinks ++ fr.fixedShrinks)
    exec (.firingComplete n) s = .next (s.setCore n { u' with
      heavyDone := if heavyRec u.active[fr.slot] then s.now else u'.heavyDone,
      aflg := u'.aflg ||| fr.aflg, cwarn := u'.cwarn ||| fr.cwarn,
      active := if fr.setMask then u'.active.set fr.slot (HandlerRec.setMask u'.active[fr.slot] true) else u'.active })

/-- R126 to R131, R133, R234: a staged beat moves to every output of its switch word in one cycle when all of them can take it, and waits else; it
goes into the local window, or is discarded, where no switch word names it or a neighbour has none for it with NOROUTE; a pending SWAP leaves its port
when the staging register is free. Choices of the model: log 106. -/
def Obligations.RouterMovesBeats : Prop :=
  (∀ s n sel link b x, s.routerStill n = false → let u := s.core n
    u.stagedBeat sel link = some b → u.switch? sel link = some x →
    (∀ d m, maskDirs (effectiveMask x) = [d] → maskLocal (effectiveMask x) = false → s.neighbour n d = some m →
      s.sideTakes m (opposite d) link = true →
      exec (.routerForward n sel link) s = .next ((s.setCore n (u.unstage sel link)).takeSide m (opposite d) link b))
    ∧ (effectiveMask x = 0 → exec (.routerForward n sel link) s = .next (s.setCore n (u.unstage sel link)))
    ∧ (∀ w u', effectiveMask x = 1 → (u.unstage sel link).linkWin link = some w → (u.unstage sel link).fillBeat w b = some u' →
      exec (.linkFill n sel link) s = .next (s.setCore n u'))
    ∧ (effectiveMask x = 1 → (u.unstage sel link).linkWin link = none →
      exec (.linkFill n sel link) s = .next (s.setCore n { u.unstage sel link with rwarn := u.rwarn ||| rwNOWIN }))
    ∧ (let dirs := maskDirs (effectiveMask x)
      let takes (d : Dir) : Prop := ∃ m, s.neighbour n d = some m ∧ s.sideTakes m (opposite d) link = true
      dirs ≠ [] →
      (∀ u', (∀ d ∈ dirs, takes d) →
        (if maskLocal (effectiveMask x) then (u.unstage sel link).fillLocal link b else some (u.unstage sel link)) = some u' →
        exec (.routerForward n sel link) s = .next (dirs.foldl (fun t d => match t.neighbour n d with
          | some m => t.takeSide m (opposite d) link b
          | none => t) (s.setCore n u')))
      ∧ ((∃ d ∈ dirs, ¬ takes d) → exec (.routerForward n sel link) s = .next s)
      ∧ (maskLocal (effectiveMask x) = true → (u.unstage sel link).fillLocal link b = none → exec (.routerForward n sel link) s = .next s))
    ∧ (∀ d m, maskDirs (effectiveMask x) = [d] → maskLocal (effectiveMask x) = false → s.neighbour n d = some m →
      s.sideTakes m (opposite d) link = true → (s.core m).switch? (dirCode (opposite d)) link = none →
      ∃ t, exec (.routerForward n sel link) s = .next t ∧ (t.core m).rwarn = (s.core m).rwarn ||| rwNOROUTE))
  ∧ (∀ s n sel link b, s.routerStill n = false → let u := s.core n
    u.stagedBeat sel link = some b → u.switch? sel link = none →
    exec (.routerForward n sel link) s = .next (s.setCore n { u.unstage sel link with rwarn := u.rwarn ||| rwNOROUTE }))
  ∧ (∀ s n port l, s.routerStill n = false → let u := s.core n
    u.swapPorts[port] = true → u.portLink port = some l → u.staged (BitVec.ofNat 4 (4 + port)) l = false →
      exec (.swapPortSend n port) s =
        .next (s.setCore n { u with staging := u.staging ++ [⟨BitVec.ofNat 4 (4 + port), l, Beat.blank 0 markSWAP⟩],
                                    swapPorts := u.swapPorts.set port false }))

/-- R120, R300: a soft error marks a store word, and a second one makes it uncorrectable; a link failure is counted and the flit sent again; the
fourth failure in a row stops the link and raises core fault 4. Choices of the model: log 20, 25, 79. -/
def Obligations.ErrorsMarkWordsAndLinks : Prop :=
  (∀ s n addr, let u := s.core n; let a := addr % 8192
    (u.softStore.contains a = false → u.badStore.contains a = false →
      exec (.storeSoftError n addr false) s = .next (s.setCore n { u with softStore := a :: u.softStore }))
    ∧ (exec (.storeSoftError n addr true) s =
      .next (s.setCore n { u with badStore := a :: u.badStore.filter (· != a), softStore := u.softStore.filter (· != a) }))
    ∧ (u.softStore.contains a = true → exec (.storeSoftError n addr false) s = exec (.storeSoftError n addr true) s))
  ∧ (∀ s l, s.deadLinks.contains l = false →
    exec (.linkReplay l) s = .next { s with lretry := countUp s.lretry (linkDie l),
                                            linkFails := (l, s.failsOf l + 1) :: s.linkFails.filter fun p => p.1 != l })
  ∧ (∀ s n d, s.deadLinks.contains (.fabric n d) = false → 3 ≤ s.failsOf (.fabric n d) →
    exec (.uncorrectableLinkError (.fabric n d)) s =
      .next (faulted { s with deadLinks := .fabric n d :: s.deadLinks, linkFails := s.linkFails.filter fun p => p.1 != .fabric n d }
        n 4 0 0 ((s.core n).sideWin d) 0 0 0))

/-- R137, R139, R141, R266, R305: a unit applies, as events of its own, the window commands and register writes of a sequencer in their order. -/
def Obligations.CommandsApplyAsEvents : Prop :=
  (∀ s n q k c, Next s (.core n) q k c → CoreOpen s n → Idle (s.core n) →
    let u := s.core n; let w := refWindow c.a; let i := refOffset c.a; let o := c.a.toNat % 65536; let v : Lane := c.d.setWidth 36
    let does (u' : Core) (vals : List Word) :=
      SlotFree s n → exec (.coreWindowCommandApply n q) s = .next (answered (s.setCore n (slotTaken s u')) k c vals)
    (∀ d a b x g, c.instr = .wrdCore d a b x g → u.refuses 0 c.a = false → u.settled w i = true → u.badStore.contains (u.refAddr c.a) = false →
      does (u.correctStore [(u.refAddr c.a, w)]) [(u.refWord c.a (u.refAddr c.a)).setWidth 64])
    ∧ (∀ d a b x g u', c.instr = .wflCore d a b x g → u.refuses 1 c.a = false → u.fillCommand w (fillOf c.b) = some u' → does u' [0])
    ∧ (∀ d a b x g, c.instr = .wshrCore d a b x g → u.refuses 2 c.a = false → i ≤ u.visible w → does (u.shrinkWin w i false) [0])
    ∧ (∀ d a b x g, c.instr = .wstCore d a b x g → u.refuses 3 c.a = false → u.settled w i = true →
      does (u.storeWord (u.refAddr c.a) (c.b.setWidth 36)) [0])
    ∧ (IsStore c → o = 0x0040 → RegistersInSlot s n k c (.hmsetWrite n q) fun x => x.writeMask (c.d.toNat % 256) true)
    ∧ (IsStore c → o = 0x0048 → RegistersInSlot s n k c (.hmclrWrite n q) fun x => x.writeMask (c.d.toNat % 256) false)
    ∧ (∀ j : Fin 4, IsStore c → o = 0x0500 + 8 * j.val → Registers s n k c (.loopGuardWrite n q) fun x =>
        { x with guards := x.guards.set j ((v &&& 0xFFFFFFFE0) ||| (if x.guards[j].getLsbD 4 ∧ v.getLsbD 4 = false then 0x10 else 0)) })
    ∧ (IsStore c → o = 0x0018 → Registers s n k c (.coreRegisterWrite n q) fun x => { x with cwarn := x.cwarn &&& ~~~v })
    ∧ (IsStore c → o = 0x0028 → Registers s n k c (.coreRegisterWrite n q) fun x => { x with cfault := 0 }))
  ∧ (∀ s (die : Fin 16) q k c, Next s (.die die) q k c → IsStore c →
    (c.a.toNat % 65536 = 8 → exec (.dieRegisterWrite die q) s = .next (answered { s with fecc := sparsePut s.fecc die 0 } k c []))
    ∧ (c.a.toNat % 65536 = 16 → exec (.dieRegisterWrite die q) s = .next (answered { s with lretry := sparsePut s.lretry die 0 } k c [])))

/-- R143, R282 to R285, R298: a blocked core sends its one probe along its wait edge; a probe is forwarded by a blocked core, dropped at one that is not,
and reported as a window deadlock when it comes back to its origin, if that is the lowest core it has visited, with the slot and the stage of the
firing that holds there. Choices of the model: log 90. -/
def Obligations.ProbesFollowWaitEdges : Prop :=
  ∀ s n r, s.regionOfCore n = some r →
    (∀ p, (s.core n).probeSent = false → s.coreBlocked n = true →
      let s' := s.setCore n { s.core n with probeSent := true }
      s'.advanceProbe r ⟨n, n, n, [], [n]⟩ = some p → exec (.echoProbeSend n) s = .next { s' with probes := s'.probes ++ [p] })
    ∧ (∀ i p, s.probes[i]? = some p → (∀ o ∈ s.probes.take i, o.sameWay p = false) → s.probeWaits p = false → p.origin = n → let s' := { s with probes := dropNth s.probes i }
      (s'.coreBlocked p.at_ = false → exec (.echoProbeHop i) s = .next s')
      ∧ (s'.coreBlocked p.at_ = true → p.trail.length < 1024 → p.at_ ≠ n → p.at_ ∉ p.passed → ∀ p',
        s'.advanceProbe r { p with lowest := min p.lowest p.at_, passed := p.at_ :: p.passed } = some p' →
        exec (.echoProbeHop i) s = .next { s' with probes := s'.probes ++ [p'] })
      ∧ (s'.coreBlocked p.at_ = true → p.trail.length < 1024 → p.at_ = n → p.lowest = n →
        exec (.echoProbeHop i) s = .next (faulted (s'.setCore n { s'.core n with trail := p.trail.take 64 }) n 3
          (s'.heldAt r n).1 (s'.heldAt r n).2 ((p.trail.headD 0).toNat / 2 ^ 16 % 16) 0
          (BitVec.ofNat 64 p.trail.length)
          (BitVec.ofNat 64 ((p.trail.headD 0).toNat / 2 ^ 16 % 16 + 16 * ((p.trail.headD 0).toNat / 2 ^ 20 % 2))))))

namespace Sys2Proof.Claims

open Sys2Proof.Machine

/-! ## Events of an edge slot -/

/-- A run of the slot is in progress, its core stands in a region that neither freezes nor goes to a checkpoint, and no flip holds it (R235, R269,
R272). -/
structure EdgeRuns (s : State) (n : Nat) (e : Fin 4) : Prop where
  state : (s.core n).edge[e].state = .running
  clear : (s.core n).edge[e].waitFlip = false ∧ (s.core n).edge[e].parked = false
  region : ∃ r, s.regionOfCore n = some r ∧ r.freezing = false ∧ r.frozen = false ∧ r.checkpoint = none

/-- A load run between beats: it has elements left, and no beat that waits to be filled. -/
structure LoadGoes (sl : EdgeSlot) : Prop where
  kind : sl.loadKind = true
  going : sl.closed = false ∧ sl.finished = false ∧ sl.stopping = false

/-- A load or gather between beats of a row: with a token where it needs one, and an open tile where it has tiles. -/
structure Loading (sl : EdgeSlot) : Prop extends LoadGoes sl where
  notRagged : sl.kind ≠ 5
  token : sl.byToken = true → sl.token.isSome = true
  tile : sl.tiled = true → sl.tileOpen = true

/-- A store run that can take its next element or unit: it has elements left, a token where it needs one, and room under the limit of 64 (R311). -/
structure Storing (sl : EdgeSlot) : Prop where
  kind : sl.storeKind = true
  going : sl.finished = false
  token : sl.byToken = true → sl.token.isSome = true
  room : sl.mayIssue = true

/-- The row ends with the m elements from the cursor on. -/
def rowEnds (sl : EdgeSlot) (m : Nat) : Bool := decide (sl.walk 0 ≤ sl.cursor[0] + m)

/-- A slot of a core in place of another. -/
def withSlot (s : State) (n : Nat) (e : Fin 4) (c : Core) (sl : EdgeSlot) : State := s.setCore n { c with edge := c.edge.set e sl }

/-- A bit-plane element is read with k planes: KREAD, and ELAS where the slot names more (R167, R171). -/
def readPlanes (c : Core) (e : Fin 4) (k : Nat) : Core :=
  { c with ewarn := if k < c.edge[e].planesNamed then c.ewarn ||| ewELAS else c.ewarn,
           edge := c.edge.set e { c.edge[e] with kread := if c.edge[e].kread = 0 then k else min c.edge[e].kread k } }

/-- The loads of the element at the cursor have been issued, of so many planes where it is a bit-plane element that is not clipped; those of a row
walked by a token are then all out (R152). -/
def fetched (s : State) (n : Nat) (e : Fin 4) (planes : Option Nat) (ps : List Piece) : State :=
  let c := match planes with | some k => readPlanes (s.core n) e k | none => s.core n
  let c := if ((s.edgeSlot n e).byToken && rowEnds (s.edgeSlot n e) 1) then c.rowIssued e else c
  let k := planes.getD 0
  withSlot s n e c { c.edge[e] with fetches := c.edge[e].fetches ++ [⟨c.edge[e].cursor, k, ps⟩] }

/-- The element at the cursor is clipped, or its row as a whole. -/
def clippedHere (sl : EdgeSlot) : Bool := sl.clipped sl.cursor || sl.rowOut

/-- R150, R151, R300, R311: a load or gather issues the loads of the element at its cursor, none where it is clipped, and withholds it where they do
not translate; where a walk waits for a link that has stopped, the run waits too. -/
def LoadsAreIssued : Prop :=
  ∀ s n e, EdgeRuns s n e → let sl := s.edgeSlot n e; let w := sl.place sl.cursor 0
    Loading sl → sl.fetches = [] →
    (clippedHere sl = true → exec (.edgeLoadBeat n e) s = .next (fetched s n e none []))
    ∧ (clippedHere sl = false → ∀ k s0, (if sl.bp then s.planesFor n e (sl.groupAddr w) else (0, s)) = (k, s0) →
      (∀ ps s', s0.edgeFetch n e (sl.elementPieces w k) = (.ok ps, s') → exec (.edgeLoadBeat n e) s = .next (fetched s' n e (if sl.bp then some k else none) ps))
      ∧ (∀ va s', s0.edgeFetch n e (sl.elementPieces w k) = (.error (0, va), s') → exec (.edgeLoadBeat n e) s = .next s')
      ∧ (∀ cause va s', cause ≠ 0 → s0.edgeFetch n e (sl.elementPieces w k) = (.error (cause, va), s') →
        ∃ t, exec (.edgeLoadBeat n e) s = .next t ∧ (t.core n).edge[e].state = .withholding ∧ (t.core n).edge[e].faultAddr = addrWord va
          ∧ (t.core n).edge[e].cursor = sl.cursor))

/-- The existence bit of an element (R319): of BP8 and BP4 that of its records alone. -/
def existence (sl : EdgeSlot) (f : Fetch) : Bool :=
  match gatherPieces (if sl.bp then f.pieces.take f.planes else f.pieces) with
  | .value _ there => there && !f.pieces.isEmpty
  | _ => false

/-- R150, R158, R169, R304, R319: an element whose loads have all performed is delivered into the next lane, zero where it was clipped, with its
existence bit; one that met a word beyond correction is withheld with cause 4. While they are out, the run issues an element behind them, of the row
or of a later one. -/
def LoadsAreDelivered : Prop :=
  ∀ s n e, EdgeRuns s n e → let u := s.core n; let sl := u.edge[e]
    Loading sl → ∀ f rest, sl.fetches = f :: rest →
    (∀ raw there, gatherPieces f.pieces = .value raw there →
      let (v, ovf) := if f.pieces.isEmpty then (0, false) else sl.elementValue (sl.place sl.cursor 0) f.planes raw
      exec (.edgeLoadBeat n e) s = .next (withSlot s n e { u with ewarn := if ovf then u.ewarn ||| ewCONV else u.ewarn }
        ((sl.deliver v (existence sl f) (sl.walk 0) sl.rankHere).endRow (rowEnds sl 1))))
    ∧ (∀ va, gatherPieces f.pieces = .bad va → exec (.edgeLoadBeat n e) s = .next (s.edgeFault n e 4 va))
    ∧ (gatherPieces f.pieces = .waits →
      (∀ idx row, sl.beyond (u.extent sl.iwin) = .element idx row → exec (.edgeLoadBeat n e) s = .next (s.loadIssue n e row idx))
      ∧ (sl.beyond (u.extent sl.iwin) = .nothing → exec (.edgeLoadBeat n e) s = .next s))

/-- R153: a ragged run loads P[r] and P[r + 1], takes the row's bounds from them, and warns where they decrease; then it goes through the row. -/
def RaggedRowsAreRead : Prop :=
  ∀ s n e, EdgeRuns s n e → let u := s.core n; let sl := u.edge[e]
    LoadGoes sl → sl.kind = 5 →
    (∀ ps s', sl.rowHi = none → sl.pointers = [] → s.edgeFetch n e sl.pointerPieces = (.ok ps, s') →
      exec (.edgeLoadBeat n e) s = .next (s'.setEdge n e { s'.edgeSlot n e with pointers := ps }))
    ∧ (∀ raw there, sl.rowLo = none → sl.rowHi = none → sl.pointers ≠ [] → gatherPieces sl.pointers = .value raw there →
      exec (.edgeLoadBeat n e) s = .next (withSlot s n e
        { u with ewarn := if (BitVec.ofNat 32 (raw / 2 ^ 32)).toInt < (BitVec.ofNat 32 raw).toInt then u.ewarn ||| ewRAGP else u.ewarn }
        { sl with rowLo := some (raw % 2 ^ 32), rowHi := some (raw / 2 ^ 32), pointers := [] }))
    ∧ (∀ lo hi, sl.rowLo = some lo → sl.rowHi = some hi →
      let len := ((BitVec.ofNat 32 hi).toInt - (BitVec.ofNat 32 lo).toInt).toNat
      let rank := if sl.walk 1 ≤ sl.cursor[1] + 1 then max (sl.rank 0) (sl.rank 1) else sl.rank 0
      (len = 0 → exec (.edgeLoadBeat n e) s = .next (s.setEdge n e (sl.emptyRow rank)))
      ∧ (0 < len → sl.tiled = true → sl.tileOpen = false → exec (.edgeLoadBeat n e) s = .next (s.setEdge n e sl.openTile))
      ∧ (0 < len → (sl.tiled = true → sl.tileOpen = true) →
        exec (.edgeLoadBeat n e) s =
          .next (s.loadElement n e ⟨len, (BitVec.ofNat 32 lo).toInt, fun i => if len ≤ i[0] + 1 then rank else 0, false⟩)))

/-- R146, R150, R154, R226: a tile opens with its SOT, or waits for its permit; a closed beat is filled into WIN once it has room; the run ends
after its last beat. -/
def LoadBeatsAreFilled : Prop :=
  ∀ s n e, EdgeRuns s n e → let u := s.core n; let sl := u.edge[e]
    sl.loadKind = true →
    (LoadGoes sl → sl.kind ≠ 5 → sl.wantsPermit = true → exec (.edgeLoadBeat n e) s = .next (s.setEdge n e { sl with state := .waitPermit }))
    ∧ (LoadGoes sl → sl.kind ≠ 5 → sl.wantsPermit = false → (sl.byToken = true → sl.token.isSome = true) → sl.tiled = true → sl.tileOpen = false →
      exec (.edgeLoadBeat n e) s =
        .next (s.setEdge n e { sl.mark markSOT with tileOpen := true, firstTile := false, permitTaken := false }))
    ∧ (sl.closed = true → u.edgeFill e = none → exec (.edgeLoadBeat n e) s = .next s)
    ∧ (∀ u', sl.closed = true → u.edgeFill e = some u' → u'.edge[e].loadOver = false →
      exec (.edgeLoadBeat n e) s = .next (withSlot s n e u' u'.edge[e]))
    ∧ (∀ u', sl.closed = true → u.edgeFill e = some u' → u'.edge[e].loadOver = true →
      exec (.edgeLoadBeat n e) s = .next (withSlot s n e u' (u'.edge[e].endRun (if u'.edge[e].stopping then .stopped else .done))))
    ∧ (sl.loadOver = true →
      exec (.edgeLoadBeat n e) s = .next (s.setEdge n e (sl.endRun (if sl.stopping then .stopped else .done))))

/-- A store goes past an element with its store words corrected: `s` is the state after they have been read (R120). -/
def readStore (s : State) (n : Nat) (reads : List (Nat × Win)) : State := s.setCore n ((s.core n).correctStore reads)

/-- The slot counts elements as stored. -/
def counted (m : Nat) (sl : EdgeSlot) : EdgeSlot := { sl with elements := sl.elements + m }

/-- A quantising store has taken lane 0 of the oldest element of IWIN, at address a, as a maximum (R162). -/
def maximumTaken (s : State) (n : Nat) (e : Fin 4) (sl : EdgeSlot) (a : Nat) : State :=
  let s := readStore s n [(a, sl.iwin)]
  withSlot s n e ((s.core n).shrinkWin sl.iwin 1 false)
    { sl with maximaTaken := sl.maximaTaken + 1, maxima := sl.maxima ++ [(s.core n).loadWord a] }

end Sys2Proof.Claims

/-- R150, R151, R153, R154: a load run issues the loads of the element at its cursor and of those behind it, delivers the one at its cursor into the
next lane once they have performed, zero for a clipped one, and closes the beat at its sixteenth lane and at the end of a row; a ragged run reads
its row pointers first; a closed beat is filled into WIN when there is room. Choices of the model: log 14, 110, 111, 113, 114. -/
def Obligations.EdgeLoadsDeliverElements : Prop :=
  Claims.LoadsAreIssued ∧ Claims.LoadsAreDelivered ∧ Claims.RaggedRowsAreRead ∧ Claims.LoadBeatsAreFilled

/-- R150, R151, R155, R162, R298, R311: a store run sends the writes of its next element once all of them translate, and withholds the element
otherwise; one that is clipped is passed over; a packed unit goes out whole; a quantising store takes a maximum and pairs it with a block of
elements. Choices of the model: log 12, 110, 116. -/
def Obligations.EdgeStoresSendElements : Prop :=
  ∀ s n e, EdgeRuns s n e → let u := s.core n; let sl := u.edge[e]; let k := sl.visited
    Storing sl →
    (∀ v reads, sl.packed = false → u.nextValues e 1 = (some [v], reads) → u.badRead reads = none → let s0 := readStore s n reads
      (clippedHere sl = true → exec (.edgeStoreElement n e) s = .next (s0.storePass n e 1 id))
      ∧ (clippedHere sl = false → sl.passed.contains k = false →
        let (ws, warn) := sl.elementWrites (sl.place sl.cursor 0) v
        (∀ fs s', s0.edgePlaces n e true (ws.map (·.va)) = (.ok fs, s') →
          let s1 := s'.edgeIssue n e k (ws.zip fs)
          exec (.edgeStoreElement n e) s =
            .next ((s1.setCore n { s1.core n with ewarn := (s1.core n).ewarn ||| warn }).storePass n e 1 (counted 1)))
        ∧ (∀ va s', s0.edgePlaces n e true (ws.map (·.va)) = (.error (0, va), s') → exec (.edgeStoreElement n e) s = .next s')
        ∧ (∀ cause va s', cause ≠ 0 → s0.edgePlaces n e true (ws.map (·.va)) = (.error (cause, va), s') →
          ∃ t, exec (.edgeStoreElement n e) s = .next t ∧ (t.core n).edge[e].state = .withholding
            ∧ (t.core n).edge[e].faultAddr = addrWord va ∧ (t.core n).edge[e].cursor = sl.cursor
            ∧ ∀ p ∈ t.net, p ∈ s'.net ∨ ∀ a, p.payload ≠ .access a)))
    ∧ (∀ vs reads, sl.packed = true → sl.bp = false → u.nextValues e (sl.unitSize sl.unitStart - sl.packBuf.length) = (some vs, reads) →
      u.badRead reads = none → exec (.edgeStoreElement n e) s = .next ((readStore s n reads).storeUnit n e vs 0))
    ∧ (∀ mx vs reads, sl.bp = true → sl.blockMax (sl.blockNumber sl.unitStart) = some mx →
      u.nextValues e (sl.unitSize sl.unitStart - sl.packBuf.length) = (some vs, reads) → u.badRead reads = none →
      exec (.quantisingStoreBlock n e) s = .next ((readStore s n reads).storeUnit n e vs mx))
    ∧ (∀ i, sl.bp = true → sl.blockMax (sl.blockNumber sl.unitStart) = none → u.headOffset sl.iwin = some i → sl.maxima.length < maximaRoom →
      u.badRead [(u.elemAddr sl.iwin i, sl.iwin)] = none →
      let s1 := maximumTaken s n e sl (u.elemAddr sl.iwin i)
      exec (.quantisingStoreBlock n e) s =
        .next (match (s1.edgeSlot n e).blockMax (sl.blockNumber sl.unitStart) with | some mx => s1.storePacked n e mx | none => s1))

/-- R152, R154, R169: a run takes its acquire and its permit, whole elements, and its index tokens, lane by lane, from the windows that hold them; a
row clipped by its token sets GIDX. Choices of the model: log 57, 109, 112, 115. -/
def Obligations.EdgeRunsTakeTokens : Prop :=
  (∀ s n e r, s.regionOfCore n = some r → r.freezing = false → r.frozen = false → r.checkpoint = none → let u := s.core n; let sl := u.edge[e]
    sl.parked = false →
    (sl.state = .waitAcquire → sl.waitFlip = false → (u.headOffset sl.dwin).isSome = true →
      ∃ t, exec (.acquireTake n e) s = .next t ∧ (t.core n).wstate = (u.shrinkWin sl.dwin 1 false).wstate
        ∧ (t.core n).edge[e].state = .running ∧ (t.core n).edge[e].acquireTaken = true)
    ∧ (sl.state = .waitPermit → (u.headOffset sl.iwin).isSome = true →
      ∃ t, exec (.permitTake n e) s = .next t ∧ (t.core n).wstate = (u.shrinkWin sl.iwin 1 false).wstate
        ∧ (t.core n).edge[e].state = .running ∧ (t.core n).edge[e].permitTaken = true ∧ (t.core n).edge[e].iLaneUsed = 0))
  ∧ (∀ s n e, EdgeRuns s n e → let u := s.core n; let sl := u.edge[e]
    sl.wantsToken = true →
    let passedOver (tok : Lane) : Bool := sl.tokenOut tok && sl.kind == 2 && sl.clipSkip
    (∀ tok, sl.rowToken sl.rowNow = some tok → passedOver tok = false →
      exec (.indexTokenTake n e) s = .next (s.setEdge n e { sl with token := some tok }))
    ∧ (∀ tok, sl.rowToken sl.rowNow = none → sl.tokenAhead = some tok → passedOver tok = false →
      exec (.indexTokenTake n e) s = .next (s.setEdge n e { sl with token := some tok, tokenAhead := none }))
    ∧ (∀ x reads, sl.rowToken sl.rowNow = none → sl.tokenAhead = none → sl.rowTokens.length < sl.tokenRoom → (sl.storeKind && sl.bp) = false →
      u.laneAhead sl.iwin sl.iLaneUsed 0 = (some x, reads) → u.badRead reads = none →
      let out := sl.kind != 6 && sl.tokenOut x.value
      passedOver x.value = false →
      let c := u.correctStore reads; let c := if x.skip = 0 then c else c.shrinkWin sl.iwin x.skip false
      exec (.indexTokenTake n e) s = .next (withSlot s n e { c with ewarn := if out then c.ewarn ||| ewGIDX else c.ewarn }
        { c.edge[e] with token := some x.value, iLaneUsed := x.lane + 1 }))
    ∧ (∀ i, sl.rowToken sl.rowNow = none → sl.tokenAhead = none → sl.rowTokens.length < sl.tokenRoom → (sl.storeKind && sl.bp) = true →
      u.headOffset sl.iwin = some i → let a := u.elemAddr sl.iwin i
      u.badRead [(a, sl.iwin)] = none →
      let c := u.correctStore [(a, sl.iwin)]; let tok := c.loadWord a; let c := c.shrinkWin sl.iwin 1 false
      exec (.indexTokenTake n e) s = .next (withSlot s n e { c with ewarn := if sl.tokenOut tok then c.ewarn ||| ewGIDX else c.ewarn }
        { sl with token := some tok, tokensTaken := sl.tokensTaken + 1, rowTokens := sl.rowTokens ++ [tok] })))

namespace Sys2Proof.Claims

open Sys2Proof.Machine

/-- R168: a run whose stores have all performed fills its completion token, or sends it to the sequencer that bound it; at a scope of 8 or more
only once no network word of the region is on its way and no message of it is out (R369). -/
def CompletionTokensAreFilled : Prop :=
  ∀ s n e r, EdgeRuns s n e → s.regionOfCore n = some r → let sl := s.edgeSlot n e
    let s1 := if sl.storeKind then s.storeFree n e else s; let u := s1.core n; let v := u.edge[e]
    v.state = .running → v.waitFlip = false → v.parked = false → v.storeKind = sl.storeKind → (sl.storeKind = true ∨ v.kind = 7) →
    v.storeOver = true → v.dv = true → v.tokenPending = false → (8 ≤ v.dscope → s1.netWords r = false) →
    let tok : Beat := { Beat.blank 1 markNone with lanes := (Vector.replicate 16 0).set 0 v.completion, graph := v.graph }
    let warned (x : Core) : Core := { x with ewarn := x.ewarn ||| (if v.dscope ≤ 1 then ewSCOPE else 0) }
    (∀ u', v.dseq = false → u.fillBeat v.dwin tok = some u' →
      exec (.completionToken n e) s = .next (withSlot s1 n e (warned u') (v.endRun .done)))
    ∧ (v.dseq = true →
      exec (.completionToken n e) s =
        .next ((withSlot s1 n e (warned u) { v with tokenPending := true }).send .rsp (.edge n e) (.seq v.binder)
          (.fill ⟨.edge n e, BitVec.ofNat 3 v.dwin.val, 1, tok.lanes⟩)))

/-- R312: a translation run delivers the translation word of its token's address, zero for a clipped one, as a row of one element. -/
def TranslationWordsAreDelivered : Prop :=
  ∀ s n e w s' tok, EdgeRuns s n e → let sl := s.edgeSlot n e
    sl.kind = 6 → sl.closed = false → sl.finished = false → sl.stopping = false → sl.token = some tok → (sl.tiled = true → sl.tileOpen = true) →
    (if sl.clipped sl.cursor then (some 0, s) else s.translationWord n e ((sl.base : Int) + tok.toInt * sl.stride 0)) = (some w, s') →
    let rank := ((List.range (endingDims sl.walk sl.cursor 0 5)).filter (1 ≤ ·)).foldl (fun m d => max m (sl.rank d)) 0
    let c := (s'.core n).rowIssued e
    exec (.translationToken n e) s = .next (withSlot s' n e c ((c.edge[e].deliver w true 1 rank).endRow true))

/-- R150, R278, R318: an erase run sends the erase of the tile that holds its element's first byte, on vug pages only; a clipped element is visited and
counted; one that had performed before a save is passed over. -/
def ErasesAreSent : Prop :=
  (∀ s n e, EdgeRuns s n e → let sl := s.edgeSlot n e
    sl.kind = 7 → sl.finished = false → sl.mayIssue = true →
    (sl.passed.contains sl.visited = true →
      exec (.eraseElement n e) s = .next (s.storePass n e 1 fun sl' => { sl' with passed := sl'.passed.erase sl.visited }))
    ∧ (sl.passed.contains sl.visited = false → sl.clipped sl.cursor = true → exec (.eraseElement n e) s = .next (s.storePass n e 1 (counted 1))))
  ∧ ∀ s n e f s', EdgeRuns s n e → let sl := s.edgeSlot n e; let va := sl.addr (sl.place sl.cursor 0)
    sl.kind = 7 → sl.finished = false → sl.mayIssue = true → sl.clipped sl.cursor = false → sl.passed.contains sl.visited = false →
    s.edgeTranslate n e va true = (.ok f, s') →
    (f.tr.vug = true → exec (.eraseElement n e) s = .next (s'.edgeWrite n e sl.visited 1 1 [⟨va, [0], .erase⟩] 0))
    ∧ (f.tr.vug = false → exec (.eraseElement n e) s = .next (s'.storePass n e 1 (counted 1)))

/-- R268, R311: a withholding run makes its failed access again once its page has been translated afresh. -/
def WithheldAccessesAreRetried : Prop :=
  ∀ s n e a, let sl := s.edgeSlot n e
    sl.state = .withholding → sl.retryDue = true → sl.failed = [a] → sl.loadKind = false → sl.blocked = false →
    let s0 := (s.setEdge n e { sl with retryDue := false, failed := [] }).dropLatches n e [sl.faultAddr.toNat, a.va]
    (∀ f s', s0.edgeTranslate n e a.va true = (.ok f, s') →
      ∃ t, exec (.edgeRetry n e) s = .next t ∧ t.net = (s'.edgeIssue n e a.tag [(⟨a.va, a.data, a.op⟩, f)]).net
        ∧ (t.core n).edge[e].failed = [] ∧ (t.core n).edge[e].retryDue = false)
    ∧ (∀ cause s', s0.edgeTranslate n e a.va true = (.error cause, s') →
      ∃ t, exec (.edgeRetry n e) s = .next t ∧ t.net = s'.net ∧ (t.core n).edge[e].failed = [a] ∧ (t.core n).edge[e].state = .withholding)

/-- R269: after 16 ECHOI of withholding a record says so, and the region begins to go to a checkpoint. -/
def WithholdingIsLimited : Prop :=
  ∀ s n e r t, let sl := s.edgeSlot n e
    s.regionOfCore n = some r → sl.withheldSince = some t → sl.state = .withholding → r.frozen = false → r.checkpoint = none →
    r.drain = none → r.stopping = false → t + 16 * (s.seq r.owner).echoi.toNat ≤ s.now →
    exec (.withholdLimit n e) s =
      .next (((s.setEdge n e { sl with withheldSince := none }).record r (.edge n e) 5 e 0 0 sl.faultAddr (BitVec.ofNat 64 sl.done)).setRegion
        { r with checkpoint := some (n, e), checkpointSaved := false, grotto := none })

end Sys2Proof.Claims

/-- R168, R268, R269, R312, R318: a run whose stores have all performed fills its completion token; a translation run delivers the translation word
of its token; an erase run sends the erase of its element's tile; a withholding run makes its access again when a retry is due, and after 16 ECHOI it
starts the drain to a checkpoint. Choices of the model: log 17, 33, 108. -/
def Obligations.EdgeRunsCompleteAndRetry : Prop :=
  Claims.CompletionTokensAreFilled ∧ Claims.TranslationWordsAreDelivered ∧ Claims.ErasesAreSent ∧ Claims.WithheldAccessesAreRetried
    ∧ Claims.WithholdingIsLimited

namespace Sys2Proof.Claims

open Sys2Proof.Machine

/-! ## Events of a sequencer, of the floor and of a region -/

/-- A sequencer may begin a block or take an asynchronous trap: it runs in a region, and its last block has committed and acted (R184, R189). -/
structure Between (s : State) (q : Nat) : Prop where
  alive : (s.seq q).region.isSome = true ∧ (s.seq q).halted = false ∧ (s.seq q).doubleTrapped = false ∧ (s.seq q).frozen = false
  settled : (s.seq q).settled = true
  resumed : s.resumed q = true
  noBlock : (s.seq q).blk = none

/-- A sequencer may take an asynchronous trap: it runs, EIE is 1 and TL is 0, it does not halt, and it stands between blocks or waits in issue
(R189). -/
structure TrapsNow (v : Seq) : Prop where
  alive : v.region.isSome = true ∧ v.halted = false ∧ v.doubleTrapped = false ∧ v.frozen = false
  enabled : v.eie = true ∧ v.tl = false
  goes : v.halts = false
  waits : ∀ b, v.blk = some b → b.waiting = true

/-- The block of some words begins to issue, with the registers and predicates as they stand (R182, R183). -/
def begun (words : List Code) (v : Seq) (warn : Word) : Block := { Block.start words v.regs v.preds with swarn := warn }

end Sys2Proof.Claims

/-- R181, R182, R184: a sequencer that may run takes the block at its PC: the header and its words are fetched, and the block stands at its first
word with copies of the registers and predicates. A header that is none traps BADHDR, a PC that is no multiple of 4 ALIGN. Choices of the model:
log 135 (how a fetch takes its instants). -/
def Obligations.BlocksIssue : Prop :=
  ∀ s q r, Between s q → s.regionOfSeq q = some r → (s.seq q).wait = .none → ((s.seq q).eie = false ∨ (s.seq q).tl = true) →
    let v := s.seq q; let pc := v.pc.toNat
    (∀ hdr s1 words s2, pc % 4 = 0 → s.ownStores q pc 4 = false → s.fetchCode q r.ctx pc = (.word hdr, s1) → hdr.toNat / 2 ^ 26 % 64 = 0x3F →
      let n := hdr.toNat / 2 ^ 19 % 128 + 1
      s1.ownStores q (pc + 4) (4 * n) = false → s1.fetchCodes q r.ctx ((pc + 4) % 2 ^ 56) n [] = (.ok words, s2) →
      exec (.blockIssue q) s = .next (s2.setSeq q { s2.seq q with blk := some (begun words (s2.seq q) (headerWarns hdr words)) }))
    ∧ (∀ hdr s1, pc % 4 = 0 → s.ownStores q pc 4 = false → s.fetchCode q r.ctx pc = (.word hdr, s1) → hdr.toNat / 2 ^ 26 % 64 ≠ 0x3F →
      exec (.blockIssue q) s = .next (traps s1 q (v.pc.setWidth 64) (ecause 2 255 0) (BitVec.ofNat 64 pc)))
    ∧ (pc % 4 ≠ 0 → exec (.blockIssue q) s = .next (traps s q (v.pc.setWidth 64) (ecause 3 255 0) (BitVec.ofNat 64 pc)))
    ∧ (∀ cause addr s1, pc % 4 = 0 → s.ownStores q pc 4 = false → s.fetchCode q r.ctx pc = (.trap cause addr, s1) →
      exec (.blockIssue q) s = .next (traps s1 q (v.pc.setWidth 64) (ecause cause 255 0) (BitVec.ofNat 64 addr)))

/-- R186, R189: between blocks, and while one waits in issue, a pending asynchronous trap is taken when EIE is 1 and TL is 0, VUGALLOC before FLOOR
before EVENT; a waiting sequencer goes on when a window of WAKE holds an element, a trap is pending, or after its 64 cycles. Choices of the model:
log 40, 118. -/
def Obligations.AsynchronousTrapsAndWakes : Prop :=
  ∀ s q, let v := s.seq q
    (TrapsNow v → v.settled = true →
      (∀ a, v.pendVug = some a →
        exec (.asyncTrapTake q) s = .next (s.setSeq q { trapped v (v.pc.setWidth 64) (ecause 8 255 0) a with pendVug := none }))
      ∧ (∀ a, v.pendVug = none → v.pendFloor = some a →
        exec (.asyncTrapTake q) s = .next (s.setSeq q { trapped v (v.pc.setWidth 64) (ecause 9 255 0) a with pendFloor := none }))
      ∧ (v.pendVug = none → v.pendFloor = none → v.eventPending = true →
        exec (.asyncTrapTake q) s = .next (s.setSeq q (trapped v (v.pc.setWidth 64) (ecause 11 255 0) 0))))
    ∧ (∀ a, TrapsNow v → v.settled = false → v.pendVug = some a → (s.suspend q |>.seq q).eie = true → (s.suspend q |>.seq q).tl = false →
      ∃ t, exec (.asyncTrapTake q) s = .next t ∧ (t.seq q).blk = none ∧ (t.seq q).tl = true ∧ (t.seq q).eaddr = a ∧ (t.seq q).pendVug = none
        ∧ (t.seq q).epc = (s.suspend q |>.seq q).pc.setWidth 64 ∧ (t.seq q).outbox = []
        ∧ ∀ e ∈ v.outbox, actsInside q e = false → e ∈ (t.seq q).suspended)
    ∧ (∀ b, v.blk = some b → b.waiting = false → exec (.asyncTrapTake q) s = .next s)
    ∧ (∀ k : Fin 8, v.wait = .wfe → v.wake.getLsbD k = true → 0 < (v.mstat[k]).filled →
      exec (.wfeWake q) s = .next (s.setSeq q { v with wait := .none }))
    ∧ (v.pendingTrap.isSome = true →
      (v.wait = .wfe → exec (.wfeWake q) s = .next (s.setSeq q { v with wait := .none }))
      ∧ (∀ t, v.wait = .yield t → exec (.yieldExpiry q) s = .next (s.setSeq q { v with wait := .none })))
    ∧ (∀ t, v.wait = .yield t → t ≤ s.now → exec (.yieldExpiry q) s = .next (s.setSeq q { v with wait := .none }))

/-- R177, R183, R246, R262: what reaches a sequencer from outside: a reply writes its registers, a fill appends its elements to a window, an event
record enters the queue of 64 or is counted as lost, and goes on into the window of EVWIN; a take removes a record from a window, in order of arrival
and not under a block that uses the window. Choices of the model: log 9. -/
def Obligations.ArrivalsAtASequencer : Prop :=
  ∀ s q, let v := s.seq q
    (∀ i id vals a rest, v.arrivedReplies[i]? = some (id, vals) → v.awaits = a :: rest → a.id = id → a.isTake = false → v.blk = none →
      exec (.replyResult q i) s =
        .next (s.setSeq q { v with arrivedReplies := dropNth v.arrivedReplies i,
                                   regs := writeRegs v.regs ((a.regs.zip vals).map (·.1)) ((a.regs.zip vals).map (·.2)),
                                   awaits := v.awaits.filter fun x => x.id != id }))
    ∧ (∀ f rest, v.arrivedFills = f :: rest → v.frozen = false → v.region.isSome = true → let es := f.elems (mdElem (v.desc f.win))
      v.roomFor f.win es.length = true → (∀ n e, f.source ≠ .edge n e) →
      exec (.seqWindowFill q 0) s = .next (s.setSeq q ({ v with arrivedFills := rest }.appendAll f.win es)))
    ∧ (∀ rec rest, v.frozen = false → v.region.isSome = true → v.arrivedRecords = rec :: rest → v.recordWin (BitVec.ofNat 3 (v.evwin.toNat % 8)) = false →
      exec (.eventRecordDeliver q) s =
        .next (s.setSeq q (if v.events.length < 64 then { v with arrivedRecords := rest, events := v.events ++ [rec] }
          else { v with arrivedRecords := rest, lost := min (v.lost + 1) 255 })))
    ∧ (∀ (rec : Vector Word 4), let m := BitVec.ofNat 3 (v.evwin.toNat % 8)
      v.frozen = false → v.region.isSome = true → v.events = [] → v.arrivedRecords = [rec] → v.recordWin m = true → v.roomFor m 1 = true →
      exec (.eventRecordDeliver q) s =
        .next (s.setSeq q ({ v with arrivedRecords := [], lost := 0 }.appendElem m
          (rec.set 1 (rec[1] ||| BitVec.ofNat 64 (v.lost % 256 * 2 ^ 52))).toList)))
    ∧ (∀ i t, v.arrivedTakes[i]? = some t →
      ((∀ u ∈ v.arrivedTakes.take i, u.win ≠ t.win) → (∀ e ∈ v.suspended ++ v.outbox, effectTouches q t.win e = false) →
        (∀ b, v.blk = some b → ∀ w ∈ b.words, wordTouches t.win w = false) → ∀ vals s', s.takeRecord q t.thief t.id t.win = some (vals, s') →
        exec (.stealApply q i) s =
          .next ((s'.setSeq q { s'.seq q with arrivedTakes := dropNth (s'.seq q).arrivedTakes i }).reply (.seq q) t.thief t.id vals true))
      ∧ ((∃ u ∈ v.arrivedTakes.take i, u.win = t.win) → exec (.stealApply q i) s = .next s))
    ∧ (v.region = none → (∀ k, exec (.seqWindowFill q k) s = .next s) ∧ exec (.eventRecordDeliver q) s = .next s)

namespace Sys2Proof.Claims

open Sys2Proof.Machine

/-- The packet of an access. -/
def accessPacket (q : Nat) (a : Access) : Packet := ⟨.req, .seq q, accessUnit a.place, .access a⟩

/-- The access is an ordinary one, outside every published buffer. -/
def plainAccess (s : State) (a : Access) : Prop := a.aq = false ∧ a.rl = false ∧ ∀ b ∈ s.fabric.bufs, b.bound = true → b.inVisible a.va = false

/-- R183, R198: one effect of a block: an access is outstanding until it performs; a register write, and one of the work ID or a window, acts at
once. -/
def OneEffectGoesOut : Prop :=
  (∀ s q b a id tag regs, BlockDone s q b [⟨id, tag, .access a, regs⟩] → b.closing = none → plainAccess s a →
    ∃ t, exec (.blockCommit q) s = .next t ∧ (t.seq q).items = [.access a] ∧ t.net = s.net ++ [accessPacket q a]
      ∧ (t.seq q).pc = successor (s.seq q) b ∧ (t.seq q).regs = b.regs)
  ∧ (∀ s q b n x id tag, BlockDone s q b [⟨id, tag, .csrWrite n x, []⟩] → b.closing = none →
    exec (.blockCommit q) s =
      .next ((oneId s).setSeq q { (committed (s.seq q) b).writeCsr n.toNat x with pc := successor (s.seq q) b }))
  ∧ (∀ s q b n x id tag, BlockDone s q b [⟨id, tag, .widWrite n x, []⟩] → b.closing = none →
    exec (.blockCommit q) s =
      .next ((oneId s).setSeq q { (committed (s.seq q) b).setWid n.toNat x with pc := successor (s.seq q) b }))
  ∧ (∀ s q b m es id tag, BlockDone s q b [⟨id, tag, .winFill m es, []⟩] → b.closing = none →
    exec (.blockCommit q) s =
      .next ((oneId s).setSeq q { (committed (s.seq q) b).applyLocal (.winFill m es) with pc := successor (s.seq q) b }))

/-- R183, R209, R210: two accesses of a block go out in program order, with no wait between them; one with RL waits for the first to perform, and so
does everything behind a fence. -/
def EffectsGoInOrder : Prop :=
  ∀ s q b (a c : Access) i j tag regs regs', b.closing = none → plainAccess s a → i < j → a.id = i → c.id = j →
    (∀ b' ∈ s.fabric.bufs, b'.bound = true → b'.inVisible c.va = false) →
    let e : Queued := ⟨i, tag, .access a, regs⟩; let f : Queued := ⟨j, tag, .access c, regs'⟩
    (BlockDone s q b [e, f] →
      (c.rl = false → ∃ t, exec (.blockCommit q) s = .next t ∧ t.net = s.net ++ [accessPacket q a, accessPacket q c] ∧ (t.seq q).outbox = [])
      ∧ (c.rl = true → ∃ t, exec (.blockCommit q) s = .next t ∧ t.net = s.net ++ [accessPacket q a] ∧ (t.seq q).outbox = [f]))
    ∧ (∀ k scope, i < k → BlockDone s q b [e, ⟨k, tag, .fence scope, []⟩, f] →
      ∃ t rest, exec (.blockCommit q) s = .next t ∧ t.net = s.net ++ [accessPacket q a]
        ∧ (t.seq q).outbox = ⟨k, tag, .fence scope, []⟩ :: f :: rest ∧ (t.seq q).pc = (s.seq q).pc ∧ (t.seq q).regs = b.regs
        ∧ (t.seq q).settled = false)

/-- R209, R216: a block whose first effect is a fence does not commit before every earlier access has performed: it waits, and can be discarded; then
it commits. -/
def FencesWaitAtCommit : Prop :=
  (∀ s q b scope id tag i rest, (s.seq q).blk = some b → b.idx = b.words.length → (s.seq q).doubleTrapped = false → (s.seq q).outbox = [] →
    (s.seq q).suspended = [] → (∀ r, s.regionOfSeq q = some r → r.freezing = false) → Outstanding.access i ∈ (s.seq q).items → i.id < id →
    b.effects = ⟨id, tag, .fence scope, []⟩ :: rest →
    exec (.blockCommit q) s = .next (s.setSeq q { s.seq q with blk := some { b with waiting := true } }))
  ∧ (∀ s q b scope id tag, BlockDone s q b [⟨id, tag, .fence scope, []⟩] → b.closing = none → scope < 8 →
    s.commandsOf q (fun x => decide (x < id)) = false →
    exec (.blockCommit q) s = .next ((oneId s).setSeq q { committed (s.seq q) b with pc := successor (s.seq q) b }))

/-- R213, R215: `publish` exchanges the copies of the buffer at its address and answers with the new generation, once no engine write into the shadow
is half done; where no buffer of the context stands there it sets PUBX and answers 0. -/
def PublishExchangesTheCopies : Prop :=
  ∀ s q b va id tag d, BlockDone s q b [⟨id, tag, .publish va, [d]⟩] → b.closing = none →
    (∀ buf, s.bufferAt q va = some buf →
      (s.shadowBusy buf = false →
        ∃ t, exec (.blockCommit q) s = .next t
          ∧ t.fabric.bufs = s.fabric.bufs.map (fun x => if x.handle = buf.handle ∧ x.bound = true
              then { buf with exchanged := !buf.exchanged, generation := buf.generation + 1 } else x)
          ∧ (⟨.rsp, .engine, .seq q, .reply id [buf.generation + 1] false⟩ : Packet) ∈ t.net ∧ (t.seq q).pc = successor (s.seq q) b)
      ∧ (s.shadowBusy buf = true →
        exec (.blockCommit q) s = .next (s.setSeq q { s.seq q with blk := some { b with waiting := true } })))
    ∧ (s.bufferAt q va = none →
      ∃ t, exec (.blockCommit q) s = .next t ∧ t.fabric = s.fabric ∧ (t.seq q).swarn = (s.seq q).swarn ||| b.swarn ||| 0x200
        ∧ t.net = s.net ++ [⟨.rsp, .engine, .seq q, .reply id [0] false⟩])

end Sys2Proof.Claims

/-- R183, R198, R209, R210, R213: a block's effects go out at its commit, in order: an access is outstanding until it performs, a register write acts
at once, a fence lets nothing after it go before every earlier access has performed, and `publish` exchanges the copies of its buffer. That an effect
with RL waits for the earlier ones at every scope is the model's reading. Choices of the model: log 32, 52, 53, 55, 118. -/
def Obligations.CommitSendsEffects : Prop :=
  Claims.OneEffectGoesOut ∧ Claims.EffectsGoInOrder ∧ Claims.FencesWaitAtCommit ∧ Claims.PublishExchangesTheCopies

namespace Sys2Proof.Claims

open Sys2Proof.Machine

/-- R298, R300: a packet arrives behind the earlier ones of its class between its two units; one that needs a link that has stopped waits; one that
arrives has passed the check of its links. -/
def PacketsArriveInOrder : Prop :=
  ∀ s i p, s.net[i]? = some p →
    ((∀ r ∈ s.net.take i, ¬ (r.cls = p.cls ∧ r.src = p.src ∧ r.dst = p.dst)) → (∀ l ∈ s.deadLinks, p.needs l = false) →
      exec (.diePacketDeliver i) s =
        .next ({ s with net := dropNth s.net i, linkFails := s.linkFails.filter fun f => !p.needs f.1 }.receive p))
    ∧ ((∃ r ∈ s.net.take i, r.cls = p.cls ∧ r.src = p.src ∧ r.dst = p.dst) → exec (.diePacketDeliver i) s = .next s)
    ∧ ((∃ l ∈ s.deadLinks, p.needs l = true) → exec (.diePacketDeliver i) s = .next s)

/-- A load has performed: its answer goes back as a packet (R298). -/
def answersLoad (s : State) (a : Access) (g : LoadReply) : Host.Outcome State Fault Refusal :=
  .next { s with net := s.net ++ [⟨.rsp, accessUnit a.place, a.source, .loaded a g⟩] }

/-- An atomic or a `cas`. -/
def isReadModifyWrite : AccessOp → Bool
  | .amo _ => true
  | .cas _ => true
  | _ => false

/-- R204, R205, R298, R303, R304: a slice controller applies the access that arrived first, of those of one cycle the one of the lowest source; a load
is answered by a packet; a `cas` stores where it finds the value that it compares with, and writes nothing where it does not, and gives the old value
either way; an atomic or a `cas` of a doubleword in error performs nothing, answers 0, is no longer outstanding, and makes FLOOR pending. The last part of a torn access holds back those of its own unit only (R203). -/
def SlicesApplyInOrder : Prop :=
  (∀ s i a pa, s.nextAtSlice i = some a → a.place = .floor pa → let s0 := { s with atSlice := dropNth s.atSlice i }
    (∀ v s', a.op = .load → s0.loadFloor pa a.size = (some v, s') → exec (.sliceApply i) s = answersLoad s' a (.value v true))
    ∧ (∀ s', a.op = .load → s0.loadFloor pa a.size = (none, s') → exec (.sliceApply i) s = answersLoad s' a .bad)
    ∧ (∀ s', a.op = .store → s0.storeFloor pa a.data = some s' →
      exec (.sliceApply i) s = .next ((s'.tailStored pa a.data.length).accessDone a 0))
    ∧ (a.op = .store → s0.storeFloor pa a.data = none → exec (.sliceApply i) s = .next (s0.accessFailed a))
    ∧ (∀ op old s', a.op = .amo op → s0.loadFloor pa a.size = (some old, s') →
      exec (.sliceApply i) s =
        .next (((s'.tailStored pa a.size).writeLE pa a.size (amoValue op (8 * a.size) old (leValue a.data % 2 ^ (8 * a.size)))).accessDone a old))
    ∧ (∀ expected old s', a.op = .cas expected → s0.loadFloor pa a.size = (some old, s') → let t := s'.tailStored pa a.size
      (old = expected.toNat % 2 ^ (8 * a.size) →
        exec (.sliceApply i) s = .next ((t.writeLE pa a.size (leValue a.data % 2 ^ (8 * a.size))).accessDone a old))
      ∧ (old ≠ expected.toNat % 2 ^ (8 * a.size) → exec (.sliceApply i) s = .next (t.accessDone a old)))
    ∧ (∀ q s', isReadModifyWrite a.op = true → a.source = .seq q → s0.loadFloor pa a.size = (none, s') →
      exec (.sliceApply i) s = .next ((s'.setSeq q { (s'.seq q).dropItem a.id with
        pendFloor := (s'.seq q).pendFloor.orElse fun _ => some (BitVec.ofNat 64 a.va) }).reply (accessUnit a.place) q a.id [0])))
  ∧ (∀ (s : State) (i j : Nat) (a b : Access), s.atSlice[i]? = some a → s.atSlice[j]? = some b → b.place.meets a.place = true →
    (b.late = false ∨ b.source = a.source) →
    (b.arrived < a.arrived ∨ (b.arrived = a.arrived ∧ sourceNumber b.source < sourceNumber a.source)) →
    exec (.sliceApply i) s = .next s ∧ exec (.vugHomeApply i) s = .next s)

/-- R298, R304: the answer of a load reaches the block in issue, or the run, that sent the load. -/
def LoadAnswersArrive : Prop :=
  ∀ (s : State) (p : Packet) a g, p.payload = .loaded a g →
    (∀ q b, a.source = .seq q → (s.seq q).blk = some b →
      s.receive p = s.setSeq q { s.seq q with blk := some { b with loads := b.loads.map fun l => { l with pieces := l.pieces.map (Piece.take a g) } } })
    ∧ (∀ n (e : Fin 4), a.source = .edge n e → (s.edgeSlot n e).state = .running → let sl := s.edgeSlot n e
      s.receive p = s.setEdge n e { sl with pointers := sl.pointers.map (Piece.take a g),
                                            pointersAhead := sl.pointersAhead.map fun p => (p.1, p.2.map (Piece.take a g)),
                                            fetches := sl.fetches.map fun f => { f with pieces := f.pieces.map (Piece.take a g) } })

/-- R316, R317: the home of a vug page applies its accesses in that order; an access that finds no frame is withheld and reported, and one to a tile
with a withheld access waits behind it. -/
def HomesApplyInOrder : Prop :=
  ∀ s i a record, s.nextAtSlice i = some a → a.place = .vug record → let s0 := { s with atSlice := dropNth s.atSlice i }
    (s0.tileHeld record a.va = false →
      (∀ old s', s0.applyVug a record = .done old s' → exec (.vugHomeApply i) s = .next (s'.accessDone a old))
      ∧ (∀ v there s', s0.applyVug a record = .loaded v there s' → exec (.vugHomeApply i) s = answersLoad s' a (.value v there))
      ∧ (∀ s', s0.applyVug a record = .withheld s' →
        exec (.vugHomeApply i) s = .next ({ s' with withheld := s'.withheld ++ [a] }.reportWithheld a)))
    ∧ (s0.tileHeld record a.va = true → exec (.vugHomeApply i) s = .next { s0 with withheld := s0.withheld ++ [a] })

/-- R317: after a change of a pool its die's streams are due for a retry, and the homes try the accesses that wait for the pool again, oldest first;
what still finds no frame stays. -/
def PoolChangesRetry : Prop :=
  ∀ s d, (s.poolDue.contains d = false → exec (.poolChange d) s = .next s)
    ∧ (s.poolDue.contains d = true → let s0 := { s with poolDue := s.poolDue.filter (· != d) }.retryStreams (paDie d)
      (s.withheld = [] → exec (.poolChange d) s = .next s0)
      ∧ (∀ a rest record, s.withheld = a :: rest → a.place = .vug record →
        (∀ old s', s0.namesPool a d = true → { s0 with withheld := rest }.applyVug a record = .done old s' →
          exec (.poolChange d) s = .next ((s'.accessDone a old).retryWithheld d [a] [] rest))
        ∧ (∀ s', s0.namesPool a d = true → { s0 with withheld := rest }.applyVug a record = .withheld s' →
          exec (.poolChange d) s = .next (s'.retryWithheld d [a] [a] rest))
        ∧ (s0.namesPool a d = false → exec (.poolChange d) s = .next (s0.retryWithheld d [a] [a] rest))))

end Sys2Proof.Claims

/-- R204, R205, R298, R300, R303, R304, R308, R316, R317: a packet arrives behind the earlier ones of its class between its two units; a slice controller or the
home of a vug page applies the oldest access it has; a page walk fills both TLBs, and waits while a link that it needs has stopped; a pool change
makes withheld accesses and streams try again. Choices of the model: log 10, 39, 81, 121, 135. -/
def Obligations.FloorEventsAct : Prop :=
  Claims.PacketsArriveInOrder ∧ Claims.SlicesApplyInOrder ∧ Claims.LoadAnswersArrive ∧ Claims.HomesApplyInOrder ∧ Claims.PoolChangesRetry
  ∧ (∀ s cluster ctx (va : BitVec 56) c, lookupTlb (s.tlb cluster) ctx va.toNat = none →
    lookupTlb (s.dieTlb (seqDie cluster)) ctx va.toNat = none → s.ctx? ctx = some c →
    (∀ t s', s.walkStopped (seqDie cluster) c.root va.toNat = false → s.walk c.root c.domains va.toNat = (.ok t, s') →
      exec (.pageWalkComplete cluster ctx va) s = .next ((s'.fillDie (seqDie cluster) ctx t).fillCluster cluster ctx t))
    ∧ (s.walkStopped (seqDie cluster) c.root va.toNat = true → exec (.pageWalkComplete cluster ctx va) s = .next s))

/-- R232, R234, R238, R251, R265: a SWAP is placed in a window that awaits it, a core whose windows are all at theirs flips, and the last flip ends
the swap; a still region under a drain is found still and then emptied; a relatch token emerges when the accesses made with its translations have
performed. Choices of the model: log 64. -/
def Obligations.SwapDrainAndRelatchEnd : Prop :=
  (∀ s n w u, s.coreFrozen n = false → (s.core n).placeSwap w = some u → exec (.swapPlace n w) s = .next (s.setCore n u))
  ∧ (∀ s n r, s.canFlip n = true → s.regionOfCore n = some r → let s' := s.setCore n ((s.core n).flip true)
    (r.cores.all (fun m => (s'.core m).flipped) = false → exec (.flip n) s = .next s')
    ∧ (r.cores.all (fun m => (s'.core m).flipped) = true → exec (.flip n) s = .next (s'.endSwap r)))
  ∧ (∀ (s : State) r d, s.region? r.id = some r → r.drain = some d →
    ((s.drainWithheld r).still r = true → (s.drainWithheld r).reportWaits r = false →
      ∃ t, exec (.stillnessReport r.id) s = .next t ∧ ((t.region? r.id).bind (·.drain)).map (·.still) = some true)
    ∧ (∀ k c ps status s', d.still = true → s.still r = true → s.cmdById d.cmdId = some (k, c) → s.drainImage r d c = (some (ps, status), s') →
      exec (.drainComplete r.id) s = .next (s'.endDrain r d ps status)))
  ∧ (∀ s n i t r, (s.core n).relatches[i]? = some t → s.regionOfCore n = some r → s.flying.any (s.madeWith n r.ctx t.page) = false →
    let s' := s.setCore n { s.core n with
      relatches := dropNth (s.core n).relatches i
      edge := (s.core n).edge.map fun sl => { sl with latches := sl.latches.filter fun x => !x.relatched t.page } }
    let more := (∃ x ∈ s'.cores, ∃ y ∈ x.2.relatches, y.cmdId = t.cmdId) ∨ ∃ p ∈ s'.net, ∃ y, p.payload = .relatch y ∧ y.cmdId = t.cmdId
    (more → exec (.relatchToken n i) s = .next s')
    ∧ (¬ more →
      exec (.relatchToken n i) s = .next (s'.finishId t.cmdId [0])))

/-- R259, R269 to R273, R280: a region ends when its sequencers have halted and nothing of it moves; a stuck region is saved to a grotto and stands
frozen until the withheld access has performed; a region that is stopped is frozen, saved and released; a placed region is written from its grotto.
Choices of the model: log 44, 45, 47, 66, 67, 68, 93. -/
def Obligations.RegionsEndFreezeAndReturn : Prop :=
  ∀ (s : State) r, s.region? r.id = some r →
    (r.stopping = false → r.frozen = false → s.quiet r = true → s.still r = true →
      let s' := r.seqs.foldl (fun s q => s.setSeq q { s.seq q with region := none }) ((s.dropTraffic r).setRegion { r with ended := some 0 })
      exec (.regionEnd r.id) s = .next ((((s'.releaseHandles r).instanceGone r).dieFreed r).endMailbox r))
    ∧ (∀ n e grotto, r.checkpoint = some (n, e) → r.checkpointSaved = false → r.stopping = false → s.stuck r = true →
      grottoFits grotto (grottoSize r.w r.h r.nseq) = true →
      exec (.checkpointSave r.id grotto) s =
        .next ((((s.regionErrors r).saveRegion r grotto 2).setRegion { r with frozen := true, checkpointSaved := true, grotto := some grotto }).record r (.region r.id)
          1 0 0 0 (BitVec.ofNat 64 grotto) (BitVec.ofNat 64 (sourceNumber (.edge n e)))))
    ∧ (∀ n e, r.checkpoint = some (n, e) → r.stopping = false → (s.edgeSlot n (Fin.ofNat 4 e)).state ≠ .withholding →
      exec (.thaw r.id) s =
        .next (((s.onCores Core.thaw r.cores).setRegion { r with frozen := false, checkpoint := none, checkpointSaved := false, grotto := none }).record r
          (.region r.id) 2 0 0 0 (BitVec.ofNat 64 (r.grotto.getD 0)) (BitVec.ofNat 64 (sourceNumber (.edge n e)))))
    ∧ (r.stopping = true → r.freezing = false → s.commandsSettled r = true →
      exec (.regionFreeze r.id) s = .next (r.seqs.foldl State.suspend (s.setRegion { r with freezing := true })))
    ∧ (r.stopping = true → r.freezing = false → s.commandsSettled r = false → exec (.regionFreeze r.id) s = .next s)
    ∧ (∀ pa, r.stopping = true → r.freezing = true → (∀ n ∈ r.cores, s.coreParked n = true) → s.accessesDone r = true →
      s.freezeStatus r = 9 → r.grotto = some pa →
      exec (.regionFreeze r.id) s =
        .next ((((r.seqs.foldl State.absorbRecords (s.regionErrors r)).saveRegion r pa 1).noteSaved r).releaseRegion
          { r with checkpoint := none, checkpointSaved := false } 9))
    ∧ (r.stopping = true → r.freezing = true → (∀ n ∈ r.cores, s.coreParked n = true) → s.accessesDone r = true → s.freezeStatus r ≠ 9 →
      exec (.regionFreeze r.id) s = .next (s.releaseRegion r (s.freezeStatus r)))
    ∧ (∀ pa, r.restoring = true → r.grotto = some pa → exec (.regionRestore r.id) s = .next (s.writeRegion r pa))

namespace Sys2Proof.Claims

open Sys2Proof.Machine

/-! ## The package, the host and the network -/

/-- The host reaches the module, no mailbox command runs, and M0 names a command (R337, R358). -/
structure MailboxStarts (s : State) (code : Nat) : Prop where
  trained : s.pkg.ucieTrained = true
  free : s.pkg.mailbox.running = none
  names : s.pkg.mailbox.m[0].toNat % 256 = code

/-- The mailbox answers with a status (R337): after, no command runs and bits 7:0 of the response hold it. -/
def Answered (t : State) (status : Nat) : Prop :=
  t.pkg.mailbox.running = none ∧ t.pkg.mailbox.response[0].toNat % 256 = status

end Sys2Proof.Claims

/-- R339, R340, R342, R343, R345, R346: a packet is appended to an open queue with room; a free slot copies the packet at the head of the waiting line,
and in a later cycle it becomes a candidate, or is rejected with a completion; the arbitration round of a die whose turn it is admits an instance of a
candidate that fits, and starts its sequencers. -/
def Sys2Proof.Claims.PacketsAreAppendedDispatchedAndAdmitted : Prop :=
  (∀ s n w, s.pkg.ucieTrained = true → n < 2048 → let q := s.queue n
    (q.state = .open_ → q.packets.length < q.cap → exec (.queueAppend n w true) s = .next (s.appendPacket n w))
    ∧ (q.state = .open_ → q.cap ≤ q.packets.length → exec (.queueAppend n w true) s = .next (s.setQueue n { q with ovfl := true }))
    ∧ (q.state ≠ .open_ → exec (.queueAppend n w true) s = .next (s.setQueue n { q with qerr := true }))
    ∧ exec (.queueAppend n w false) s = .next (s.setQueue n { q with qerr := true }))
  ∧ (∀ s n rest seqno more w s1, s.pkg.slots.length < 512 → s.pkg.copies = [] → s.pkg.line = .queue n :: rest →
    let s0 := { s with pkg := { s.pkg with line := rest } }
    (s.queue n).packets = seqno :: more → s0.ringPacket ((s.queue n).elemAddr 0) = (some w, s1) →
    ∃ t, exec .dispatchCopy s = .next t ∧ t.pkg.copies = [⟨n, seqno, w, (s.queue n).ctx, s.now⟩] ∧ (t.queue n).packets = more
      ∧ t.pkg.line = rest ∧ t.pkg.slots = s.pkg.slots)
  ∧ (∀ (s : State) (c : Copying), s.pkg.copies = [c] → s.pkg.line = [] →
    (s.now ≤ c.began → exec .dispatchCopy s = .next s)
    ∧ (∀ s2, c.began < s.now → s.rejection c.ctx c.words = (some 0, s2) →
      ∃ t, exec .dispatchCopy s = .next t ∧ t.pkg.copies = []
        ∧ t.pkg.slots = s2.pkg.slots ++ [⟨.packet c.queue c.seqno c.words, 0, 0, none, none⟩]
        ∧ t.pkg.live = s2.pkg.live ++ [⟨c.queue, c.seqno, c.words, c.ctx, lpCount c.words, 0, 0, 0, none⟩])
    ∧ (∀ s2 reason, c.began < s.now → s.rejection c.ctx c.words = (some reason, s2) → reason ≠ 0 → ckind c.words = 2 →
      (s.queue c.queue).packets = [] →
      ∃ t, exec .dispatchCopy s = .next t ∧ t.pkg.copies = [] ∧ t.pkg.slots = s2.pkg.slots
        ∧ t.pkg.completions = s2.pkg.completions
            ++ [⟨c.words, BitVec.ofNat 36 (c.queue % 2048 * 65536 + reason % 256 * 256 + 1), BitVec.ofNat 36 (c.seqno % 2 ^ 36)⟩]))
  ∧ (∀ s (die : Fin 16) later q n w x y, s.pkg.roundsDue = die :: later → s.pkg.slots = [⟨.packet q n w, 0, 0, none, none⟩] →
    s.pkg.live = [⟨q, n, w, (s.queue q).ctx, 1, 0, 0, 0, none⟩] → s.pkg.reserved = [] → s.placeFor die (.packet q n w) = some (x, y) →
    (s.queue q).packets = [] → 1 ≤ lpW w → 1 ≤ lpH w →
    ∃ t, exec (.arbitrationRound die) s = .next t ∧ t.pkg.slots = [] ∧ t.pkg.roundsDue = later
      ∧ t.regions = s.regions ++ [newRegion s.nextRegion die x y (lpW w) (lpH w) (s.queue q).ctx q n (max (lpLant w) 1)]
      ∧ ((t.seq (die * 256 + y / 16 * 16 + x / 16)).pc = lpEntry w))
  ∧ (∀ (s : State) die, s.pkg.roundsDue.head? ≠ some die → exec (.arbitrationRound die) s = .next s)

/-- R343, R344, R355: completions and package events enter their windows in order, when there is room for them, and TAIL rises by what was written; a
completion into a window of a sequencer is a record, or two doublewords, and one into a window that is not bound an event. -/
def Obligations.CompletionsEnterTheirWindows : Prop :=
  (∀ s i c, s.pkg.completions[i]? = some c → (∀ d ∈ s.pkg.completions.take i, c.sameWindow d = false) → ckind c.words = 2 →
    let w := s.hostWin (cwin c.words)
    (w.tail - w.head).toNat < 255 →
    ∃ t, exec (.packetCompletion i) s = .next t ∧ t.pkg.completions = dropNth s.pkg.completions i
      ∧ (t.hostWin (cwin c.words)).tail = w.tail + 1 ∧ (t.hostWin (cwin c.words)).head = w.head
      ∧ sparseGet (0, 0) (t.hostWin (cwin c.words)).entries (w.tail.toNat % 255) = (c.lane0.setWidth 64, c.lane1.setWidth 64))
  ∧ (∀ s i (c : Completion), s.pkg.completions[i]? = some c → (∀ d ∈ s.pkg.completions.take i, c.sameWindow d = false) → ckind c.words = 1 →
    let q := csid c.words; let m : BitVec 3 := BitVec.ofNat 3 (c.words[7].toNat % 8); let v := s.seq q
    let es := if mdElem (v.desc m) then [[c.lane0.setWidth 64, c.lane1.setWidth 64, 0, 0]] else [[c.lane0.setWidth 64], [c.lane1.setWidth 64]]
    (mdV (v.desc m) = true → v.frozen = false → v.roomFor m es.length = true →
      exec (.packetCompletion i) s =
        .next { s.setSeq q (v.appendAll m es) with pkg := { s.pkg with completions := dropNth s.pkg.completions i } })
    ∧ (mdV (v.desc m) = true → v.roomFor m es.length = false → exec (.packetCompletion i) s = .next s)
    ∧ (mdV (v.desc m) = false →
      ∃ t, exec (.packetCompletion i) s = .next t ∧ t.pkg.completions = dropNth s.pkg.completions i
        ∧ t.pkg.events = (s.packageEvent (seqDie q) 7 (c.lane0.setWidth 64) (c.lane1.setWidth 64)).pkg.events))
  ∧ (∀ s i e, s.pkg.events[i]? = some e → (∀ d ∈ s.pkg.events.take i, d[1].toNat % 2 ^ 24 ≠ e[1].toNat % 2 ^ 24) →
    let w := s.hostWin 255
    (w.tail - w.head).toNat + 2 ≤ 255 →
    ∃ t, exec (.packageEvent i) s = .next t ∧ t.pkg.events = dropNth s.pkg.events i ∧ (t.hostWin 255).tail = w.tail + 2)

/-- R335, R337, R338, R340, R344, R353: what the host's writes do when UCIe is trained. Choices of the model: log 75, 120. -/
def Obligations.HostWritesAct : Prop :=
  ∀ s, s.pkg.ucieTrained = true →
    (∀ c v, c < 256 → let w := s.hostWin c
      (v - w.head).toNat ≤ (w.tail - w.head).toNat → exec (.completionHeadWrite c v) s = .next (s.setHostWin c { w with head := v }))
    ∧ (∀ c v, c < 256 → let w := s.hostWin c
      (w.tail - w.head).toNat < (v - w.head).toNat → exec (.completionHeadWrite c v) s = .next s)
    ∧ (∀ v, s.pkg.ctxs = [] →
      ∃ t, exec (.feataWrite false v) s = .next t
        ∧ t.pkg.feata = (v.setWidth 128 ||| (s.pkg.feata &&& (0xFFFFFFFFFFFFFFFF <<< 64))) &&& Config.offeredFeatures)
    ∧ (∀ v, s.pkg.ctxs ≠ [] → exec (.feataWrite false v) s = .next s)
    ∧ (∀ (k : Fin 8) v, ∃ t, exec (.hostRegisterWrite (0x1000 + 8 * k) v) s = .next t ∧ t.pkg.mailbox.m = s.pkg.mailbox.m.set k v)
    ∧ (∀ pa v, pa % 8 = 0 → s.feature 5 = true → paReserved pa = false → paReserved (pa + 7) = false →
      exec (.hostRegisterWrite (0x100000000000 + pa) v) s = .next (((s.writeBytes pa (leBytes 8 v.toNat)).repairFloor pa 8).tailStored pa 8))
    ∧ (∀ v : Word, v.getLsbD 4 = true → s.pkg.mailbox.running = none →
      ∃ t, exec (.setBypassLimit v) s = .next t ∧ t.pkg.bypassLimit = v.toNat % 16 ∧ t.regions = s.regions
        ∧ ∀ c d, s.pkg.slots = [c] → v.toNat % 16 < c.bypass → c.reserveOrder = none → s.dieToReserve c.offer = some d →
          t.pkg.reserved = s.pkg.reserved ++ [(d, c.offer)])

/-- R338, R349: the mailbox commands for contexts and queues. Choices of the model: log 71, 72, 78, 121. -/
def Obligations.MailboxContextsAndQueues : Prop :=
  ∀ s,
    (MailboxStarts s 1 → s.marg 1 < 256 → s.ctx? (s.marg 1) = none → s.marg 2 % 2 ^ 20 = 0 → s.pkg.fail = 0 →
      ∃ t, exec .ctxCreate s = .next t ∧ Answered t 0 ∧ t.pkg.ctxs = s.pkg.ctxs ++ [⟨s.marg 1, s.marg 2, s.domainMask, none⟩])
    ∧ (MailboxStarts s 3 → s.marg 1 < 2048 → (s.queue (s.marg 1)).state = .closed → (s.ctx? (s.marg 2)).isSome = true → 1 ≤ s.marg 3 → s.marg 3 ≤ 4096 →
      s.marg 4 % 64 = 0 → paReserved (s.marg 4) = false → paReserved (s.marg 4 + 64 * s.marg 3 - 1) = false →
      ∃ t, exec .qCreate s = .next t ∧ Answered t 0
        ∧ t.queue (s.marg 1) = { Queue.init with state := .open_, ctx := s.marg 2, cap := s.marg 3, ring := s.marg 4 })
    ∧ (MailboxStarts s 4 → s.marg 1 < 2048 → (s.queue (s.marg 1)).state = .open_ → (s.queue (s.marg 1)).packets = [] →
      (∀ p ∈ s.pkg.live, p.queue ≠ s.marg 1) →
      ∃ t, exec .qDestroy s = .next t ∧ Answered t 0 ∧ (t.queue (s.marg 1)).state = .closed
        ∧ (∀ c, s.pkg.copies = [c] → c.queue = s.marg 1 → ckind c.words = 2 → t.pkg.copies = []
          ∧ t.pkg.completions = s.pkg.completions
              ++ [⟨c.words, BitVec.ofNat 36 (c.queue % 2048 * 65536 + 4), BitVec.ofNat 36 (c.seqno % 2 ^ 36)⟩]))
    ∧ (MailboxStarts s 5 → (s.queue (s.marg 1)).packets = [s.marg 2] → s.dispatchDue (s.marg 1) = true → exec .cancel s = .next s)
    ∧ (MailboxStarts s 5 → (s.queue (s.marg 1)).packets = [s.marg 2] → s.dispatchDue (s.marg 1) = false →
      ∃ t, exec .cancel s = .next t ∧ Answered t 0 ∧ (t.queue (s.marg 1)).packets = [])
    ∧ (MailboxStarts s 5 → s.marg 2 ∉ (s.queue (s.marg 1)).packets → (∀ p ∈ s.pkg.live, ¬ (p.queue = s.marg 1 ∧ p.seqno = s.marg 2)) →
      (∀ c ∈ s.pkg.copies, ¬ (c.queue = s.marg 1 ∧ c.seqno = s.marg 2)) →
      ∃ t, exec .cancel s = .next t ∧ Answered t 4)
    ∧ (MailboxStarts s 5 → s.marg 2 ∉ (s.queue (s.marg 1)).packets →
      ((∃ p ∈ s.pkg.live, p.queue = s.marg 1 ∧ p.seqno = s.marg 2) ∨ ∃ c ∈ s.pkg.copies, c.queue = s.marg 1 ∧ c.seqno = s.marg 2) →
      ∃ t, exec .cancel s = .next t ∧ Answered t 3)
    ∧ (MailboxStarts s 2 → (s.ctx? (s.marg 1)).isSome = true → s.regionsOfCtx (s.marg 1) = [] → s.pkg.live = [] → s.pkg.slots = [] → s.pkg.line = [] → s.pkg.queues = [] →
      ∃ t, exec .ctxDestroy s = .next t ∧ Answered t 0 ∧ t.pkg.ctxs = s.pkg.ctxs.filter fun x => x.id != s.marg 1)
    ∧ (MailboxStarts s 2 → (s.ctx? (s.marg 1)).isSome = true → s.launchedNow (s.marg 1) = true → exec .ctxDestroy s = .next s)
    ∧ (∀ code, MailboxStarts s code → (code = 0 ∨ 8 < code) → ∃ t, exec .mailboxUnknown s = .next t ∧ Answered t 1 ∧ t.pkg.ctxs = s.pkg.ctxs)

/-- R280, R338, R359: the mailbox commands for regions and attestation. Choices of the model: log 27, 68, 71, 78. -/
def Obligations.MailboxRegionsAndQuotes : Prop :=
  ∀ s,
    (∀ r, MailboxStarts s 6 → s.feature 4 = true → s.regions = [r] → r.live = true → r.queue = s.marg 1 → r.seqno = s.marg 2 → r.stopping = false →
      r.restoring = false → (s.seq r.owner).doubleTrapped = false → grottoFits (s.marg 3) (grottoSize r.w r.h r.nseq) = true →
      ∃ t, exec .preempt s = .next t ∧ t.regions = [{ r with grotto := some (s.marg 3), stopping := true }]
        ∧ t.pkg.mailbox.running = some (.preempt r.id) ∧ ∀ q ∈ r.seqs, (t.seq q).frozen = true ∧ (t.seq q).blk = none)
    ∧ (MailboxStarts s 7 → s.feature 4 = true → s.grottoOk (s.marg 1) = true → s.marg 2 < 2048 → (s.queue (s.marg 2)).state ≠ .closed →
      ∃ t, exec .restore s = .next t ∧ Answered t 0 ∧ t.pkg.line = s.pkg.line ++ [.restore (s.marg 1) (s.marg 2) s.nextId])
    ∧ (MailboxStarts s 8 → s.feature 6 = true → grottoFits (s.marg 5) 306 = true → s.mergeBad (s.marg 5) 306 = false →
      ∃ t, exec .quote s = .next t ∧ Answered t 0
        ∧ t.mem = ((s.writeBytes (s.marg 5) (s.quoteBody ++ (Config.quoteSignature s.quoteBody).toList)).repairFloor (s.marg 5)
            (s.quoteBody ++ (Config.quoteSignature s.quoteBody).toList).length).mem)

/-- R334, R356, R358: bring-up takes its six steps, or stops with a FAIL code of the step; the link retrains; the clock steps down by one level at most
once in 1 ms while TMAX is over the thermal limit, and up once it is 5 °C below it; the package reports reduced bandwidth; over the hard limit the
module stops. Choices of the model: log 76, 119. -/
def Obligations.BringUpPowerAndLinks : Prop :=
  ∀ s,
    (s.pkg.fail = 0 → s.pkg.step.toNat < 6 →
      (∃ t, exec (.bringUp 0) s = .next t ∧ t.pkg.step = s.pkg.step + 1 ∧ t.pkg.fail = 0 ∧ (s.pkg.step = 3 → t.pkg.ucieTrained = true))
      ∧ (∀ f, f ∈ failCodes (s.pkg.step.toNat + 1) → f ≠ 0 → f < 16 →
        exec (.bringUp (BitVec.ofNat 4 f)) s = .next { s with pkg := { s.pkg with step := s.pkg.step + 1, fail := BitVec.ofNat 4 f } }))
    ∧ (4 ≤ s.pkg.step.toNat → s.pkg.fail = 0 ∨ s.pkg.fail = 5 →
      exec (.ucieRetrain true) s = .next { s with pkg := { s.pkg with ucieTrained := true, fail := 0 } }
      ∧ exec (.ucieRetrain false) s = .next { s with pkg := { s.pkg with ucieTrained := false, fail := 5 } })
    ∧ ((∀ t, s.pkg.lastClockStep = some t → t + 1000000 ≤ s.stamp) →
      (s.pkg.level < 16 → s.pkg.tmax.toNat + 80 ≤ s.pkg.modrec.thermal.toNat →
        ∃ t, exec (.clockStep true) s = .next t ∧ t.pkg.level = s.pkg.level + 1 ∧ t.pkg.lastClockStep = some s.stamp ∧ t.pkg.reduced = false)
      ∧ (8 < s.pkg.level → s.pkg.modrec.thermal.toNat < s.pkg.tmax.toNat →
        ∃ t, exec (.clockStep false) s = .next t ∧ t.pkg.level = s.pkg.level - 1 ∧ t.pkg.lastClockStep = some s.stamp
          ∧ t.pkg.reduced = decide (s.pkg.level = 9)))
    ∧ (s.pkg.level ≤ 8 → s.pkg.modrec.thermal.toNat < s.pkg.tmax.toNat →
      exec (.clockStep false) s = .next { s with pkg := { s.pkg with reduced := true } })
    ∧ (s.pkg.modrec.thermal.toNat < s.pkg.tmax.toNat + 80 → exec (.clockStep true) s = .next s)
    ∧ (s.pkg.tmax.toNat ≤ s.pkg.modrec.thermal.toNat → exec (.clockStep false) s = .next s)
    ∧ (∀ on, exec (.bandwidthDegraded on) s = .next { s with pkg := { s.pkg with degbw := on } })
    ∧ (s.pkg.modrec.hard.toNat < s.pkg.tmax.toNat → exec .hardLimitStop s = .next { s with pkg := { s.pkg with stopped := true, fail := 4 } })
    ∧ (s.pkg.tmax.toNat ≤ s.pkg.modrec.hard.toNat → exec .hardLimitStop s = .next s)
    ∧ (s.pkg.stopped = true → step s = .fault .moduleStopped)

namespace Sys2Proof.Claims

open Sys2Proof.Machine

/-- A connection of a handle that works, in a module that has accepted NET (R360, R371). -/
structure Serves (s : State) (h : Nat) (c : Conn) : Prop where
  bound : s.conn? h = some c
  works : s.connWorks c = true ∧ c.failed = false ∧ c.closing = false
  net : s.feature 2 = true

/-- Packet p of message i is sent for the first time; it stands among those sent, with its bytes, until it is acknowledged. -/
def sends_ (s : State) (i : Nat) (m : NetMsg) (p : Nat) (w : WirePacket) : State :=
  (s.setMsg i { m with sent := m.sent ++ [(p, s.stamp)], kept := m.kept ++ [(p, w)] }).transmit w

/-- R366, R367, R371, R373, R374: a packet of a message that has not ended, and that the peer has not acknowledged, is read from memory and sent, once
the earlier stores of the message's sequencer that may change it have performed; sent again, it is the same packet, and counts. A message without a
translation ends LOCAL before anything of it is sent; the request of a read without a published buffer NOTPUB. -/
def PacketsOfMessagesAreSent : Prop :=
  ∀ s i m c p, s.fabric.msgs[i]? = some m → Serves s m.handle c → m.status = none → p < m.packets → m.acked.contains p = false →
    (∀ x w, m.kept.find? (fun x => x.1 == p) = some (x, w) →
      exec (.packetRetransmit i p) s = .next ((s.setConn { c with resent := c.resent + 1 }).transmit w))
    ∧ (m.op ≠ .read → m.kept.find? (fun x => x.1 == p) = none →
      (s.sourceWaits m = true → exec (.packetRetransmit i p) s = .next s)
      ∧ (∀ s1, s.sourceWaits m = false → s.rangeMapped c.ctx 514 m.laddr m.len = (false, s1) → m.sent = [] →
        exec (.packetRetransmit i p) s = .next (s1.setMsg i { m with status := some 3 }))
      ∧ (∀ s1 l s2, s.sourceWaits m = false → s.rangeMapped c.ctx 514 m.laddr m.len = (true, s1) →
        let off := 4096 * p - m.low; let n := m.packetLen p; let base := if m.op = .send then 0 else m.raddr
        s1.engineRead c.ctx (n / 8 + 2) (m.laddr + off) n = (some l, s2) →
        let w : WirePacket := ⟨m.handle, m.num, m.op, none, base + off, base, m.len, m.tag, m.rc, l⟩
        exec (.packetRetransmit i p) s = .next (sends_ s2 i m p w)))
    ∧ (m.op = .read → m.sent = [] → m.kept = [] →
      (s.bufferHolding c.ctx m.laddr m.len = none → exec (.packetRetransmit i p) s = .next (s.setMsg i { m with status := some 1 }))
      ∧ (∀ b s1, s.bufferHolding c.ctx m.laddr m.len = some b →
        s.rangeWritable c.ctx 514 (b.shadow + (m.laddr - b.visible)) m.len = (true, s1) →
        exec (.packetRetransmit i p) s = .next (sends_ s1 i m 0 ⟨m.handle, m.num, .read, none, m.raddr, m.laddr, m.len, m.tag, m.rc, []⟩)))

/-- R360, R366, R368: a packet from the peer is placed, or leaves everything as it was; a write of one packet goes into the shadow copy of the buffer
that holds its range. Without NET the engines take nothing. -/
def PacketsOfPeersArePlaced : Prop :=
  (∀ s (p : NetPacket) c, Serves s p.handle c →
    (p.kind ≠ .readReply → exec (.messagePacketPlace p) s = .next ((s.placeMessage c p).getD s))
    ∧ (p.kind = .readReply → exec (.messagePacketPlace p) s = .next ((s.placeAnswer c p).getD s)))
  ∧ (∀ s (p : NetPacket), s.feature 2 = false → exec (.messagePacketPlace p) s = .next s)
  ∧ (∀ s (p : NetPacket) c b s1, Serves s p.handle c → p.kind = .write → p.rc = false → p.base = p.addr → p.bytes.length = p.len → 0 < p.len →
    p.len ≤ 4096 → s.inOrder c p.msg = true → (∀ m ∈ s.fabric.inMsgs, ¬ (m.handle = c.handle ∧ m.num = p.msg)) →
    s.writeTarget c p = (some b, s1) → s1.buf? b.handle = some b →
    let m := InMsg.first c p (some b.handle) none false
    ∀ s2, { s1 with fabric := { s1.fabric with inMsgs := s1.fabric.inMsgs ++ [m] } }.engineWrite c.ctx (p.len / 8 + 2)
        (b.shadow + (p.addr - b.visible)) p.bytes = some s2 →
      ∃ t, exec (.messagePacketPlace p) s = .next t ∧ t.mem = s2.mem ∧ { m with placed := [(p.addr, p.len)] } ∈ t.fabric.inMsgs)

/-- R366, R367, R371, R373, R374: a read of the peer is answered from the visible copy of the buffer that holds its range, and with NOTPUB where none
does or a page is not granted; its packets stand among those unacknowledged. Asked again, it is answered by the same packets, and so is one whose
packet is sent again. -/
def ReadsOfPeersAreServed : Prop :=
  (∀ s h msg addr len dest c r, Serves s h c → len ≤ 2 ^ 30 → s.inOrder c msg = true →
    s.fabric.answers.find? (fun a => a.handle == h && a.num == msg) = some r →
    ∃ t, exec (.netReadServe h msg addr ⟨len, dest⟩) s = .next t ∧ t.fabric.wire = s.fabric.wire ++ r.packets ∧ t.mem = s.mem)
  ∧ (∀ s j p r c w, s.fabric.answers[j]? = some r → Serves s r.handle c → r.packets[p]? = some w → r.acked.contains p = false →
    exec (.packetRetransmit (s.fabric.msgs.length + j) p) s = .next ((s.setConn { c with resent := c.resent + 1 }).transmit w))
  ∧ ∀ s h msg addr len dest c ok s1, Serves s h c → len ≤ 2 ^ 30 → s.inOrder c msg = true →
    (∀ a ∈ s.fabric.answers, ¬ (a.handle = h ∧ a.num = msg)) → s.rangeMapped c.ctx 514 addr len = (ok, s1) →
    (∀ b ws s', ok = true → s1.bufferHolding c.ctx addr len = some b →
      s1.answers c ⟨msg, addr, len, dest⟩ (max 1 ((len + dest % 4 + 4095) / 4096)) 0 = (some ws, s') →
      ∃ t, exec (.netReadServe h msg addr ⟨len, dest⟩) s = .next t ∧ t.fabric.wire = s'.fabric.wire ++ ws ∧ t.mem = s'.mem
        ∧ t.fabric.answers = s'.fabric.answers ++ [⟨h, msg, ws, s'.stamp, []⟩])
    ∧ ((ok = false ∨ s1.bufferHolding c.ctx addr len = none) →
      ∃ t, exec (.netReadServe h msg addr ⟨len, dest⟩) s = .next t ∧ t.mem = s1.mem
        ∧ t.fabric.wire = s1.fabric.wire ++ [⟨h, msg, .read, some 1, 0, 0, len, 0, false, []⟩])

/-- R367, R368, R372: a message from the peer whose bytes have all been placed fills its record and ends; it is held while the region of its window is
away. A message of this module ends with the peer's answer, under ROD not before the earlier ones of its connection. -/
def MessagesComplete : Prop :=
  (∀ s h msg c m, s.conn? h = some c → s.feature 2 = true → s.fabric.inMsgs.find? (fun x => x.handle == h && x.num == msg) = some m → m.done = false →
    m.len ≤ placedBytes m.placed → s.inOrder c msg = true →
    (m.slot = none → exec (.remoteCompletion h msg) s = .next (s.endInMsg m))
    ∧ (∀ q t, m.slot.isSome = true → s.receiver c = .at_ q → inTurn (s.heldOf c.region c.recvRank c.recvWin) m.due = true →
      s.fillCompletion q c.recvWin (recordLanes c m) = some t →
      exec (.remoteCompletion h msg) s = .next (t.endInMsg { m with pos := some ((s.seq q).recordPos c.recvWin (recordLanes c m)) }))
    ∧ (m.slot.isSome = true → s.receiver c = .away → exec (.remoteCompletion h msg) s = .next (s.holdRecord m)))
  ∧ (∀ s h msg, s.feature 2 = false → exec (.remoteCompletion h msg) s = .next s)
  ∧ (∀ s i m c answer, s.fabric.msgs[i]? = some m → Serves s m.handle c → m.status = none → m.mayEnd c answer = true →
    (c.deliv ≠ 1 → exec (.localCompletion i answer) s = .next (s.endMsg i m answer))
    ∧ (c.deliv = 1 → (∃ x ∈ s.fabric.msgs.take i, x.handle = m.handle ∧ x.status = none) → exec (.localCompletion i answer) s = .next s))
  ∧ (∀ s i m c status answer, s.fabric.msgs[i]? = some m → s.conn? m.handle = some c → c.deliv ≠ 1 → m.status = some status →
    exec (.localCompletion i answer) s = .next (s.endMsg i m status))

/-- R361, R371, R373: an acknowledgement updates the congestion record and says which packet has arrived, of a message or of an answer to the peer;
one that leaves the connection no path in service fails it; a connection whose peer is gone, or whose packet stays unacknowledged for 2^24 ns, fails,
and its messages end PEERGONE; a link whose retries fail 64 times in a row goes out of service. -/
def AcknowledgementsAndFailures : Prop :=
  (∀ s h (a : NetAck) c, Serves s h c → c.handle = h → let c' := { c with
        record := some #v[a.window, a.credit, a.rtt, BitVec.ofNat 64 a.paths, s.time]
        marked := c.marked + (if a.ecn then 1 else 0), refused := c.refused + (if a.refused then 1 else 0) }
    (s.fabric.pathless c' = true → ∃ t, exec (.ackReceive h a) s = .next t ∧ ∀ x ∈ t.fabric.conns, x.handle = h → x.failed = true)
    ∧ (s.fabric.pathless c' = false → a.answer = true → a.refused = false → s.fabric.conns = [c] → s.fabric.bufs = [] →
      ∃ t, exec (.ackReceive h a) s = .next t ∧ ∀ r ∈ s.fabric.answers, r.handle = h → r.num = a.msg → a.packet ∉ r.acked →
        { r with acked := r.acked ++ [a.packet] } ∈ t.fabric.answers)
    ∧ (s.fabric.pathless c' = false → a.answer = false → ∃ t, exec (.ackReceive h a) s = .next t ∧ t.conn? h = some c'
      ∧ ∀ k m, s.fabric.msgs.findIdx? (fun m => m.handle == h && m.num == a.msg) = some k → s.fabric.msgs[k]? = some m → a.refused = false →
        (∃ x ∈ m.sent, x.1 = a.packet) → a.packet ∉ m.acked → t.fabric.msgs = setNth s.fabric.msgs k { m with acked := m.acked ++ [a.packet] }))
  ∧ (∀ s h gone, (gone = true ∨ s.overdue h = true) →
    ∃ t, exec (.connectionFail ⟨h, gone⟩) s = .next t ∧ (∀ c ∈ t.fabric.conns, c.handle = h → c.failed = true)
      ∧ (∀ m ∈ s.fabric.msgs, m.handle = h → m.status = none → (∃ c ∈ s.fabric.conns, c.handle = h) → { m with status := some 4 } ∈ t.fabric.msgs))
  ∧ (∀ s h, s.overdue h = false → exec (.connectionFail ⟨h, false⟩) s = .next s)
  ∧ (∀ s (p : Fin 16), s.fabric.deadPorts.contains p.val = false →
    (∃ t, exec (.linkLevelRetry ⟨p, false⟩) s = .next t ∧ t.portRetries p = s.portRetries p + 1 ∧ t.mem = s.mem
      ∧ t.agenda = (if 63 ≤ s.portRetries p then [(0, .event (.linkOutOfService p))] else []) ++ s.agenda)
    ∧ (s.portRetries p < 64 → ∃ t, exec (.linkLevelRetry ⟨p, true⟩) s = .next t ∧ t.portRetries p = 0 ∧ t.mem = s.mem)
    ∧ (64 ≤ s.portRetries p → exec (.linkLevelRetry ⟨p, true⟩) s = .next s)
    ∧ (s.portRetries p < 64 → exec (.linkOutOfService p) s = .next s)
    ∧ (64 ≤ s.portRetries p → ∃ t, exec (.linkOutOfService p) s = .next t ∧ t.fabric.deadPorts = p.val :: s.fabric.deadPorts))

end Sys2Proof.Claims

/-- R360, R361, R366, R367, R368, R371 to R373: packets of a message are sent and placed, a peer's read is served from a published buffer, messages
complete in their windows, acknowledgements update the congestion record, a failed connection ends its messages PEERGONE, and an Ethernet link that
fails 64 times in a row goes out of service. Choices of the model: log 48, 79, 87, 88, 89, 91, 122, 123, 138, 139. -/
def Obligations.NetworkEventsAct : Prop :=
  Claims.PacketsOfMessagesAreSent ∧ Claims.PacketsOfPeersArePlaced ∧ Claims.ReadsOfPeersAreServed ∧ Claims.MessagesComplete
    ∧ Claims.AcknowledgementsAndFailures

/-- R248, R339 to R346: packets come from the host and from `launch`, are dispatched, rejected or admitted. Choices of the model: log 73, 80. -/
def Obligations.PacketsAreAppendedDispatchedAndAdmitted : Prop :=
  Claims.LaunchAppendsThePacket ∧ Claims.PacketsAreAppendedDispatchedAndAdmitted

namespace Sys2Proof.Claims

open Sys2Proof.Machine

/-! ## Steps, words, and what all of them keep -/

/-- The next move of the agenda is c, and no arbitration round falls before it; `later` is the state in which the time before it has passed
(log 1). -/
structure Cued (s : State) (c : Cue) (later : State) : Prop where
  running : s.pkg.stopped = false
  noRound : s.pkg.roundsDue = []
  cue : ∃ dt rest, s.agenda = (dt, c) :: rest ∧ (dt < s.roundIn ∨ s.pkg.slots = [])
    ∧ later = { s.pass dt with agenda := rest, steps := s.steps + 1, slow := false }

/-- The decoder reads an instruction from the word that stands for it: from a handler record for a stage word, from a block for a sequencer word. -/
def DecodesTo (w : Code) (i : Instr) : Prop := match stageOpcode i with | some _ => decodeStage w = i | none => decodeSeq w = .ok i

/-- Stage fields that R44 allows, for the samples of decoding. -/
def fieldsOf (a b c : BitVec 5) (mod : BitVec 3) (lant : BitVec 1) (dst : BitVec 3) (aux : BitVec 4) : StageFields := ⟨a, b, c, mod, lant, dst, aux⟩

end Sys2Proof.Claims

/-- R39, R180, R182, R188, R220, R346: a step runs the instruction that its move names. A sequencer word whose guard is true is decoded and run, one whose
guard is false is passed over, and a word that is no instruction traps ILL; a firing that stands at a stage, behind no older firing, runs the stage
word of its handler record; a command runs at its unit; an event runs as it is; arbitration rounds come at their cycles, before other moves (R346).
How moves are chosen is the model's (log 1). Choices of the model: log 1, 121, 153. -/
def Obligations.StepRunsTheDecodedInstruction : Prop :=
  ∀ s later,
    (∀ i, Cued s (.event i) later → step s = exec i { later with focus := .none })
    ∧ (∀ q b w, Cued s (.seqWord q) later → (s.seq q).blk = some b → b.words[b.idx]? = some w →
      (∀ i, readPred b.preds (BitVec.ofNat 3 w.toNat) = true → decodeSeq w = .ok i → step s = exec i { later.beforeWord q b w with focus := .seq q })
      ∧ (readPred b.preds (BitVec.ofNat 3 w.toNat) = false →
        step s = .next (later.setSeq q { s.seq q with blk := some { b with idx := b.idx + 1, waiting := false } }))
      ∧ (∀ e, readPred b.preds (BitVec.ofNat 3 w.toNat) = true → decodeSeq w = .error e →
        step s = .next (traps later q ((s.seq q).pc.setWidth 64) (ecause 1 b.idx 0) 0)))
    ∧ (∀ n k fr w, Cued s (.stage n k) later → (s.core n).pipe[k]? = some fr → 1 ≤ fr.stage → fr.stage ≤ 6 →
      (∀ g ∈ (s.core n).pipe.take k, fr.stage < g.stage ∧ g.hold = none) → (s.core n).active[fr.slot][fr.stage]? = some w →
      step s = exec (decodeStage w) { later with focus := .stage n k })
    ∧ (∀ k c, Cued s (.cmd k) later → s.cmds[k]? = some c → s.cmdBehind c = false → step s = exec c.instr { later with focus := .cmd k })
    ∧ (∀ d rest, s.pkg.stopped = false → s.pkg.roundsDue = d :: rest →
      step s = exec (.arbitrationRound d) { s with steps := s.steps + 1, slow := false, focus := .none })
    ∧ (∀ dt c rest, s.pkg.stopped = false → s.pkg.roundsDue = [] → s.agenda = (dt, c) :: rest → s.roundIn ≤ dt → s.pkg.slots ≠ [] →
      let t := { s.toRounds with agenda := (dt - s.roundIn, c) :: rest, steps := s.steps + 1, slow := false }
      step s = exec (.arbitrationRound (t.pkg.roundsDue.headD 0)) { t with focus := .none })

/-- R43, R49, R178, R179: words written out from the encoding tables decode to the instructions that they stand for. -/
def Obligations.WordsDecode : Prop :=
  DecodesTo 0b00010100001000100000000000101000#32 (.addi 1 2 5 0)
  ∧ DecodesTo 0b00010000011001010011100001000010#32 (.sub 3 5 7 false 2)
  ∧ DecodesTo 0b01001000011001001100000000001000#32 (.ld 3 4 3 0 1 0)
  ∧ DecodesTo 0b01111000101001100011101100100000#32 (.amoSwap 5 6 7 ⟨0, 1, 1, 2⟩ false 0)
  ∧ DecodesTo 0b10001000000000100000110011110000#32 (.wshrLocal 0x106 3 false 0)
  ∧ DecodesTo 0b10001100001000101000001000101000#32 (.sgo 1 2 260 1 0)
  ∧ DecodesTo 0b10010000001000100000000000101000#32 (.cfgSig 1 2 false 0)
  ∧ DecodesTo 0b10100000001000100001100000010000#32 (.netSend 1 2 3 false 0)
  ∧ DecodesTo 0b00010001000010010110000000010001#32 (.iadd (fieldsOf 8 9 12 0 0 1 1))
  ∧ DecodesTo 0b10100100001010000111110010110000#32 (.dot (fieldsOf 1 8 15 4 1 3 0))
  ∧ decodeSeq 0b11111100000000000000000000000000#32 = .error .headerInBlock

/-- R43, R178: every word that the encoder writes for a well-formed instruction decodes to that instruction, with every operand; and every stage
word is the encoding of what the decoder reads from it. -/
def Obligations.DecodeAndEncodeAgree : Prop :=
  (∀ i w, i.wf = true → encode i = some w → DecodesTo w i)
  ∧ (∀ w : Code, ∃ op f, stageOpcode (decodeStage w) = some (op, f) ∧ stageWord op f = w)

/-- Every step keeps the floor's memory in its one canonical form: addresses strictly rising, and no entry equal to what an unlisted address reads
as. Choices of the model: log 2. -/
def Obligations.EveryStepKeepsMemoryCanonical : Prop :=
  ∀ s t, Memory.wf s.mem = true → step s = .next t → Memory.wf t.mem = true

/-- R262, R284, R336 to R344, R347, R353, R396: what stands after reset: no step of bring-up, no context, queue, region or candidate, no feature
accepted, the bypass limit 4; every core and sequencer at its reset values; and the floor's memory in canonical form. Choices of the model: log 2,
3. -/
def Obligations.ResetLeaves : Prop :=
  let s := State.reset
  Memory.wf s.mem = true ∧ s.pkg.step = 0 ∧ s.pkg.fail = 0 ∧ s.pkg.feata = 0 ∧ s.pkg.bypassLimit = 4 ∧ s.pkg.ctxs = [] ∧ s.regions = [] ∧ s.pkg.slots = []
  ∧ (∀ n, (s.queue n).state = .closed) ∧ (∀ c, (s.hostWin c).head = 0 ∧ (s.hostWin c).tail = 0)
  ∧ (∀ n, let u := s.core n
      u.pipe = [] ∧ u.openGraph = none ∧ u.switches = [] ∧ u.staging = [] ∧ u.stop = false ∧ u.aflg = 0 ∧ u.cwarn = 0 ∧ u.rwarn = 0 ∧ u.ewarn = 0
      ∧ u.cfault = 0 ∧ u.ecnt = 0 ∧ u.trail = [] ∧ (∀ a, u.loadWord a = 0) ∧ (∀ w, wdBound (u.desc w) = false)
      ∧ (∀ k : Fin 8, h0Valid u.active[k] = false ∧ h0Valid u.shadow[k] = false ∧ u.kActive[k] = 0 ∧ u.kShadow[k] = 0)
      ∧ (∀ e : Fin 4, u.edge[e].state = .idle))
  ∧ (∀ q, let v := s.seq q
      v.eie = false ∧ v.tl = false ∧ v.tvec = 0 ∧ v.swarn = 0 ∧ v.wake = 0 ∧ v.evwin = 7 ∧ v.echoi = 65536 ∧ v.halted = false ∧ v.blk = none
      ∧ ∀ m : Fin 8, v.mdesc[m] = 0)

/-- R173: register 0 reads as 0 and discards writes, predicate 0 reads as true and discards writes; any other register or predicate reads as it was
last written. -/
def Obligations.RegisterFilesReadBack : Prop :=
  (∀ (r : Vector Word 32) (d e : Reg) x, readReg r 0 = 0 ∧ writeReg r 0 x = r ∧ (d ≠ 0 → readReg (writeReg r d x) e = if e = d then x else readReg r e))
  ∧ (∀ (r : Vector Bool 8) (d e : Pred) x, readPred r 0 = true ∧ writePred r 0 x = r
      ∧ (d ≠ 0 → readPred (writePred r d x) e = if e = d then x else readPred r e))

/-- R182, R183: a sequencer word changes at issue nothing but its own sequencer and the translation caches, and sends nothing but loads: no byte of the
floor, no core, no region, no other sequencer changes, but where it ends in a double trap (R190). Its commit effects wait for its block. Choices of the
model: log 7. -/
def Obligations.SequencerWordsOnlyIssue : Prop :=
  ∀ i w s q t, encodeSeq i = some w → s.focus = .seq q → ((s.seq q).tl = false ∨ (t.seq q).doubleTrapped = false) → exec i s = .next t →
    t.mem = s.mem ∧ t.cores = s.cores ∧ t.regions = s.regions ∧ t.pkg = s.pkg ∧ t.fabric = s.fabric ∧ t.cmds = s.cmds
      ∧ (∃ l, t.net = s.net ++ l ∧ ∀ p ∈ l, ∃ a, p = accessPacket q a ∧ a.op = .load) ∧ ∀ p, p ≠ q → t.seq p = s.seq p

/-- R39, R41: a stage of a firing changes its own core and nothing else, but that the record of a fault is sent: no byte of the floor, no other core, no
sequencer, no region, no access. A firing that has run its sixth stage completes as the next move, and the moves to come are unchanged otherwise
(log 97). -/
def Obligations.StagesChangeTheirCoreOnly : Prop :=
  ∀ i op f s n k t, stageOpcode i = some (op, f) → s.focus = .stage n k → exec i s = .next t →
    t.mem = s.mem ∧ t.seqs = s.seqs ∧ t.regions = s.regions ∧ t.pkg = s.pkg ∧ t.fabric = s.fabric ∧ t.cmds = s.cmds
      ∧ t.atSlice = s.atSlice ∧ t.withheld = s.withheld ∧ (∀ m, m ≠ n → t.core m = s.core m)
      ∧ (t.net = s.net ∨ ∃ p rec, t.net = s.net ++ [p] ∧ p.payload = .record rec)
      ∧ (∀ fr, (s.core n).pipe[k]? = some fr →
        let ran := ∃ g, (t.core n).pipe[k]? = some g ∧ g.stage = fr.stage + 1
        (ran → fr.stage = 6 → t.agenda = (0, .event (.firingComplete n)) :: s.agenda) ∧ (¬ (ran ∧ fr.stage = 6) → t.agenda = s.agenda))

/-- R303: when a slice controller applies a sequencer's store, its bytes read as they were stored, lowest first, and every other byte of the floor
reads as before. Choices of the model: log 8. -/
def Obligations.StoresChangeTheirBytesOnly : Prop :=
  ∀ s i a pa q s', s.nextAtSlice i = some a → a.place = .floor pa → a.op = .store → a.source = .seq q →
    State.storeFloor { s with atSlice := dropNth s.atSlice i } pa a.data = some s' →
    ∃ t, exec (.sliceApply i) s = .next t
      ∧ (∀ (k : Nat) b, a.data[k]? = some b → t.readByte (pa + k) = b)
      ∧ (∀ x, (x < pa ∨ pa + a.data.length ≤ x) → t.readByte x = s.readByte x)
      ∧ t.cores = s.cores ∧ t.regions = s.regions ∧ ∀ p, p ≠ q → t.seq p = s.seq p

namespace Sys2Proof.Claims

open Sys2Proof.Machine

/-- A magnitude of q steps of the grid and a rest of r / 2^k of one is rounded away from zero (R18). -/
def awayFromZero (mode : RMode) (neg : Bool) (q r k : Nat) : Bool :=
  match mode with
  | .rtz => false
  | .rup => r != 0 && !neg
  | .rdn => r != 0 && neg
  | .rne => decide (2 ^ k < 2 * r) || (2 * r == 2 ^ k && q % 2 == 1)

/-- A result beyond the largest finite one becomes the infinity of its sign (R19). -/
def toInfinity (mode : RMode) (neg : Bool) : Bool := match mode with | .rne => true | .rtz => false | .rup => !neg | .rdn => neg

/-- R13, R18, R19: the word that a magnitude m × 2^e is rounded to: in the binade of exponent field E the 26 leading bits of m, and the carry of the
rounding; beyond the largest finite word that word or the infinity, with OVF; below the normal words a multiple of 2^-535. -/
def RoundsToTheGrid : Prop :=
  ∀ mode neg m k, let q := m / 2 ^ k; let up := if awayFromZero mode neg q (m % 2 ^ k) k then 1 else 0; let sign := if neg then 2 ^ 35 else 0
    (∀ E : Nat, 1 ≤ E → 2 ^ (25 + k) ≤ m → m < 2 ^ (26 + k) → let w := E * 2 ^ 25 + (q + up) - 2 ^ 25; let e : Int := E - k - 536
      (w < 1023 * 2 ^ 25 → rndFin mode neg m e = ⟨BitVec.ofNat 36 (sign + w), 0⟩)
      ∧ (1023 * 2 ^ 25 ≤ w →
        rndFin mode neg m e = ⟨BitVec.ofNat 36 (sign + (if toInfinity mode neg then 1023 * 2 ^ 25 else 1023 * 2 ^ 25 - 1)), 1⟩))
    ∧ (0 < m → m < 2 ^ (25 + k) → rndFin mode neg m (-535 - k) = ⟨BitVec.ofNat 36 (sign + (q + up)), 0⟩)

/-- A signed magnitude. -/
def signedMag (neg : Bool) (m : Nat) : Int := if neg then -m else m

/-- The exact sum of two numbers m × 2^e and n × 2^d, in steps of the smaller exponent. -/
def exactSum (s : Bool) (m : Nat) (e : Int) (t : Bool) (n : Nat) (d : Int) : Int :=
  signedMag s m * 2 ^ (e - min e d).toNat + signedMag t n * 2 ^ (d - min e d).toNat

/-- R19, R20, R62: sums, products and fused sums of finite operands are exact and rounded once; a sum of zero is +0, -0 under RDN, and the zero of the
addends where both are zeros of one sign. -/
def FiniteResultsAreRoundedOnce : Prop :=
  ∀ mode a b s m e t n d, ff a = .fin s m e → ff b = .fin t n d →
    (0 < m * n → fmulOp mode a b = rndFin mode (s != t) (m * n) (e + d))
    ∧ (let z := exactSum s m e t n d
      (z ≠ 0 → faddOp mode a b = rndFin mode (decide (z < 0)) z.natAbs (min e d))
      ∧ (z = 0 → faddOp mode a b = ⟨zero36 (if m = 0 ∧ n = 0 ∧ s = t then s else mode == .rdn), 0⟩))
    ∧ (∀ c u k f, ff c = .fin u k f → let z := exactSum (s != t) (m * n) (e + d) u k f
      z ≠ 0 → fmaOp mode a b c = rndFin mode (decide (z < 0)) z.natAbs (min (e + d) f))

end Sys2Proof.Claims

/-- R13, R14, R18 to R21, R62: sums, products and fused sums of finite operands are exact and rounded once to the FF36 grid, in all four modes, with OVF
beyond the largest finite word; a NaN operand gives the canonical NaN, and so do the difference of two infinities and zero times infinity, which set
INV; sums and products do not depend on the order of their operands. -/
def Obligations.FloatSumsAndProducts : Prop :=
  Claims.RoundsToTheGrid ∧ Claims.FiniteResultsAreRoundedOnce
  ∧ (∀ m a b, faddOp m a b = faddOp m b a ∧ fmulOp m a b = fmulOp m b a)
  ∧ (∀ m a b, isNan a = true → faddOp m a b = ⟨0x7FF000000, 0⟩ ∧ fmulOp m a b = ⟨0x7FF000000, 0⟩ ∧ fsubOp m b a = ⟨0x7FF000000, 0⟩)
  ∧ (∀ m n, faddOp m (inf36 n) (inf36 (!n)) = ⟨0x7FF000000, 4⟩ ∧ fmulOp m (zero36 n) (inf36 n) = ⟨0x7FF000000, 4⟩)
end

