-- ==== Sys2Proof/Laws/Sparse.lean ====
section
/-! SUPPORT. Lists of key and value pairs: reading after writing, and the canonical form. -/

namespace Sys2Proof.Machine

variable {α : Type}

@[simp] theorem sparseGet_nil (d : α) (k : Nat) : sparseGet d [] k = d := rfl

theorem sparseGet_cons (d : α) (j : Nat) (w : α) (t : List (Nat × α)) (k : Nat) :
    sparseGet d ((j, w) :: t) k = if j = k then w else if k < j then d else sparseGet d t k := rfl

@[simp] theorem sparseGet_put_same (d : α) (m : List (Nat × α)) (k : Nat) (v : α) : sparseGet d (sparsePut m k v) k = v := by
  induction m with
  | nil => simp [sparsePut, sparseGet]
  | cons p t ih =>
    obtain ⟨j, w⟩ := p
    by_cases h1 : k < j
    · simp [sparsePut, sparseGet, h1]
    · by_cases h2 : j = k
      · simp [sparsePut, sparseGet, h2]
      · simp [sparsePut, sparseGet, h1, h2, ih]

theorem sparseGet_put_other (d : α) (m : List (Nat × α)) {k i : Nat} (v : α) (h : i ≠ k) :
    sparseGet d (sparsePut m k v) i = sparseGet d m i := by
  induction m with
  | nil =>
    simp only [sparsePut, sparseGet]
    split <;> simp_all
  | cons p t ih =>
    obtain ⟨j, w⟩ := p
    by_cases h1 : k < j
    · simp only [sparsePut, h1, if_true, sparseGet]
      have : k ≠ i := fun e => h e.symm
      simp only [this, if_false]
      by_cases h3 : i < k
      · have : j ≠ i := by omega
        have : i < j := by omega
        simp [*]
      · simp [h3]
    · by_cases h2 : j = k
      · subst h2
        have : j ≠ i := fun e => h e.symm
        simp [sparsePut, sparseGet, this]
      · simp only [sparsePut, h1, h2, if_false, sparseGet, ih]

/-- The later of two values put at one key stands. -/
@[simp] theorem sparsePut_put (m : List (Nat × α)) (k : Nat) (v w : α) : sparsePut (sparsePut m k v) k w = sparsePut m k w := by
  induction m with
  | nil => simp [sparsePut]
  | cons p t ih =>
    obtain ⟨j, x⟩ := p
    by_cases h1 : k < j
    · simp [sparsePut, h1]
    · by_cases h2 : j = k
      · simp [sparsePut, h2]
      · simp [sparsePut, h1, h2, ih]

theorem sparseGet_above (d : α) (k : Nat) (m : List (Nat × α)) {i : Nat} (h : k < i) : sparseGet d (sparseAbove k m) i = sparseGet d m i := by
  induction m with
  | nil => rfl
  | cons p t ih =>
    obtain ⟨j, w⟩ := p
    by_cases h1 : j ≤ k
    · have a : j ≠ i := by omega
      have b : ¬ i < j := by omega
      simp [sparseAbove, sparseGet, h1, a, b, ih]
    · simp [sparseAbove, h1]

theorem sparseGet_above_low (d : α) (k : Nat) (m : List (Nat × α)) {i : Nat} (h : i ≤ k) : sparseGet d (sparseAbove k m) i = d := by
  induction m with
  | nil => rfl
  | cons p t ih =>
    obtain ⟨j, w⟩ := p
    by_cases h1 : j ≤ k
    · simp [sparseAbove, h1, ih]
    · have a : j ≠ i := by omega
      have b : i < j := by omega
      simp [sparseAbove, sparseGet, h1, a, b]

@[simp] theorem sparseGet_drop_same (d : α) (m : List (Nat × α)) (k : Nat) : sparseGet d (sparseDrop m k) k = d := by
  induction m with
  | nil => rfl
  | cons p t ih =>
    obtain ⟨j, w⟩ := p
    by_cases h1 : k < j
    · have : j ≠ k := by omega
      simp [sparseDrop, sparseGet, h1, this]
    · by_cases h2 : j = k
      · subst h2
        simp [sparseDrop, sparseGet_above_low]
      · simp [sparseDrop, sparseGet, h1, h2, ih]

theorem sparseGet_drop_other (d : α) (m : List (Nat × α)) {k i : Nat} (h : i ≠ k) : sparseGet d (sparseDrop m k) i = sparseGet d m i := by
  induction m with
  | nil => rfl
  | cons p t ih =>
    obtain ⟨j, w⟩ := p
    by_cases h1 : k < j
    · simp [sparseDrop, h1]
    · by_cases h2 : j = k
      · subst h2
        have a : j ≠ i := fun e => h e.symm
        by_cases h3 : i < j
        · simp [sparseDrop, sparseGet, a, h3, sparseGet_above_low d j t (Nat.le_of_lt h3)]
        · have : j < i := by omega
          simp [sparseDrop, sparseGet, a, h3, sparseGet_above d j t this]
      · simp [sparseDrop, sparseGet, h1, h2, ih]

@[simp] theorem sparseGet_set_same [DecidableEq α] (d : α) (m : List (Nat × α)) (k : Nat) (v : α) : sparseGet d (sparseSet d m k v) k = v := by
  unfold sparseSet
  split
  · simp [*]
  · simp

theorem sparseGet_set_other [DecidableEq α] (d : α) (m : List (Nat × α)) {k i : Nat} (v : α) (h : i ≠ k) :
    sparseGet d (sparseSet d m k v) i = sparseGet d m i := by
  unfold sparseSet
  split
  · exact sparseGet_drop_other d m h
  · exact sparseGet_put_other d m v h

/-! ## The canonical form -/

theorem risingFrom_low {lo hi : Nat} {m : List (Nat × α)} (h : risingFrom hi m = true) (l : lo ≤ hi) : risingFrom lo m = true := by
  cases m with
  | nil => rfl
  | cons p t =>
    obtain ⟨j, w⟩ := p
    simp only [risingFrom, Bool.and_eq_true, decide_eq_true_eq] at h ⊢
    exact ⟨by omega, h.2⟩

theorem risingFrom_put {lo : Nat} {m : List (Nat × α)} {k : Nat} (v : α) (h : risingFrom lo m = true) (l : lo ≤ k) :
    risingFrom lo (sparsePut m k v) = true := by
  induction m generalizing lo with
  | nil => simp [sparsePut, risingFrom, l]
  | cons p t ih =>
    obtain ⟨j, w⟩ := p
    simp only [risingFrom, Bool.and_eq_true, decide_eq_true_eq] at h
    by_cases h1 : k < j
    · have : k + 1 ≤ j := h1
      simp [sparsePut, risingFrom, h1, l, h.2, this]
    · by_cases h2 : j = k
      · subst h2
        simp [sparsePut, risingFrom, h.1, h.2]
      · have : j + 1 ≤ k := by omega
        simp [sparsePut, risingFrom, h1, h2, h.1, ih h.2 this]

theorem risingFrom_above {lo k : Nat} {m : List (Nat × α)} (h : risingFrom lo m = true) : risingFrom lo (sparseAbove k m) = true := by
  induction m generalizing lo with
  | nil => rfl
  | cons p t ih =>
    obtain ⟨j, w⟩ := p
    by_cases h1 : j ≤ k
    · simp only [risingFrom, Bool.and_eq_true, decide_eq_true_eq] at h
      simp only [sparseAbove, h1, if_true]
      exact risingFrom_low (ih h.2) (by omega)
    · simpa [sparseAbove, h1] using h

theorem risingFrom_drop {lo : Nat} {m : List (Nat × α)} {k : Nat} (h : risingFrom lo m = true) : risingFrom lo (sparseDrop m k) = true := by
  induction m generalizing lo with
  | nil => rfl
  | cons p t ih =>
    obtain ⟨j, w⟩ := p
    have h' := h
    simp only [risingFrom, Bool.and_eq_true, decide_eq_true_eq] at h
    by_cases h1 : k < j
    · simpa [sparseDrop, h1] using h'
    · by_cases h2 : j = k
      · subst h2
        simp only [sparseDrop, Nat.lt_irrefl, if_false, if_true]
        exact risingFrom_above (risingFrom_low h.2 (by omega))
      · simp [sparseDrop, risingFrom, h1, h2, h.1, ih h.2]

theorem noDefault_put [DecidableEq α] {d : α} {m : List (Nat × α)} {k : Nat} {v : α} (h : noDefault d m = true) (hv : v ≠ d) :
    noDefault d (sparsePut m k v) = true := by
  induction m with
  | nil => simp [sparsePut, noDefault, hv]
  | cons p t ih =>
    obtain ⟨j, w⟩ := p
    simp only [noDefault, Bool.and_eq_true, decide_eq_true_eq] at h
    simp only [sparsePut]
    split
    · simp [noDefault, hv, h.1, h.2]
    · split
      · simp [noDefault, hv, h.2]
      · simp [noDefault, h.1, ih h.2]

theorem noDefault_above [DecidableEq α] {d : α} {m : List (Nat × α)} {k : Nat} (h : noDefault d m = true) : noDefault d (sparseAbove k m) = true := by
  induction m with
  | nil => rfl
  | cons p t ih =>
    obtain ⟨j, w⟩ := p
    have h' := h
    simp only [noDefault, Bool.and_eq_true, decide_eq_true_eq] at h
    simp only [sparseAbove]
    split
    · exact ih h.2
    · exact h'

theorem noDefault_drop [DecidableEq α] {d : α} {m : List (Nat × α)} {k : Nat} (h : noDefault d m = true) : noDefault d (sparseDrop m k) = true := by
  induction m with
  | nil => rfl
  | cons p t ih =>
    obtain ⟨j, w⟩ := p
    have h' := h
    simp only [noDefault, Bool.and_eq_true, decide_eq_true_eq] at h
    simp only [sparseDrop]
    split
    · exact h'
    · split
      · exact noDefault_above h.2
      · simp [noDefault, h.1, ih h.2]

/-- Writing keeps the canonical form. -/
theorem sparseSet_canonical [DecidableEq α] {d : α} {m : List (Nat × α)} {k : Nat} (v : α) (h : (risingFrom 0 m && noDefault d m) = true) :
    (risingFrom 0 (sparseSet d m k v) && noDefault d (sparseSet d m k v)) = true := by
  simp only [Bool.and_eq_true] at h ⊢
  unfold sparseSet
  split
  · exact ⟨risingFrom_drop h.1, noDefault_drop h.2⟩
  · exact ⟨risingFrom_put v h.1 (Nat.zero_le _), noDefault_put h.2 ‹_›⟩

end Sys2Proof.Machine
end

