-- ==== Sys2Proof/Laws/State.lean ====
section
/-! SUPPORT. What the updates of State leave as it was, field by field, and reading after an update. -/

namespace Sys2Proof.Machine

/-! ## Every field that an update does not change -/

@[simp] theorem State.setSeq_focus (s : State) (q : Nat) (v : Seq) : (s.setSeq q v).focus = s.focus := rfl
@[simp] theorem State.setSeq_agenda (s : State) (q : Nat) (v : Seq) : (s.setSeq q v).agenda = s.agenda := rfl
@[simp] theorem State.setSeq_steps (s : State) (q : Nat) (v : Seq) : (s.setSeq q v).steps = s.steps := rfl
@[simp] theorem State.setSeq_now (s : State) (q : Nat) (v : Seq) : (s.setSeq q v).now = s.now := rfl
@[simp] theorem State.setSeq_stamp (s : State) (q : Nat) (v : Seq) : (s.setSeq q v).stamp = s.stamp := rfl
@[simp] theorem State.setSeq_stampFrac (s : State) (q : Nat) (v : Seq) : (s.setSeq q v).stampFrac = s.stampFrac := rfl
@[simp] theorem State.setSeq_nextId (s : State) (q : Nat) (v : Seq) : (s.setSeq q v).nextId = s.nextId := rfl
@[simp] theorem State.setSeq_frees (s : State) (q : Nat) (v : Seq) : (s.setSeq q v).frees = s.frees := rfl
@[simp] theorem State.setSeq_cores (s : State) (q : Nat) (v : Seq) : (s.setSeq q v).cores = s.cores := rfl
@[simp] theorem State.setSeq_regions (s : State) (q : Nat) (v : Seq) : (s.setSeq q v).regions = s.regions := rfl
@[simp] theorem State.setSeq_nextRegion (s : State) (q : Nat) (v : Seq) : (s.setSeq q v).nextRegion = s.nextRegion := rfl
@[simp] theorem State.setSeq_mem (s : State) (q : Nat) (v : Seq) : (s.setSeq q v).mem = s.mem := rfl
@[simp] theorem State.setSeq_softFloor (s : State) (q : Nat) (v : Seq) : (s.setSeq q v).softFloor = s.softFloor := rfl
@[simp] theorem State.setSeq_badFloor (s : State) (q : Nat) (v : Seq) : (s.setSeq q v).badFloor = s.badFloor := rfl
@[simp] theorem State.setSeq_net (s : State) (q : Nat) (v : Seq) : (s.setSeq q v).net = s.net := rfl
@[simp] theorem State.setSeq_cmds (s : State) (q : Nat) (v : Seq) : (s.setSeq q v).cmds = s.cmds := rfl
@[simp] theorem State.setSeq_atSlice (s : State) (q : Nat) (v : Seq) : (s.setSeq q v).atSlice = s.atSlice := rfl
@[simp] theorem State.setSeq_withheld (s : State) (q : Nat) (v : Seq) : (s.setSeq q v).withheld = s.withheld := rfl
@[simp] theorem State.setSeq_poolDue (s : State) (q : Nat) (v : Seq) : (s.setSeq q v).poolDue = s.poolDue := rfl
@[simp] theorem State.setSeq_tlbs (s : State) (q : Nat) (v : Seq) : (s.setSeq q v).tlbs = s.tlbs := rfl
@[simp] theorem State.setSeq_dieTlbs (s : State) (q : Nat) (v : Seq) : (s.setSeq q v).dieTlbs = s.dieTlbs := rfl
@[simp] theorem State.setSeq_fecc (s : State) (q : Nat) (v : Seq) : (s.setSeq q v).fecc = s.fecc := rfl
@[simp] theorem State.setSeq_lretry (s : State) (q : Nat) (v : Seq) : (s.setSeq q v).lretry = s.lretry := rfl
@[simp] theorem State.setSeq_linkFails (s : State) (q : Nat) (v : Seq) : (s.setSeq q v).linkFails = s.linkFails := rfl
@[simp] theorem State.setSeq_deadLinks (s : State) (q : Nat) (v : Seq) : (s.setSeq q v).deadLinks = s.deadLinks := rfl
@[simp] theorem State.setSeq_probes (s : State) (q : Nat) (v : Seq) : (s.setSeq q v).probes = s.probes := rfl
@[simp] theorem State.setSeq_slow (s : State) (q : Nat) (v : Seq) : (s.setSeq q v).slow = s.slow := rfl
@[simp] theorem State.setSeq_parts (s : State) (q : Nat) (v : Seq) : (s.setSeq q v).parts = s.parts := rfl
@[simp] theorem State.setSeq_pkg (s : State) (q : Nat) (v : Seq) : (s.setSeq q v).pkg = s.pkg := rfl
@[simp] theorem State.setSeq_fabric (s : State) (q : Nat) (v : Seq) : (s.setSeq q v).fabric = s.fabric := rfl

@[simp] theorem State.setCore_focus (s : State) (n : Nat) (c : Core) : (s.setCore n c).focus = s.focus := rfl
@[simp] theorem State.setCore_agenda (s : State) (n : Nat) (c : Core) : (s.setCore n c).agenda = s.agenda := rfl
@[simp] theorem State.setCore_steps (s : State) (n : Nat) (c : Core) : (s.setCore n c).steps = s.steps := rfl
@[simp] theorem State.setCore_now (s : State) (n : Nat) (c : Core) : (s.setCore n c).now = s.now := rfl
@[simp] theorem State.setCore_stamp (s : State) (n : Nat) (c : Core) : (s.setCore n c).stamp = s.stamp := rfl
@[simp] theorem State.setCore_stampFrac (s : State) (n : Nat) (c : Core) : (s.setCore n c).stampFrac = s.stampFrac := rfl
@[simp] theorem State.setCore_nextId (s : State) (n : Nat) (c : Core) : (s.setCore n c).nextId = s.nextId := rfl
@[simp] theorem State.setCore_frees (s : State) (n : Nat) (c : Core) : (s.setCore n c).frees = s.frees := rfl
@[simp] theorem State.setCore_seqs (s : State) (n : Nat) (c : Core) : (s.setCore n c).seqs = s.seqs := rfl
@[simp] theorem State.setCore_regions (s : State) (n : Nat) (c : Core) : (s.setCore n c).regions = s.regions := rfl
@[simp] theorem State.setCore_nextRegion (s : State) (n : Nat) (c : Core) : (s.setCore n c).nextRegion = s.nextRegion := rfl
@[simp] theorem State.setCore_mem (s : State) (n : Nat) (c : Core) : (s.setCore n c).mem = s.mem := rfl
@[simp] theorem State.setCore_softFloor (s : State) (n : Nat) (c : Core) : (s.setCore n c).softFloor = s.softFloor := rfl
@[simp] theorem State.setCore_badFloor (s : State) (n : Nat) (c : Core) : (s.setCore n c).badFloor = s.badFloor := rfl
@[simp] theorem State.setCore_net (s : State) (n : Nat) (c : Core) : (s.setCore n c).net = s.net := rfl
@[simp] theorem State.setCore_cmds (s : State) (n : Nat) (c : Core) : (s.setCore n c).cmds = s.cmds := rfl
@[simp] theorem State.setCore_atSlice (s : State) (n : Nat) (c : Core) : (s.setCore n c).atSlice = s.atSlice := rfl
@[simp] theorem State.setCore_withheld (s : State) (n : Nat) (c : Core) : (s.setCore n c).withheld = s.withheld := rfl
@[simp] theorem State.setCore_poolDue (s : State) (n : Nat) (c : Core) : (s.setCore n c).poolDue = s.poolDue := rfl
@[simp] theorem State.setCore_tlbs (s : State) (n : Nat) (c : Core) : (s.setCore n c).tlbs = s.tlbs := rfl
@[simp] theorem State.setCore_dieTlbs (s : State) (n : Nat) (c : Core) : (s.setCore n c).dieTlbs = s.dieTlbs := rfl
@[simp] theorem State.setCore_fecc (s : State) (n : Nat) (c : Core) : (s.setCore n c).fecc = s.fecc := rfl
@[simp] theorem State.setCore_lretry (s : State) (n : Nat) (c : Core) : (s.setCore n c).lretry = s.lretry := rfl
@[simp] theorem State.setCore_linkFails (s : State) (n : Nat) (c : Core) : (s.setCore n c).linkFails = s.linkFails := rfl
@[simp] theorem State.setCore_deadLinks (s : State) (n : Nat) (c : Core) : (s.setCore n c).deadLinks = s.deadLinks := rfl
@[simp] theorem State.setCore_probes (s : State) (n : Nat) (c : Core) : (s.setCore n c).probes = s.probes := rfl
@[simp] theorem State.setCore_slow (s : State) (n : Nat) (c : Core) : (s.setCore n c).slow = s.slow := rfl
@[simp] theorem State.setCore_parts (s : State) (n : Nat) (c : Core) : (s.setCore n c).parts = s.parts := rfl
@[simp] theorem State.setCore_pkg (s : State) (n : Nat) (c : Core) : (s.setCore n c).pkg = s.pkg := rfl
@[simp] theorem State.setCore_fabric (s : State) (n : Nat) (c : Core) : (s.setCore n c).fabric = s.fabric := rfl

@[simp] theorem State.setEdge_focus (s : State) (n : Nat) (e : Fin 4) (x : EdgeSlot) : (s.setEdge n e x).focus = s.focus := rfl
@[simp] theorem State.setEdge_agenda (s : State) (n : Nat) (e : Fin 4) (x : EdgeSlot) : (s.setEdge n e x).agenda = s.agenda := rfl
@[simp] theorem State.setEdge_steps (s : State) (n : Nat) (e : Fin 4) (x : EdgeSlot) : (s.setEdge n e x).steps = s.steps := rfl
@[simp] theorem State.setEdge_now (s : State) (n : Nat) (e : Fin 4) (x : EdgeSlot) : (s.setEdge n e x).now = s.now := rfl
@[simp] theorem State.setEdge_stamp (s : State) (n : Nat) (e : Fin 4) (x : EdgeSlot) : (s.setEdge n e x).stamp = s.stamp := rfl
@[simp] theorem State.setEdge_stampFrac (s : State) (n : Nat) (e : Fin 4) (x : EdgeSlot) : (s.setEdge n e x).stampFrac = s.stampFrac := rfl
@[simp] theorem State.setEdge_nextId (s : State) (n : Nat) (e : Fin 4) (x : EdgeSlot) : (s.setEdge n e x).nextId = s.nextId := rfl
@[simp] theorem State.setEdge_frees (s : State) (n : Nat) (e : Fin 4) (x : EdgeSlot) : (s.setEdge n e x).frees = s.frees := rfl
@[simp] theorem State.setEdge_seqs (s : State) (n : Nat) (e : Fin 4) (x : EdgeSlot) : (s.setEdge n e x).seqs = s.seqs := rfl
@[simp] theorem State.setEdge_regions (s : State) (n : Nat) (e : Fin 4) (x : EdgeSlot) : (s.setEdge n e x).regions = s.regions := rfl
@[simp] theorem State.setEdge_nextRegion (s : State) (n : Nat) (e : Fin 4) (x : EdgeSlot) : (s.setEdge n e x).nextRegion = s.nextRegion := rfl
@[simp] theorem State.setEdge_mem (s : State) (n : Nat) (e : Fin 4) (x : EdgeSlot) : (s.setEdge n e x).mem = s.mem := rfl
@[simp] theorem State.setEdge_softFloor (s : State) (n : Nat) (e : Fin 4) (x : EdgeSlot) : (s.setEdge n e x).softFloor = s.softFloor := rfl
@[simp] theorem State.setEdge_badFloor (s : State) (n : Nat) (e : Fin 4) (x : EdgeSlot) : (s.setEdge n e x).badFloor = s.badFloor := rfl
@[simp] theorem State.setEdge_net (s : State) (n : Nat) (e : Fin 4) (x : EdgeSlot) : (s.setEdge n e x).net = s.net := rfl
@[simp] theorem State.setEdge_cmds (s : State) (n : Nat) (e : Fin 4) (x : EdgeSlot) : (s.setEdge n e x).cmds = s.cmds := rfl
@[simp] theorem State.setEdge_atSlice (s : State) (n : Nat) (e : Fin 4) (x : EdgeSlot) : (s.setEdge n e x).atSlice = s.atSlice := rfl
@[simp] theorem State.setEdge_withheld (s : State) (n : Nat) (e : Fin 4) (x : EdgeSlot) : (s.setEdge n e x).withheld = s.withheld := rfl
@[simp] theorem State.setEdge_poolDue (s : State) (n : Nat) (e : Fin 4) (x : EdgeSlot) : (s.setEdge n e x).poolDue = s.poolDue := rfl
@[simp] theorem State.setEdge_tlbs (s : State) (n : Nat) (e : Fin 4) (x : EdgeSlot) : (s.setEdge n e x).tlbs = s.tlbs := rfl
@[simp] theorem State.setEdge_dieTlbs (s : State) (n : Nat) (e : Fin 4) (x : EdgeSlot) : (s.setEdge n e x).dieTlbs = s.dieTlbs := rfl
@[simp] theorem State.setEdge_fecc (s : State) (n : Nat) (e : Fin 4) (x : EdgeSlot) : (s.setEdge n e x).fecc = s.fecc := rfl
@[simp] theorem State.setEdge_lretry (s : State) (n : Nat) (e : Fin 4) (x : EdgeSlot) : (s.setEdge n e x).lretry = s.lretry := rfl
@[simp] theorem State.setEdge_linkFails (s : State) (n : Nat) (e : Fin 4) (x : EdgeSlot) : (s.setEdge n e x).linkFails = s.linkFails := rfl
@[simp] theorem State.setEdge_deadLinks (s : State) (n : Nat) (e : Fin 4) (x : EdgeSlot) : (s.setEdge n e x).deadLinks = s.deadLinks := rfl
@[simp] theorem State.setEdge_probes (s : State) (n : Nat) (e : Fin 4) (x : EdgeSlot) : (s.setEdge n e x).probes = s.probes := rfl
@[simp] theorem State.setEdge_slow (s : State) (n : Nat) (e : Fin 4) (x : EdgeSlot) : (s.setEdge n e x).slow = s.slow := rfl
@[simp] theorem State.setEdge_parts (s : State) (n : Nat) (e : Fin 4) (x : EdgeSlot) : (s.setEdge n e x).parts = s.parts := rfl
@[simp] theorem State.setEdge_pkg (s : State) (n : Nat) (e : Fin 4) (x : EdgeSlot) : (s.setEdge n e x).pkg = s.pkg := rfl
@[simp] theorem State.setEdge_fabric (s : State) (n : Nat) (e : Fin 4) (x : EdgeSlot) : (s.setEdge n e x).fabric = s.fabric := rfl

@[simp] theorem State.setRegion_focus (s : State) (r : Region) : (s.setRegion r).focus = s.focus := rfl
@[simp] theorem State.setRegion_agenda (s : State) (r : Region) : (s.setRegion r).agenda = s.agenda := rfl
@[simp] theorem State.setRegion_steps (s : State) (r : Region) : (s.setRegion r).steps = s.steps := rfl
@[simp] theorem State.setRegion_now (s : State) (r : Region) : (s.setRegion r).now = s.now := rfl
@[simp] theorem State.setRegion_stamp (s : State) (r : Region) : (s.setRegion r).stamp = s.stamp := rfl
@[simp] theorem State.setRegion_stampFrac (s : State) (r : Region) : (s.setRegion r).stampFrac = s.stampFrac := rfl
@[simp] theorem State.setRegion_nextId (s : State) (r : Region) : (s.setRegion r).nextId = s.nextId := rfl
@[simp] theorem State.setRegion_frees (s : State) (r : Region) : (s.setRegion r).frees = s.frees := rfl
@[simp] theorem State.setRegion_cores (s : State) (r : Region) : (s.setRegion r).cores = s.cores := rfl
@[simp] theorem State.setRegion_seqs (s : State) (r : Region) : (s.setRegion r).seqs = s.seqs := rfl
@[simp] theorem State.setRegion_nextRegion (s : State) (r : Region) : (s.setRegion r).nextRegion = s.nextRegion := rfl
@[simp] theorem State.setRegion_mem (s : State) (r : Region) : (s.setRegion r).mem = s.mem := rfl
@[simp] theorem State.setRegion_softFloor (s : State) (r : Region) : (s.setRegion r).softFloor = s.softFloor := rfl
@[simp] theorem State.setRegion_badFloor (s : State) (r : Region) : (s.setRegion r).badFloor = s.badFloor := rfl
@[simp] theorem State.setRegion_net (s : State) (r : Region) : (s.setRegion r).net = s.net := rfl
@[simp] theorem State.setRegion_cmds (s : State) (r : Region) : (s.setRegion r).cmds = s.cmds := rfl
@[simp] theorem State.setRegion_atSlice (s : State) (r : Region) : (s.setRegion r).atSlice = s.atSlice := rfl
@[simp] theorem State.setRegion_withheld (s : State) (r : Region) : (s.setRegion r).withheld = s.withheld := rfl
@[simp] theorem State.setRegion_poolDue (s : State) (r : Region) : (s.setRegion r).poolDue = s.poolDue := rfl
@[simp] theorem State.setRegion_tlbs (s : State) (r : Region) : (s.setRegion r).tlbs = s.tlbs := rfl
@[simp] theorem State.setRegion_dieTlbs (s : State) (r : Region) : (s.setRegion r).dieTlbs = s.dieTlbs := rfl
@[simp] theorem State.setRegion_fecc (s : State) (r : Region) : (s.setRegion r).fecc = s.fecc := rfl
@[simp] theorem State.setRegion_lretry (s : State) (r : Region) : (s.setRegion r).lretry = s.lretry := rfl
@[simp] theorem State.setRegion_linkFails (s : State) (r : Region) : (s.setRegion r).linkFails = s.linkFails := rfl
@[simp] theorem State.setRegion_deadLinks (s : State) (r : Region) : (s.setRegion r).deadLinks = s.deadLinks := rfl
@[simp] theorem State.setRegion_probes (s : State) (r : Region) : (s.setRegion r).probes = s.probes := rfl
@[simp] theorem State.setRegion_slow (s : State) (r : Region) : (s.setRegion r).slow = s.slow := rfl
@[simp] theorem State.setRegion_parts (s : State) (r : Region) : (s.setRegion r).parts = s.parts := rfl
@[simp] theorem State.setRegion_pkg (s : State) (r : Region) : (s.setRegion r).pkg = s.pkg := rfl
@[simp] theorem State.setRegion_fabric (s : State) (r : Region) : (s.setRegion r).fabric = s.fabric := rfl

@[simp] theorem State.send_focus (s : State) (cls : PacketClass) (src dst : UnitId) (p : Payload) : (s.send cls src dst p).focus = s.focus := rfl
@[simp] theorem State.send_agenda (s : State) (cls : PacketClass) (src dst : UnitId) (p : Payload) : (s.send cls src dst p).agenda = s.agenda := rfl
@[simp] theorem State.send_steps (s : State) (cls : PacketClass) (src dst : UnitId) (p : Payload) : (s.send cls src dst p).steps = s.steps := rfl
@[simp] theorem State.send_now (s : State) (cls : PacketClass) (src dst : UnitId) (p : Payload) : (s.send cls src dst p).now = s.now := rfl
@[simp] theorem State.send_stamp (s : State) (cls : PacketClass) (src dst : UnitId) (p : Payload) : (s.send cls src dst p).stamp = s.stamp := rfl
@[simp] theorem State.send_stampFrac (s : State) (cls : PacketClass) (src dst : UnitId) (p : Payload) : (s.send cls src dst p).stampFrac = s.stampFrac := rfl
@[simp] theorem State.send_nextId (s : State) (cls : PacketClass) (src dst : UnitId) (p : Payload) : (s.send cls src dst p).nextId = s.nextId := rfl
@[simp] theorem State.send_frees (s : State) (cls : PacketClass) (src dst : UnitId) (p : Payload) : (s.send cls src dst p).frees = s.frees := rfl
@[simp] theorem State.send_cores (s : State) (cls : PacketClass) (src dst : UnitId) (p : Payload) : (s.send cls src dst p).cores = s.cores := rfl
@[simp] theorem State.send_seqs (s : State) (cls : PacketClass) (src dst : UnitId) (p : Payload) : (s.send cls src dst p).seqs = s.seqs := rfl
@[simp] theorem State.send_regions (s : State) (cls : PacketClass) (src dst : UnitId) (p : Payload) : (s.send cls src dst p).regions = s.regions := rfl
@[simp] theorem State.send_nextRegion (s : State) (cls : PacketClass) (src dst : UnitId) (p : Payload) : (s.send cls src dst p).nextRegion = s.nextRegion := rfl
@[simp] theorem State.send_mem (s : State) (cls : PacketClass) (src dst : UnitId) (p : Payload) : (s.send cls src dst p).mem = s.mem := rfl
@[simp] theorem State.send_softFloor (s : State) (cls : PacketClass) (src dst : UnitId) (p : Payload) : (s.send cls src dst p).softFloor = s.softFloor := rfl
@[simp] theorem State.send_badFloor (s : State) (cls : PacketClass) (src dst : UnitId) (p : Payload) : (s.send cls src dst p).badFloor = s.badFloor := rfl
@[simp] theorem State.send_cmds (s : State) (cls : PacketClass) (src dst : UnitId) (p : Payload) : (s.send cls src dst p).cmds = s.cmds := rfl
@[simp] theorem State.send_atSlice (s : State) (cls : PacketClass) (src dst : UnitId) (p : Payload) : (s.send cls src dst p).atSlice = s.atSlice := rfl
@[simp] theorem State.send_withheld (s : State) (cls : PacketClass) (src dst : UnitId) (p : Payload) : (s.send cls src dst p).withheld = s.withheld := rfl
@[simp] theorem State.send_poolDue (s : State) (cls : PacketClass) (src dst : UnitId) (p : Payload) : (s.send cls src dst p).poolDue = s.poolDue := rfl
@[simp] theorem State.send_tlbs (s : State) (cls : PacketClass) (src dst : UnitId) (p : Payload) : (s.send cls src dst p).tlbs = s.tlbs := rfl
@[simp] theorem State.send_dieTlbs (s : State) (cls : PacketClass) (src dst : UnitId) (p : Payload) : (s.send cls src dst p).dieTlbs = s.dieTlbs := rfl
@[simp] theorem State.send_fecc (s : State) (cls : PacketClass) (src dst : UnitId) (p : Payload) : (s.send cls src dst p).fecc = s.fecc := rfl
@[simp] theorem State.send_lretry (s : State) (cls : PacketClass) (src dst : UnitId) (p : Payload) : (s.send cls src dst p).lretry = s.lretry := rfl
@[simp] theorem State.send_linkFails (s : State) (cls : PacketClass) (src dst : UnitId) (p : Payload) : (s.send cls src dst p).linkFails = s.linkFails := rfl
@[simp] theorem State.send_deadLinks (s : State) (cls : PacketClass) (src dst : UnitId) (p : Payload) : (s.send cls src dst p).deadLinks = s.deadLinks := rfl
@[simp] theorem State.send_probes (s : State) (cls : PacketClass) (src dst : UnitId) (p : Payload) : (s.send cls src dst p).probes = s.probes := rfl
@[simp] theorem State.send_slow (s : State) (cls : PacketClass) (src dst : UnitId) (p : Payload) : (s.send cls src dst p).slow = s.slow := rfl
@[simp] theorem State.send_parts (s : State) (cls : PacketClass) (src dst : UnitId) (p : Payload) : (s.send cls src dst p).parts = s.parts := rfl
@[simp] theorem State.send_pkg (s : State) (cls : PacketClass) (src dst : UnitId) (p : Payload) : (s.send cls src dst p).pkg = s.pkg := rfl
@[simp] theorem State.send_fabric (s : State) (cls : PacketClass) (src dst : UnitId) (p : Payload) : (s.send cls src dst p).fabric = s.fabric := rfl

@[simp] theorem State.reply_focus (s : State) (src : UnitId) (q id : Nat) (vals : List Word) (b : Bool) : (s.reply src q id vals b).focus = s.focus := rfl
@[simp] theorem State.reply_agenda (s : State) (src : UnitId) (q id : Nat) (vals : List Word) (b : Bool) : (s.reply src q id vals b).agenda = s.agenda := rfl
@[simp] theorem State.reply_steps (s : State) (src : UnitId) (q id : Nat) (vals : List Word) (b : Bool) : (s.reply src q id vals b).steps = s.steps := rfl
@[simp] theorem State.reply_now (s : State) (src : UnitId) (q id : Nat) (vals : List Word) (b : Bool) : (s.reply src q id vals b).now = s.now := rfl
@[simp] theorem State.reply_stamp (s : State) (src : UnitId) (q id : Nat) (vals : List Word) (b : Bool) : (s.reply src q id vals b).stamp = s.stamp := rfl
@[simp] theorem State.reply_stampFrac (s : State) (src : UnitId) (q id : Nat) (vals : List Word) (b : Bool) : (s.reply src q id vals b).stampFrac = s.stampFrac := rfl
@[simp] theorem State.reply_nextId (s : State) (src : UnitId) (q id : Nat) (vals : List Word) (b : Bool) : (s.reply src q id vals b).nextId = s.nextId := rfl
@[simp] theorem State.reply_frees (s : State) (src : UnitId) (q id : Nat) (vals : List Word) (b : Bool) : (s.reply src q id vals b).frees = s.frees := rfl
@[simp] theorem State.reply_cores (s : State) (src : UnitId) (q id : Nat) (vals : List Word) (b : Bool) : (s.reply src q id vals b).cores = s.cores := rfl
@[simp] theorem State.reply_seqs (s : State) (src : UnitId) (q id : Nat) (vals : List Word) (b : Bool) : (s.reply src q id vals b).seqs = s.seqs := rfl
@[simp] theorem State.reply_regions (s : State) (src : UnitId) (q id : Nat) (vals : List Word) (b : Bool) : (s.reply src q id vals b).regions = s.regions := rfl
@[simp] theorem State.reply_nextRegion (s : State) (src : UnitId) (q id : Nat) (vals : List Word) (b : Bool) : (s.reply src q id vals b).nextRegion = s.nextRegion := rfl
@[simp] theorem State.reply_mem (s : State) (src : UnitId) (q id : Nat) (vals : List Word) (b : Bool) : (s.reply src q id vals b).mem = s.mem := rfl
@[simp] theorem State.reply_softFloor (s : State) (src : UnitId) (q id : Nat) (vals : List Word) (b : Bool) : (s.reply src q id vals b).softFloor = s.softFloor := rfl
@[simp] theorem State.reply_badFloor (s : State) (src : UnitId) (q id : Nat) (vals : List Word) (b : Bool) : (s.reply src q id vals b).badFloor = s.badFloor := rfl
@[simp] theorem State.reply_cmds (s : State) (src : UnitId) (q id : Nat) (vals : List Word) (b : Bool) : (s.reply src q id vals b).cmds = s.cmds := rfl
@[simp] theorem State.reply_atSlice (s : State) (src : UnitId) (q id : Nat) (vals : List Word) (b : Bool) : (s.reply src q id vals b).atSlice = s.atSlice := rfl
@[simp] theorem State.reply_withheld (s : State) (src : UnitId) (q id : Nat) (vals : List Word) (b : Bool) : (s.reply src q id vals b).withheld = s.withheld := rfl
@[simp] theorem State.reply_poolDue (s : State) (src : UnitId) (q id : Nat) (vals : List Word) (b : Bool) : (s.reply src q id vals b).poolDue = s.poolDue := rfl
@[simp] theorem State.reply_tlbs (s : State) (src : UnitId) (q id : Nat) (vals : List Word) (b : Bool) : (s.reply src q id vals b).tlbs = s.tlbs := rfl
@[simp] theorem State.reply_dieTlbs (s : State) (src : UnitId) (q id : Nat) (vals : List Word) (b : Bool) : (s.reply src q id vals b).dieTlbs = s.dieTlbs := rfl
@[simp] theorem State.reply_fecc (s : State) (src : UnitId) (q id : Nat) (vals : List Word) (b : Bool) : (s.reply src q id vals b).fecc = s.fecc := rfl
@[simp] theorem State.reply_lretry (s : State) (src : UnitId) (q id : Nat) (vals : List Word) (b : Bool) : (s.reply src q id vals b).lretry = s.lretry := rfl
@[simp] theorem State.reply_linkFails (s : State) (src : UnitId) (q id : Nat) (vals : List Word) (b : Bool) : (s.reply src q id vals b).linkFails = s.linkFails := rfl
@[simp] theorem State.reply_deadLinks (s : State) (src : UnitId) (q id : Nat) (vals : List Word) (b : Bool) : (s.reply src q id vals b).deadLinks = s.deadLinks := rfl
@[simp] theorem State.reply_probes (s : State) (src : UnitId) (q id : Nat) (vals : List Word) (b : Bool) : (s.reply src q id vals b).probes = s.probes := rfl
@[simp] theorem State.reply_slow (s : State) (src : UnitId) (q id : Nat) (vals : List Word) (b : Bool) : (s.reply src q id vals b).slow = s.slow := rfl
@[simp] theorem State.reply_parts (s : State) (src : UnitId) (q id : Nat) (vals : List Word) (b : Bool) : (s.reply src q id vals b).parts = s.parts := rfl
@[simp] theorem State.reply_pkg (s : State) (src : UnitId) (q id : Nat) (vals : List Word) (b : Bool) : (s.reply src q id vals b).pkg = s.pkg := rfl
@[simp] theorem State.reply_fabric (s : State) (src : UnitId) (q id : Nat) (vals : List Word) (b : Bool) : (s.reply src q id vals b).fabric = s.fabric := rfl

@[simp] theorem State.writeByte_focus (s : State) (pa : Nat) (b : Byte) : (s.writeByte pa b).focus = s.focus := rfl
@[simp] theorem State.writeByte_agenda (s : State) (pa : Nat) (b : Byte) : (s.writeByte pa b).agenda = s.agenda := rfl
@[simp] theorem State.writeByte_steps (s : State) (pa : Nat) (b : Byte) : (s.writeByte pa b).steps = s.steps := rfl
@[simp] theorem State.writeByte_now (s : State) (pa : Nat) (b : Byte) : (s.writeByte pa b).now = s.now := rfl
@[simp] theorem State.writeByte_stamp (s : State) (pa : Nat) (b : Byte) : (s.writeByte pa b).stamp = s.stamp := rfl
@[simp] theorem State.writeByte_stampFrac (s : State) (pa : Nat) (b : Byte) : (s.writeByte pa b).stampFrac = s.stampFrac := rfl
@[simp] theorem State.writeByte_nextId (s : State) (pa : Nat) (b : Byte) : (s.writeByte pa b).nextId = s.nextId := rfl
@[simp] theorem State.writeByte_frees (s : State) (pa : Nat) (b : Byte) : (s.writeByte pa b).frees = s.frees := rfl
@[simp] theorem State.writeByte_cores (s : State) (pa : Nat) (b : Byte) : (s.writeByte pa b).cores = s.cores := rfl
@[simp] theorem State.writeByte_seqs (s : State) (pa : Nat) (b : Byte) : (s.writeByte pa b).seqs = s.seqs := rfl
@[simp] theorem State.writeByte_regions (s : State) (pa : Nat) (b : Byte) : (s.writeByte pa b).regions = s.regions := rfl
@[simp] theorem State.writeByte_nextRegion (s : State) (pa : Nat) (b : Byte) : (s.writeByte pa b).nextRegion = s.nextRegion := rfl
@[simp] theorem State.writeByte_softFloor (s : State) (pa : Nat) (b : Byte) : (s.writeByte pa b).softFloor = s.softFloor := rfl
@[simp] theorem State.writeByte_badFloor (s : State) (pa : Nat) (b : Byte) : (s.writeByte pa b).badFloor = s.badFloor := rfl
@[simp] theorem State.writeByte_net (s : State) (pa : Nat) (b : Byte) : (s.writeByte pa b).net = s.net := rfl
@[simp] theorem State.writeByte_cmds (s : State) (pa : Nat) (b : Byte) : (s.writeByte pa b).cmds = s.cmds := rfl
@[simp] theorem State.writeByte_atSlice (s : State) (pa : Nat) (b : Byte) : (s.writeByte pa b).atSlice = s.atSlice := rfl
@[simp] theorem State.writeByte_withheld (s : State) (pa : Nat) (b : Byte) : (s.writeByte pa b).withheld = s.withheld := rfl
@[simp] theorem State.writeByte_poolDue (s : State) (pa : Nat) (b : Byte) : (s.writeByte pa b).poolDue = s.poolDue := rfl
@[simp] theorem State.writeByte_tlbs (s : State) (pa : Nat) (b : Byte) : (s.writeByte pa b).tlbs = s.tlbs := rfl
@[simp] theorem State.writeByte_dieTlbs (s : State) (pa : Nat) (b : Byte) : (s.writeByte pa b).dieTlbs = s.dieTlbs := rfl
@[simp] theorem State.writeByte_fecc (s : State) (pa : Nat) (b : Byte) : (s.writeByte pa b).fecc = s.fecc := rfl
@[simp] theorem State.writeByte_lretry (s : State) (pa : Nat) (b : Byte) : (s.writeByte pa b).lretry = s.lretry := rfl
@[simp] theorem State.writeByte_linkFails (s : State) (pa : Nat) (b : Byte) : (s.writeByte pa b).linkFails = s.linkFails := rfl
@[simp] theorem State.writeByte_deadLinks (s : State) (pa : Nat) (b : Byte) : (s.writeByte pa b).deadLinks = s.deadLinks := rfl
@[simp] theorem State.writeByte_probes (s : State) (pa : Nat) (b : Byte) : (s.writeByte pa b).probes = s.probes := rfl
@[simp] theorem State.writeByte_slow (s : State) (pa : Nat) (b : Byte) : (s.writeByte pa b).slow = s.slow := rfl
@[simp] theorem State.writeByte_parts (s : State) (pa : Nat) (b : Byte) : (s.writeByte pa b).parts = s.parts := rfl
@[simp] theorem State.writeByte_pkg (s : State) (pa : Nat) (b : Byte) : (s.writeByte pa b).pkg = s.pkg := rfl
@[simp] theorem State.writeByte_fabric (s : State) (pa : Nat) (b : Byte) : (s.writeByte pa b).fabric = s.fabric := rfl

@[simp] theorem State.repairFloor_focus (s : State) (pa n : Nat) : (s.repairFloor pa n).focus = s.focus := rfl
@[simp] theorem State.repairFloor_agenda (s : State) (pa n : Nat) : (s.repairFloor pa n).agenda = s.agenda := rfl
@[simp] theorem State.repairFloor_steps (s : State) (pa n : Nat) : (s.repairFloor pa n).steps = s.steps := rfl
@[simp] theorem State.repairFloor_now (s : State) (pa n : Nat) : (s.repairFloor pa n).now = s.now := rfl
@[simp] theorem State.repairFloor_stamp (s : State) (pa n : Nat) : (s.repairFloor pa n).stamp = s.stamp := rfl
@[simp] theorem State.repairFloor_stampFrac (s : State) (pa n : Nat) : (s.repairFloor pa n).stampFrac = s.stampFrac := rfl
@[simp] theorem State.repairFloor_nextId (s : State) (pa n : Nat) : (s.repairFloor pa n).nextId = s.nextId := rfl
@[simp] theorem State.repairFloor_frees (s : State) (pa n : Nat) : (s.repairFloor pa n).frees = s.frees := rfl
@[simp] theorem State.repairFloor_cores (s : State) (pa n : Nat) : (s.repairFloor pa n).cores = s.cores := rfl
@[simp] theorem State.repairFloor_seqs (s : State) (pa n : Nat) : (s.repairFloor pa n).seqs = s.seqs := rfl
@[simp] theorem State.repairFloor_regions (s : State) (pa n : Nat) : (s.repairFloor pa n).regions = s.regions := rfl
@[simp] theorem State.repairFloor_nextRegion (s : State) (pa n : Nat) : (s.repairFloor pa n).nextRegion = s.nextRegion := rfl
@[simp] theorem State.repairFloor_mem (s : State) (pa n : Nat) : (s.repairFloor pa n).mem = s.mem := rfl
@[simp] theorem State.repairFloor_net (s : State) (pa n : Nat) : (s.repairFloor pa n).net = s.net := rfl
@[simp] theorem State.repairFloor_cmds (s : State) (pa n : Nat) : (s.repairFloor pa n).cmds = s.cmds := rfl
@[simp] theorem State.repairFloor_atSlice (s : State) (pa n : Nat) : (s.repairFloor pa n).atSlice = s.atSlice := rfl
@[simp] theorem State.repairFloor_withheld (s : State) (pa n : Nat) : (s.repairFloor pa n).withheld = s.withheld := rfl
@[simp] theorem State.repairFloor_poolDue (s : State) (pa n : Nat) : (s.repairFloor pa n).poolDue = s.poolDue := rfl
@[simp] theorem State.repairFloor_tlbs (s : State) (pa n : Nat) : (s.repairFloor pa n).tlbs = s.tlbs := rfl
@[simp] theorem State.repairFloor_dieTlbs (s : State) (pa n : Nat) : (s.repairFloor pa n).dieTlbs = s.dieTlbs := rfl
@[simp] theorem State.repairFloor_fecc (s : State) (pa n : Nat) : (s.repairFloor pa n).fecc = s.fecc := rfl
@[simp] theorem State.repairFloor_lretry (s : State) (pa n : Nat) : (s.repairFloor pa n).lretry = s.lretry := rfl
@[simp] theorem State.repairFloor_linkFails (s : State) (pa n : Nat) : (s.repairFloor pa n).linkFails = s.linkFails := rfl
@[simp] theorem State.repairFloor_deadLinks (s : State) (pa n : Nat) : (s.repairFloor pa n).deadLinks = s.deadLinks := rfl
@[simp] theorem State.repairFloor_probes (s : State) (pa n : Nat) : (s.repairFloor pa n).probes = s.probes := rfl
@[simp] theorem State.repairFloor_slow (s : State) (pa n : Nat) : (s.repairFloor pa n).slow = s.slow := rfl
@[simp] theorem State.repairFloor_parts (s : State) (pa n : Nat) : (s.repairFloor pa n).parts = s.parts := rfl
@[simp] theorem State.repairFloor_pkg (s : State) (pa n : Nat) : (s.repairFloor pa n).pkg = s.pkg := rfl
@[simp] theorem State.repairFloor_fabric (s : State) (pa n : Nat) : (s.repairFloor pa n).fabric = s.fabric := rfl

@[simp] theorem State.elapse_focus (s : State) (dt : Nat) : (s.elapse dt).focus = s.focus := rfl
@[simp] theorem State.elapse_agenda (s : State) (dt : Nat) : (s.elapse dt).agenda = s.agenda := rfl
@[simp] theorem State.elapse_steps (s : State) (dt : Nat) : (s.elapse dt).steps = s.steps := rfl
@[simp] theorem State.elapse_nextId (s : State) (dt : Nat) : (s.elapse dt).nextId = s.nextId := rfl
@[simp] theorem State.elapse_frees (s : State) (dt : Nat) : (s.elapse dt).frees = s.frees := rfl
@[simp] theorem State.elapse_cores (s : State) (dt : Nat) : (s.elapse dt).cores = s.cores := rfl
@[simp] theorem State.elapse_seqs (s : State) (dt : Nat) : (s.elapse dt).seqs = s.seqs := rfl
@[simp] theorem State.elapse_regions (s : State) (dt : Nat) : (s.elapse dt).regions = s.regions := rfl
@[simp] theorem State.elapse_nextRegion (s : State) (dt : Nat) : (s.elapse dt).nextRegion = s.nextRegion := rfl
@[simp] theorem State.elapse_mem (s : State) (dt : Nat) : (s.elapse dt).mem = s.mem := rfl
@[simp] theorem State.elapse_softFloor (s : State) (dt : Nat) : (s.elapse dt).softFloor = s.softFloor := rfl
@[simp] theorem State.elapse_badFloor (s : State) (dt : Nat) : (s.elapse dt).badFloor = s.badFloor := rfl
@[simp] theorem State.elapse_net (s : State) (dt : Nat) : (s.elapse dt).net = s.net := rfl
@[simp] theorem State.elapse_cmds (s : State) (dt : Nat) : (s.elapse dt).cmds = s.cmds := rfl
@[simp] theorem State.elapse_atSlice (s : State) (dt : Nat) : (s.elapse dt).atSlice = s.atSlice := rfl
@[simp] theorem State.elapse_withheld (s : State) (dt : Nat) : (s.elapse dt).withheld = s.withheld := rfl
@[simp] theorem State.elapse_poolDue (s : State) (dt : Nat) : (s.elapse dt).poolDue = s.poolDue := rfl
@[simp] theorem State.elapse_tlbs (s : State) (dt : Nat) : (s.elapse dt).tlbs = s.tlbs := rfl
@[simp] theorem State.elapse_dieTlbs (s : State) (dt : Nat) : (s.elapse dt).dieTlbs = s.dieTlbs := rfl
@[simp] theorem State.elapse_fecc (s : State) (dt : Nat) : (s.elapse dt).fecc = s.fecc := rfl
@[simp] theorem State.elapse_lretry (s : State) (dt : Nat) : (s.elapse dt).lretry = s.lretry := rfl
@[simp] theorem State.elapse_linkFails (s : State) (dt : Nat) : (s.elapse dt).linkFails = s.linkFails := rfl
@[simp] theorem State.elapse_deadLinks (s : State) (dt : Nat) : (s.elapse dt).deadLinks = s.deadLinks := rfl
@[simp] theorem State.elapse_probes (s : State) (dt : Nat) : (s.elapse dt).probes = s.probes := rfl
@[simp] theorem State.elapse_slow (s : State) (dt : Nat) : (s.elapse dt).slow = s.slow := rfl
@[simp] theorem State.elapse_parts (s : State) (dt : Nat) : (s.elapse dt).parts = s.parts := rfl
@[simp] theorem State.elapse_pkg (s : State) (dt : Nat) : (s.elapse dt).pkg = s.pkg := rfl
@[simp] theorem State.elapse_fabric (s : State) (dt : Nat) : (s.elapse dt).fabric = s.fabric := rfl

@[simp] theorem State.fresh_focus (s : State) : s.fresh.2.focus = s.focus := rfl
@[simp] theorem State.fresh_agenda (s : State) : s.fresh.2.agenda = s.agenda := rfl
@[simp] theorem State.fresh_steps (s : State) : s.fresh.2.steps = s.steps := rfl
@[simp] theorem State.fresh_now (s : State) : s.fresh.2.now = s.now := rfl
@[simp] theorem State.fresh_stamp (s : State) : s.fresh.2.stamp = s.stamp := rfl
@[simp] theorem State.fresh_stampFrac (s : State) : s.fresh.2.stampFrac = s.stampFrac := rfl
@[simp] theorem State.fresh_frees (s : State) : s.fresh.2.frees = s.frees := rfl
@[simp] theorem State.fresh_cores (s : State) : s.fresh.2.cores = s.cores := rfl
@[simp] theorem State.fresh_seqs (s : State) : s.fresh.2.seqs = s.seqs := rfl
@[simp] theorem State.fresh_regions (s : State) : s.fresh.2.regions = s.regions := rfl
@[simp] theorem State.fresh_nextRegion (s : State) : s.fresh.2.nextRegion = s.nextRegion := rfl
@[simp] theorem State.fresh_mem (s : State) : s.fresh.2.mem = s.mem := rfl
@[simp] theorem State.fresh_softFloor (s : State) : s.fresh.2.softFloor = s.softFloor := rfl
@[simp] theorem State.fresh_badFloor (s : State) : s.fresh.2.badFloor = s.badFloor := rfl
@[simp] theorem State.fresh_net (s : State) : s.fresh.2.net = s.net := rfl
@[simp] theorem State.fresh_cmds (s : State) : s.fresh.2.cmds = s.cmds := rfl
@[simp] theorem State.fresh_atSlice (s : State) : s.fresh.2.atSlice = s.atSlice := rfl
@[simp] theorem State.fresh_withheld (s : State) : s.fresh.2.withheld = s.withheld := rfl
@[simp] theorem State.fresh_poolDue (s : State) : s.fresh.2.poolDue = s.poolDue := rfl
@[simp] theorem State.fresh_tlbs (s : State) : s.fresh.2.tlbs = s.tlbs := rfl
@[simp] theorem State.fresh_dieTlbs (s : State) : s.fresh.2.dieTlbs = s.dieTlbs := rfl
@[simp] theorem State.fresh_fecc (s : State) : s.fresh.2.fecc = s.fecc := rfl
@[simp] theorem State.fresh_lretry (s : State) : s.fresh.2.lretry = s.lretry := rfl
@[simp] theorem State.fresh_linkFails (s : State) : s.fresh.2.linkFails = s.linkFails := rfl
@[simp] theorem State.fresh_deadLinks (s : State) : s.fresh.2.deadLinks = s.deadLinks := rfl
@[simp] theorem State.fresh_probes (s : State) : s.fresh.2.probes = s.probes := rfl
@[simp] theorem State.fresh_slow (s : State) : s.fresh.2.slow = s.slow := rfl
@[simp] theorem State.fresh_parts (s : State) : s.fresh.2.parts = s.parts := rfl
@[simp] theorem State.fresh_pkg (s : State) : s.fresh.2.pkg = s.pkg := rfl
@[simp] theorem State.fresh_fabric (s : State) : s.fresh.2.fabric = s.fabric := rfl
@[simp] theorem State.fresh_nextId (s : State) : s.fresh.2.nextId = s.nextId + 1 := rfl
@[simp] theorem State.fresh_fst (s : State) : s.fresh.1 = s.nextId := rfl

@[simp] theorem State.freeWord_focus (s : State) : s.freeWord.2.focus = s.focus := rfl
@[simp] theorem State.freeWord_agenda (s : State) : s.freeWord.2.agenda = s.agenda := rfl
@[simp] theorem State.freeWord_steps (s : State) : s.freeWord.2.steps = s.steps := rfl
@[simp] theorem State.freeWord_now (s : State) : s.freeWord.2.now = s.now := rfl
@[simp] theorem State.freeWord_stamp (s : State) : s.freeWord.2.stamp = s.stamp := rfl
@[simp] theorem State.freeWord_stampFrac (s : State) : s.freeWord.2.stampFrac = s.stampFrac := rfl
@[simp] theorem State.freeWord_nextId (s : State) : s.freeWord.2.nextId = s.nextId := rfl
@[simp] theorem State.freeWord_cores (s : State) : s.freeWord.2.cores = s.cores := rfl
@[simp] theorem State.freeWord_seqs (s : State) : s.freeWord.2.seqs = s.seqs := rfl
@[simp] theorem State.freeWord_regions (s : State) : s.freeWord.2.regions = s.regions := rfl
@[simp] theorem State.freeWord_nextRegion (s : State) : s.freeWord.2.nextRegion = s.nextRegion := rfl
@[simp] theorem State.freeWord_mem (s : State) : s.freeWord.2.mem = s.mem := rfl
@[simp] theorem State.freeWord_softFloor (s : State) : s.freeWord.2.softFloor = s.softFloor := rfl
@[simp] theorem State.freeWord_badFloor (s : State) : s.freeWord.2.badFloor = s.badFloor := rfl
@[simp] theorem State.freeWord_net (s : State) : s.freeWord.2.net = s.net := rfl
@[simp] theorem State.freeWord_cmds (s : State) : s.freeWord.2.cmds = s.cmds := rfl
@[simp] theorem State.freeWord_atSlice (s : State) : s.freeWord.2.atSlice = s.atSlice := rfl
@[simp] theorem State.freeWord_withheld (s : State) : s.freeWord.2.withheld = s.withheld := rfl
@[simp] theorem State.freeWord_poolDue (s : State) : s.freeWord.2.poolDue = s.poolDue := rfl
@[simp] theorem State.freeWord_tlbs (s : State) : s.freeWord.2.tlbs = s.tlbs := rfl
@[simp] theorem State.freeWord_dieTlbs (s : State) : s.freeWord.2.dieTlbs = s.dieTlbs := rfl
@[simp] theorem State.freeWord_fecc (s : State) : s.freeWord.2.fecc = s.fecc := rfl
@[simp] theorem State.freeWord_lretry (s : State) : s.freeWord.2.lretry = s.lretry := rfl
@[simp] theorem State.freeWord_linkFails (s : State) : s.freeWord.2.linkFails = s.linkFails := rfl
@[simp] theorem State.freeWord_deadLinks (s : State) : s.freeWord.2.deadLinks = s.deadLinks := rfl
@[simp] theorem State.freeWord_probes (s : State) : s.freeWord.2.probes = s.probes := rfl
@[simp] theorem State.freeWord_slow (s : State) : s.freeWord.2.slow = s.slow := rfl
@[simp] theorem State.freeWord_parts (s : State) : s.freeWord.2.parts = s.parts := rfl
@[simp] theorem State.freeWord_pkg (s : State) : s.freeWord.2.pkg = s.pkg := rfl
@[simp] theorem State.freeWord_fabric (s : State) : s.freeWord.2.fabric = s.fabric := rfl
@[simp] theorem State.freeWord_frees (s : State) : s.freeWord.2.frees = s.frees + 1 := rfl

/-! ## Reading after an update -/

@[simp] theorem State.seq_setSeq (s : State) (q : Nat) (v : Seq) : (s.setSeq q v).seq q = v := by simp [State.seq, State.setSeq]
theorem State.seq_setSeq_other (s : State) {q i : Nat} (v : Seq) (h : i ≠ q) : (s.setSeq q v).seq i = s.seq i := by
  simp [State.seq, State.setSeq, sparseGet_put_other _ _ _ h]
@[simp] theorem State.core_setCore (s : State) (n : Nat) (c : Core) : (s.setCore n c).core n = c := by simp [State.core, State.setCore]
theorem State.core_setCore_other (s : State) {n i : Nat} (c : Core) (h : i ≠ n) : (s.setCore n c).core i = s.core i := by
  simp [State.core, State.setCore, sparseGet_put_other _ _ _ h]
@[simp] theorem State.setSeq_setSeq (s : State) (q : Nat) (v w : Seq) : (s.setSeq q v).setSeq q w = s.setSeq q w := by simp [State.setSeq]
@[simp] theorem State.setCore_setCore (s : State) (n : Nat) (c d : Core) : (s.setCore n c).setCore n d = s.setCore n d := by simp [State.setCore]
@[simp] theorem State.core_setSeq (s : State) (q : Nat) (v : Seq) (n : Nat) : (s.setSeq q v).core n = s.core n := rfl
@[simp] theorem State.seq_setCore (s : State) (n : Nat) (c : Core) (q : Nat) : (s.setCore n c).seq q = s.seq q := rfl
@[simp] theorem State.core_send (s : State) (k : PacketClass) (a b : UnitId) (p : Payload) (n : Nat) : (s.send k a b p).core n = s.core n := rfl
@[simp] theorem State.seq_send (s : State) (k : PacketClass) (a b : UnitId) (p : Payload) (q : Nat) : (s.send k a b p).seq q = s.seq q := rfl
@[simp] theorem State.send_net (s : State) (k : PacketClass) (a b : UnitId) (p : Payload) : (s.send k a b p).net = s.net ++ [⟨k, a, b, p⟩] := rfl
@[simp] theorem State.edgeSlot_setEdge (s : State) (n : Nat) (e : Fin 4) (x : EdgeSlot) : (s.setEdge n e x).edgeSlot n e = x := by
  simp [State.edgeSlot, State.setEdge]
theorem State.core_setEdge_other (s : State) {n i : Nat} (e : Fin 4) (x : EdgeSlot) (h : i ≠ n) : (s.setEdge n e x).core i = s.core i := by
  simp [State.setEdge, State.core_setCore_other _ _ h]

/-! ## The floor -/

@[simp] theorem State.readByte_writeByte (s : State) (a : Nat) (b : Byte) : (s.writeByte a b).readByte a = b := by
  simp [State.readByte, State.writeByte]
theorem State.readByte_writeByte_other (s : State) {a i : Nat} (b : Byte) (h : i ≠ a) : (s.writeByte a b).readByte i = s.readByte i := by
  simp [State.readByte, State.writeByte, sparseGet_set_other _ _ _ h]

/-- A store of one byte keeps the canonical form of the floor. -/
theorem Memory.wf_writeByte (s : State) (a : Nat) (b : Byte) (h : Memory.wf s.mem = true) : Memory.wf (s.writeByte a b).mem = true :=
  sparseSet_canonical b h

/-- A store of some bytes keeps the canonical form of the floor. -/
theorem Memory.wf_writeBytes (s : State) (a : Nat) (l : List Byte) (h : Memory.wf s.mem = true) : Memory.wf (s.writeBytes a l).mem = true := by
  induction l generalizing s a with
  | nil => exact h
  | cons b bs ih => exact ih _ _ (Memory.wf_writeByte s a b h)

theorem Memory.wf_writeLE (s : State) (a n v : Nat) (h : Memory.wf s.mem = true) : Memory.wf (s.writeLE a n v).mem = true :=
  Memory.wf_writeBytes s a _ h

/-- A byte outside some stored bytes reads as before. -/
theorem State.readByte_writeBytes_other (s : State) (a : Nat) (l : List Byte) {i : Nat} (h : i < a ∨ a + l.length ≤ i) :
    (s.writeBytes a l).readByte i = s.readByte i := by
  induction l generalizing s a with
  | nil => rfl
  | cons b bs ih =>
    simp only [List.length_cons] at h
    rw [State.writeBytes, ih _ _ (by omega), State.readByte_writeByte_other _ _ (by omega)]

/-- A byte inside some stored bytes reads as stored. -/
theorem State.readByte_writeBytes (s : State) (a : Nat) (l : List Byte) (k : Nat) (h : k < l.length) :
    (s.writeBytes a l).readByte (a + k) = l[k] := by
  induction l generalizing s a k with
  | nil => simp at h
  | cons b bs ih =>
    cases k with
    | zero =>
      simp only [Nat.add_zero, List.getElem_cons_zero, State.writeBytes]
      rw [State.readByte_writeBytes_other _ _ _ (by omega), State.readByte_writeByte]
    | succ k =>
      have e : a + (k + 1) = (a + 1) + k := by omega
      simp only [List.length_cons] at h
      rw [State.writeBytes, e, ih _ _ _ (by omega), List.getElem_cons_succ]

/-- Storing bytes changes nothing of the state but the floor. -/
theorem State.writeBytes_frame (s : State) (a : Nat) (l : List Byte) : s.writeBytes a l = { s with mem := (s.writeBytes a l).mem } := by
  induction l generalizing s a with
  | nil => rfl
  | cons b bs ih => rw [State.writeBytes, ih]; rfl

/-! ## Registers of a sequencer (R173) -/

@[simp] theorem readReg_zero (v : Vector Word 32) : readReg v 0 = 0 := rfl
@[simp] theorem writeReg_zero (v : Vector Word 32) (x : Word) : writeReg v 0 x = v := rfl
theorem readReg_writeReg (v : Vector Word 32) (r : Reg) (x : Word) (h : r ≠ 0) : readReg (writeReg v r x) r = x := by
  unfold readReg writeReg
  rw [if_neg h, if_neg h]
  simp
theorem readReg_writeReg_other (v : Vector Word 32) {r i : Reg} (x : Word) (h : i ≠ r) : readReg (writeReg v r x) i = readReg v i := by
  unfold readReg writeReg
  split
  · rfl
  · split
    · rfl
    · have h' : ¬ r.toNat = i.toNat := fun e => h (BitVec.eq_of_toNat_eq e.symm)
      simp [h']

end Sys2Proof.Machine
end

