-- ==== Sys2Proof/Laws/Words.lean ====
section
/-! SUPPORT. What issuing a word of a block can do (08 R180 to R187): the three ends of a word, and a word with issue effects only. -/

namespace Sys2Proof.Machine

/-- A word whose block stands at its sequencer runs its body once and ends as the body says. -/
theorem State.runWord_next {s : State} {q : Nat} {b : Block} (hf : s.focus = .seq q) (hb : (s.seq q).blk = some b)
    (body : State → WordCtx → WordRes × State) :
    s.runWord body = .next ((body s ⟨q, s.seq q, b⟩).2.endWord q b (body s ⟨q, s.seq q, b⟩).1) := by
  simp [State.runWord, hf, hb]

/-- A word without a block in issue does nothing. -/
theorem State.runWord_no_block {s : State} {q : Nat} (hf : s.focus = .seq q) (hb : (s.seq q).blk = none)
    (body : State → WordCtx → WordRes × State) : s.runWord body = .next s := by
  simp [State.runWord, hf, hb]

/-- Every word answers a next state: it is that of the move as it stands, or of one run of its body. -/
theorem State.runWord_cases (s : State) (body : State → WordCtx → WordRes × State) :
    s.runWord body = .next s
      ∨ ∃ q b, s.focus = .seq q ∧ (s.seq q).blk = some b
          ∧ s.runWord body = .next ((body s ⟨q, s.seq q, b⟩).2.endWord q b (body s ⟨q, s.seq q, b⟩).1) := by
  cases hf : s.focus with
  | seq q =>
    cases hb : (s.seq q).blk with
    | none => exact .inl (State.runWord_no_block hf hb body)
    | some b => exact .inr ⟨q, b, rfl, hb, State.runWord_next hf hb body⟩
  | _ => exact .inl (by simp [State.runWord, hf])

/-- A word that issues leaves its block one word further, and no other sequencer changed. -/
theorem State.endWord_issue (s : State) (q : Nat) (old b : Block) :
    s.endWord q old (.issue b) = s.setSeq q { s.seq q with blk := some { b with idx := old.idx + 1, waiting := false } } := rfl

/-- A word that has sent something and is not done yet stays at the head of its block. -/
theorem State.endWord_hold (s : State) (q : Nat) (old b : Block) :
    s.endWord q old (.hold b) = s.setSeq q { s.seq q with blk := some b } := rfl

/-- A word that waits leaves its block where it was. -/
theorem State.endWord_wait (s : State) (q : Nat) (old : Block) :
    s.endWord q old .wait = s.setSeq q { s.seq q with blk := some { old with waiting := true } } := rfl

/-- A word that traps where no handler runs enters the handler (R187). -/
theorem State.endWord_trap {s : State} {q : Nat} {b : Block} (old : Block) (cause : Nat) (addr : Word) (hb : (s.seq q).blk = some b)
    (h : (s.seq q).tl = false) :
    s.endWord q old (.trap cause addr) = s.setSeq q ((s.seq q).enterTrap ((s.seq q).pc.setWidth 64) cause b.idx 0 addr) := by
  simp [State.endWord, State.trapWord, State.takeTrap, h, hb]

/-- The end of a word leaves the floor as it was. -/
theorem State.endWord_mem (s : State) (q : Nat) (old : Block) (r : WordRes) : (s.endWord q old r).mem = s.mem := by
  cases r with
  | issue b => rfl
  | hold b => rfl
  | wait => rfl
  | trap c a =>
    simp only [State.endWord, State.trapWord, State.takeTrap]
    split
    · simp only [State.reportDouble]
      split
      · rfl
      · split <;> rfl
    · rfl

/-- The end of a word leaves every other sequencer as it was. -/
theorem State.endWord_seq_other (s : State) {q p : Nat} (old : Block) (r : WordRes) (h : p ≠ q) : (s.endWord q old r).seq p = s.seq p := by
  cases r with
  | issue b => exact State.seq_setSeq_other _ _ h
  | hold b => exact State.seq_setSeq_other _ _ h
  | wait => exact State.seq_setSeq_other _ _ h
  | trap c a =>
    simp only [State.endWord, State.trapWord, State.takeTrap]
    split
    · have k := State.seq_setSeq_other s (s.seq q).stopDouble h
      simp only [State.reportDouble]
      split
      · exact k
      · split <;> exact k
    · exact State.seq_setSeq_other _ _ h

/-- Registers that no reply is still to write are awaited by no word. -/
theorem WordCtx.awaits_eq_false {x : WordCtx} {rs : List Reg}
    (h : ∀ r ∈ rs, r = 0 ∨ r ∈ x.b.written ∨ ∀ a ∈ x.v.awaits, r ∉ a.regs) : x.awaits rs = false := by
  simp only [WordCtx.awaits, List.any_eq_false]
  intro r hr
  rcases h r hr with rfl | h | h
  · simp
  · simp [h]
  · simp only [Bool.and_eq_true, not_and, List.any_eq_true, not_exists]
    intro _ a ha
    simpa using h a ha

/-- A word with issue effects only, whose registers are there: its block goes on with what the word does to it. -/
theorem State.plainWord_issues {s : State} {q : Nat} {b : Block} (hf : s.focus = .seq q) (hb : (s.seq q).blk = some b) {reads : List Reg}
    (ha : WordCtx.awaits ⟨q, s.seq q, b⟩ reads = false) (mbz : Bool) (f : WordCtx → Block) :
    s.plainWord reads mbz f =
      .next (s.setSeq q { s.seq q with
        blk := some { (f ⟨q, s.seq q, b⟩).warn (WordCtx.crd ⟨q, s.seq q, b⟩ reads ||| warnIf mbz swMBZ) with idx := b.idx + 1, waiting := false } }) := by
  simp [State.plainWord, State.runWord_next hf hb, ha, State.endWord]

/-- A word with issue effects only, that waits for a register, changes nothing but the mark that it waits. -/
theorem State.plainWord_waits {s : State} {q : Nat} {b : Block} (hf : s.focus = .seq q) (hb : (s.seq q).blk = some b) {reads : List Reg}
    (ha : WordCtx.awaits ⟨q, s.seq q, b⟩ reads = true) (mbz : Bool) (f : WordCtx → Block) :
    s.plainWord reads mbz f = .next (s.setSeq q { s.seq q with blk := some { b with waiting := true } }) := by
  simp [State.plainWord, State.runWord_next hf hb, ha, State.endWord]

/-- A write of register 0 leaves the working registers as they were (R173). -/
theorem Block.write_zero (b : Block) (x : Word) : (b.write 0 x).regs = b.regs := rfl

/-- Taking a trap where no handler runs changes the sequencer and nothing else (R187). -/
theorem State.takeTrap_enters (s : State) (q : Nat) (epc : Word) (cause idx code : Nat) (addr : Word) (h : (s.seq q).tl = false) :
    s.takeTrap q epc cause idx code addr = s.setSeq q ((s.seq q).enterTrap epc cause idx code addr) := by
  simp [State.takeTrap, h]

/-- Return from a trap handler undoes what entry did to the pc and the trap level, when EPC is left alone (R186, R187). -/
theorem Seq.exitTrap_enterTrap (v : Seq) (cause idx code : Nat) (addr : Word) :
    (v.enterTrap (v.pc.setWidth 64) cause idx code addr).exitTrap.pc = v.pc
      ∧ (v.enterTrap (v.pc.setWidth 64) cause idx code addr).exitTrap.tl = false :=
  ⟨by simp [Seq.enterTrap, Seq.exitTrap], rfl⟩

end Sys2Proof.Machine
end

