-- ==== Sys2Proof/Laws/Commands.lean ====
section
/-! SUPPORT. What a command word can do (09 R217 to R221): it issues at its sequencer, or is applied at its unit and finishes there. -/

namespace Sys2Proof.Machine

/-- At its unit, a command is applied. -/
theorem State.commandWord_applies {s : State} {k : Nat} {c : Cmd} (hf : s.focus = .cmd k) (hc : s.cmds[k]? = some c)
    (issue : State → WordCtx → WordRes × State) (apply : State → Nat → Cmd → State) : s.commandWord issue apply = .next (apply s k c) := by
  simp [State.commandWord, hf, hc]

/-- At its sequencer, a command word issues as every word does. -/
theorem State.commandWord_issues {s : State} {q : Nat} (hf : s.focus = .seq q) (issue : State → WordCtx → WordRes × State)
    (apply : State → Nat → Cmd → State) : s.commandWord issue apply = s.runWord issue := by
  simp [State.commandWord, hf]

/-- A command that has been applied is gone, its item is no longer outstanding, and its values are on their way to its sequencer. -/
theorem State.finishCmd_eq {s : State} {k : Nat} {c : Cmd} (h : s.cmds[k]? = some c) (vals : List Word) :
    s.finishCmd k vals =
      let t : State := { s with cmds := dropNth s.cmds k }.dropReaders (· == Reader.cmd c.id)
      let t := t.setSeq c.seq ((t.seq c.seq).dropItem c.id)
      if vals.isEmpty then t else t.reply c.unit c.seq c.id vals := by
  simp only [State.finishCmd, h]

/-- Finishing a command leaves the floor, the cores, the regions, the package and the fabric as they were. -/
theorem State.finishCmd_frame (s : State) (k : Nat) (vals : List Word) :
    (s.finishCmd k vals).mem = s.mem ∧ (s.finishCmd k vals).cores = s.cores ∧ (s.finishCmd k vals).regions = s.regions
      ∧ (s.finishCmd k vals).pkg = s.pkg ∧ (s.finishCmd k vals).fabric = s.fabric := by
  simp only [State.finishCmd]
  split
  · exact ⟨rfl, rfl, rfl, rfl, rfl⟩
  · split <;> exact ⟨rfl, rfl, rfl, rfl, rfl⟩

/-- Sending a command takes one identity and changes nothing else of the state. -/
theorem sendCmd_state (s : State) (x : WordCtx) (unit : UnitId) (i : Instr) (a b d : Word) (regs : List Reg) (warn : Word) :
    (sendCmd s x unit i a b d regs warn).2 = { s with nextId := s.nextId + 1 } := rfl

/-- The unit of a command marks that it has begun. -/
theorem State.beginCmd_eq (s : State) (k : Nat) (c : Cmd) : s.beginCmd k c = { s with cmds := setNth s.cmds k { c with begun := true } } := rfl

end Sys2Proof.Machine
end

