-- ==== Sys2Proof/Laws/PerInstr.lean ====
section
/-! SUPPORT. What holds of every instruction, one lemma for each constructor. -/

namespace Sys2Proof.Laws.OneKind

/-- A stage word of a handler record is no sequencer word: the two encodings (R43, R178) belong to different instructions, and an event has neither. -/
def Statement (i : Instr) : Prop := (stageOpcode i).isSome = true → encodeSeq i = none

theorem firingIssue (core : Nat) : Statement (.firingIssue core) := fun h => nomatch h
theorem firingComplete (core : Nat) : Statement (.firingComplete core) := fun h => nomatch h
theorem stageNop (op : StageNopOp) (f : StageFields) : Statement (.stageNop op f) := fun _ => rfl
theorem stageStop (f : StageFields) : Statement (.stageStop f) := fun _ => rfl
theorem stageMov (f : StageFields) : Statement (.stageMov f) := fun _ => rfl
theorem stageSel (f : StageFields) : Statement (.stageSel f) := fun _ => rfl
theorem iadd (f : StageFields) : Statement (.iadd f) := fun _ => rfl
theorem isub (f : StageFields) : Statement (.isub f) := fun _ => rfl
theorem imul (f : StageFields) : Statement (.imul f) := fun _ => rfl
theorem imad (f : StageFields) : Statement (.imad f) := fun _ => rfl
theorem iand (f : StageFields) : Statement (.iand f) := fun _ => rfl
theorem ior (f : StageFields) : Statement (.ior f) := fun _ => rfl
theorem ixor (f : StageFields) : Statement (.ixor f) := fun _ => rfl
theorem iandn (f : StageFields) : Statement (.iandn f) := fun _ => rfl
theorem ishl (f : StageFields) : Statement (.ishl f) := fun _ => rfl
theorem ishr (f : StageFields) : Statement (.ishr f) := fun _ => rfl
theorem isra (f : StageFields) : Statement (.isra f) := fun _ => rfl
theorem icmp (f : StageFields) : Statement (.icmp f) := fun _ => rfl
theorem imin (f : StageFields) : Statement (.imin f) := fun _ => rfl
theorem imax (f : StageFields) : Statement (.imax f) := fun _ => rfl
theorem ipopc (f : StageFields) : Statement (.ipopc f) := fun _ => rfl
theorem iclz (f : StageFields) : Statement (.iclz f) := fun _ => rfl
theorem fadd (f : StageFields) : Statement (.fadd f) := fun _ => rfl
theorem fsub (f : StageFields) : Statement (.fsub f) := fun _ => rfl
theorem fmul (f : StageFields) : Statement (.fmul f) := fun _ => rfl
theorem fma (f : StageFields) : Statement (.fma f) := fun _ => rfl
theorem fms (f : StageFields) : Statement (.fms f) := fun _ => rfl
theorem fmax (f : StageFields) : Statement (.fmax f) := fun _ => rfl
theorem fmin (f : StageFields) : Statement (.fmin f) := fun _ => rfl
theorem fabs (f : StageFields) : Statement (.fabs f) := fun _ => rfl
theorem fneg (f : StageFields) : Statement (.fneg f) := fun _ => rfl
theorem fcmp (f : StageFields) : Statement (.fcmp f) := fun _ => rfl
theorem fclass (f : StageFields) : Statement (.fclass f) := fun _ => rfl
theorem frnd (f : StageFields) : Statement (.frnd f) := fun _ => rfl
theorem frcp (f : StageFields) : Statement (.frcp f) := fun _ => rfl
theorem frsq (f : StageFields) : Statement (.frsq f) := fun _ => rfl
theorem fexp2 (f : StageFields) : Statement (.fexp2 f) := fun _ => rfl
theorem flog2 (f : StageFields) : Statement (.flog2 f) := fun _ => rfl
theorem fscale (f : StageFields) : Statement (.fscale f) := fun _ => rfl
theorem cvtFi (f : StageFields) : Statement (.cvtFi f) := fun _ => rfl
theorem cvtIf (f : StageFields) : Statement (.cvtIf f) := fun _ => rfl
theorem acc (f : StageFields) : Statement (.acc f) := fun _ => rfl
theorem fmab (f : StageFields) : Statement (.fmab f) := fun _ => rfl
theorem dot (f : StageFields) : Statement (.dot f) := fun _ => rfl
theorem rmax (f : StageFields) : Statement (.rmax f) := fun _ => rfl
theorem rmin (f : StageFields) : Statement (.rmin f) := fun _ => rfl
theorem ramax (f : StageFields) : Statement (.ramax f) := fun _ => rfl
theorem steer (f : StageFields) : Statement (.steer f) := fun _ => rfl
theorem merge (f : StageFields) : Statement (.merge f) := fun _ => rfl
theorem join (f : StageFields) : Statement (.join f) := fun _ => rfl
theorem cmpx (f : StageFields) : Statement (.cmpx f) := fun _ => rfl
theorem cpr (f : StageFields) : Statement (.cpr f) := fun _ => rfl
theorem stageMark (f : StageFields) : Statement (.stageMark f) := fun _ => rfl
theorem strip (f : StageFields) : Statement (.strip f) := fun _ => rfl
theorem gate (f : StageFields) : Statement (.gate f) := fun _ => rfl
theorem cnt (f : StageFields) : Statement (.cnt f) := fun _ => rfl
theorem bcast (f : StageFields) : Statement (.bcast f) := fun _ => rfl
theorem shuf (f : StageFields) : Statement (.shuf f) := fun _ => rfl
theorem pack (f : StageFields) : Statement (.pack f) := fun _ => rfl
theorem unpack (f : StageFields) : Statement (.unpack f) := fun _ => rfl
theorem wupd (f : StageFields) : Statement (.wupd f) := fun _ => rfl
theorem wfill (f : StageFields) : Statement (.wfill f) := fun _ => rfl
theorem shrink (f : StageFields) : Statement (.shrink f) := fun _ => rfl
theorem wcnt (f : StageFields) : Statement (.wcnt f) := fun _ => rfl
theorem routerForward (core : Nat) (sel : BitVec 4) (link : BitVec 4) : Statement (.routerForward core sel link) := fun h => nomatch h
theorem linkFill (core : Nat) (sel : BitVec 4) (link : BitVec 4) : Statement (.linkFill core sel link) := fun h => nomatch h
theorem storeSoftError (core : Nat) (addr : Nat) (uncorrectable : Bool) : Statement (.storeSoftError core addr uncorrectable) := fun h => nomatch h
theorem coreWindowCommandApply (core : Nat) (seq : Nat) : Statement (.coreWindowCommandApply core seq) := fun h => nomatch h
theorem hmsetWrite (core : Nat) (seq : Nat) : Statement (.hmsetWrite core seq) := fun h => nomatch h
theorem hmclrWrite (core : Nat) (seq : Nat) : Statement (.hmclrWrite core seq) := fun h => nomatch h
theorem loopGuardWrite (core : Nat) (seq : Nat) : Statement (.loopGuardWrite core seq) := fun h => nomatch h
theorem coreRegisterWrite (core : Nat) (seq : Nat) : Statement (.coreRegisterWrite core seq) := fun h => nomatch h
theorem linkReplay (link : LinkId) : Statement (.linkReplay link) := fun h => nomatch h
theorem uncorrectableLinkError (link : LinkId) : Statement (.uncorrectableLinkError link) := fun h => nomatch h
theorem echoProbeSend (core : Nat) : Statement (.echoProbeSend core) := fun h => nomatch h
theorem echoProbeHop (probe : Nat) : Statement (.echoProbeHop probe) := fun h => nomatch h
theorem edgeLoadBeat (core : Nat) (slot : Fin 4) : Statement (.edgeLoadBeat core slot) := fun h => nomatch h
theorem edgeStoreElement (core : Nat) (slot : Fin 4) : Statement (.edgeStoreElement core slot) := fun h => nomatch h
theorem quantisingStoreBlock (core : Nat) (slot : Fin 4) : Statement (.quantisingStoreBlock core slot) := fun h => nomatch h
theorem indexTokenTake (core : Nat) (slot : Fin 4) : Statement (.indexTokenTake core slot) := fun h => nomatch h
theorem permitTake (core : Nat) (slot : Fin 4) : Statement (.permitTake core slot) := fun h => nomatch h
theorem acquireTake (core : Nat) (slot : Fin 4) : Statement (.acquireTake core slot) := fun h => nomatch h
theorem completionToken (core : Nat) (slot : Fin 4) : Statement (.completionToken core slot) := fun h => nomatch h
theorem translationToken (core : Nat) (slot : Fin 4) : Statement (.translationToken core slot) := fun h => nomatch h
theorem eraseElement (core : Nat) (slot : Fin 4) : Statement (.eraseElement core slot) := fun h => nomatch h
theorem edgeRetry (core : Nat) (slot : Fin 4) : Statement (.edgeRetry core slot) := fun h => nomatch h
theorem withholdLimit (core : Nat) (slot : Fin 4) : Statement (.withholdLimit core slot) := fun h => nomatch h
theorem checkpointSave (region : Nat) (grotto : Nat) : Statement (.checkpointSave region grotto) := fun h => nomatch h
theorem thaw (region : Nat) : Statement (.thaw region) := fun h => nomatch h
theorem blockIssue (seq : Nat) : Statement (.blockIssue seq) := fun h => nomatch h
theorem blockCommit (seq : Nat) : Statement (.blockCommit seq) := fun h => nomatch h
theorem asyncTrapTake (seq : Nat) : Statement (.asyncTrapTake seq) := fun h => nomatch h
theorem replyResult (seq : Nat) (index : Nat) : Statement (.replyResult seq index) := fun h => nomatch h
theorem wfeWake (seq : Nat) : Statement (.wfeWake seq) := fun h => nomatch h
theorem yieldExpiry (seq : Nat) : Statement (.yieldExpiry seq) := fun h => nomatch h
theorem seqWindowFill (seq : Nat) (index : Nat) : Statement (.seqWindowFill seq index) := fun h => nomatch h
theorem eventRecordDeliver (seq : Nat) : Statement (.eventRecordDeliver seq) := fun h => nomatch h
theorem stealApply (seq : Nat) (index : Nat) : Statement (.stealApply seq index) := fun h => nomatch h
theorem seqNop (kind : SeqNopKind) (x : Bool) (g : Pred) : Statement (.seqNop kind x g) := fun h => nomatch h
theorem halt (x : Bool) (g : Pred) : Statement (.halt x g) := fun h => nomatch h
theorem wfe (x : Bool) (g : Pred) : Statement (.wfe x g) := fun h => nomatch h
theorem yield (x : Bool) (g : Pred) : Statement (.yield x g) := fun h => nomatch h
theorem ret (a : Reg) (x : Bool) (g : Pred) : Statement (.ret a x g) := fun h => nomatch h
theorem eret (x : Bool) (g : Pred) : Statement (.eret x g) := fun h => nomatch h
theorem trap (code : BitVec 15) (x : Bool) (g : Pred) : Statement (.trap code x g) := fun h => nomatch h
theorem exitr (a : Reg) (x : Bool) (g : Pred) : Statement (.exitr a x g) := fun h => nomatch h
theorem exitWord (off : BitVec 23) (g : Pred) : Statement (.exitWord off g) := fun h => nomatch h
theorem call (d : Reg) (imm : BitVec 18) (g : Pred) : Statement (.call d imm g) := fun h => nomatch h
theorem add (d : Reg) (a : Reg) (b : Reg) (x : Bool) (g : Pred) : Statement (.add d a b x g) := fun h => nomatch h
theorem sub (d : Reg) (a : Reg) (b : Reg) (x : Bool) (g : Pred) : Statement (.sub d a b x g) := fun h => nomatch h
theorem mul (d : Reg) (a : Reg) (b : Reg) (x : Bool) (g : Pred) : Statement (.mul d a b x g) := fun h => nomatch h
theorem mulh (d : Reg) (a : Reg) (b : Reg) (x : Bool) (g : Pred) : Statement (.mulh d a b x g) := fun h => nomatch h
theorem mulhu (d : Reg) (a : Reg) (b : Reg) (x : Bool) (g : Pred) : Statement (.mulhu d a b x g) := fun h => nomatch h
theorem div (d : Reg) (a : Reg) (b : Reg) (x : Bool) (g : Pred) : Statement (.div d a b x g) := fun h => nomatch h
theorem divu (d : Reg) (a : Reg) (b : Reg) (x : Bool) (g : Pred) : Statement (.divu d a b x g) := fun h => nomatch h
theorem rem (d : Reg) (a : Reg) (b : Reg) (x : Bool) (g : Pred) : Statement (.rem d a b x g) := fun h => nomatch h
theorem remu (d : Reg) (a : Reg) (b : Reg) (x : Bool) (g : Pred) : Statement (.remu d a b x g) := fun h => nomatch h
theorem andW (d : Reg) (a : Reg) (b : Reg) (x : Bool) (g : Pred) : Statement (.andW d a b x g) := fun h => nomatch h
theorem orW (d : Reg) (a : Reg) (b : Reg) (x : Bool) (g : Pred) : Statement (.orW d a b x g) := fun h => nomatch h
theorem xorW (d : Reg) (a : Reg) (b : Reg) (x : Bool) (g : Pred) : Statement (.xorW d a b x g) := fun h => nomatch h
theorem shl (d : Reg) (a : Reg) (b : Reg) (x : Bool) (g : Pred) : Statement (.shl d a b x g) := fun h => nomatch h
theorem shr (d : Reg) (a : Reg) (b : Reg) (x : Bool) (g : Pred) : Statement (.shr d a b x g) := fun h => nomatch h
theorem sra (d : Reg) (a : Reg) (b : Reg) (x : Bool) (g : Pred) : Statement (.sra d a b x g) := fun h => nomatch h
theorem minW (d : Reg) (a : Reg) (b : Reg) (x : Bool) (g : Pred) : Statement (.minW d a b x g) := fun h => nomatch h
theorem maxW (d : Reg) (a : Reg) (b : Reg) (x : Bool) (g : Pred) : Statement (.maxW d a b x g) := fun h => nomatch h
theorem minu (d : Reg) (a : Reg) (b : Reg) (x : Bool) (g : Pred) : Statement (.minu d a b x g) := fun h => nomatch h
theorem maxu (d : Reg) (a : Reg) (b : Reg) (x : Bool) (g : Pred) : Statement (.maxu d a b x g) := fun h => nomatch h
theorem clz (d : Reg) (a : Reg) (b : Reg) (x : Bool) (g : Pred) : Statement (.clz d a b x g) := fun h => nomatch h
theorem ctz (d : Reg) (a : Reg) (b : Reg) (x : Bool) (g : Pred) : Statement (.ctz d a b x g) := fun h => nomatch h
theorem popc (d : Reg) (a : Reg) (b : Reg) (x : Bool) (g : Pred) : Statement (.popc d a b x g) := fun h => nomatch h
theorem seqSel (d : Reg) (a : Reg) (b : Reg) (p : Pred) (g : Pred) : Statement (.seqSel d a b p g) := fun h => nomatch h
theorem addi (d : Reg) (a : Reg) (imm : BitVec 13) (g : Pred) : Statement (.addi d a imm g) := fun h => nomatch h
theorem andi (d : Reg) (a : Reg) (imm : BitVec 13) (g : Pred) : Statement (.andi d a imm g) := fun h => nomatch h
theorem ori (d : Reg) (a : Reg) (imm : BitVec 13) (g : Pred) : Statement (.ori d a imm g) := fun h => nomatch h
theorem xori (d : Reg) (a : Reg) (imm : BitVec 13) (g : Pred) : Statement (.xori d a imm g) := fun h => nomatch h
theorem shli (d : Reg) (a : Reg) (imm : BitVec 6) (x : Bool) (g : Pred) : Statement (.shli d a imm x g) := fun h => nomatch h
theorem shri (d : Reg) (a : Reg) (imm : BitVec 6) (x : Bool) (g : Pred) : Statement (.shri d a imm x g) := fun h => nomatch h
theorem srai (d : Reg) (a : Reg) (imm : BitVec 6) (x : Bool) (g : Pred) : Statement (.srai d a imm x g) := fun h => nomatch h
theorem li (d : Reg) (imm : BitVec 18) (g : Pred) : Statement (.li d imm g) := fun h => nomatch h
theorem lui (d : Reg) (h : BitVec 2) (imm : BitVec 16) (g : Pred) : Statement (.lui d h imm g) := fun h => nomatch h
theorem lea (d : Reg) (imm : BitVec 18) (g : Pred) : Statement (.lea d imm g) := fun h => nomatch h
theorem cmp (p : Pred) (a : Reg) (b : Reg) (cond : BitVec 3) (x : Bool) (g : Pred) : Statement (.cmp p a b cond x g) := fun h => nomatch h
theorem pand (p : Pred) (a : Pred) (b : Pred) (x : Bool) (g : Pred) : Statement (.pand p a b x g) := fun h => nomatch h
theorem por (p : Pred) (a : Pred) (b : Pred) (x : Bool) (g : Pred) : Statement (.por p a b x g) := fun h => nomatch h
theorem pnot (p : Pred) (a : Pred) (x : Bool) (g : Pred) : Statement (.pnot p a x g) := fun h => nomatch h
theorem widGet (d : Reg) (a : Reg) (f : BitVec 3) (x : Bool) (g : Pred) : Statement (.widGet d a f x g) := fun h => nomatch h
theorem widSet (d : Reg) (a : Reg) (f : BitVec 3) (x : Bool) (g : Pred) : Statement (.widSet d a f x g) := fun h => nomatch h
theorem ld (d : Reg) (a : Reg) (w : BitVec 2) (u : BitVec 1) (off : BitVec 10) (g : Pred) : Statement (.ld d a w u off g) := fun h => nomatch h
theorem st (d : Reg) (a : Reg) (w : BitVec 2) (u : BitVec 1) (off : BitVec 10) (g : Pred) : Statement (.st d a w u off g) := fun h => nomatch h
theorem ldx (d : Reg) (a : Reg) (w : BitVec 2) (u : BitVec 1) (p : Pred) (off : BitVec 7) (g : Pred) : Statement (.ldx d a w u p off g) := fun h => nomatch h
theorem verase (a : Reg) (x : Bool) (g : Pred) : Statement (.verase a x g) := fun h => nomatch h
theorem amoAdd (d : Reg) (a : Reg) (b : Reg) (f : AmoFields) (x : Bool) (g : Pred) : Statement (.amoAdd d a b f x g) := fun h => nomatch h
theorem amoAnd (d : Reg) (a : Reg) (b : Reg) (f : AmoFields) (x : Bool) (g : Pred) : Statement (.amoAnd d a b f x g) := fun h => nomatch h
theorem amoOr (d : Reg) (a : Reg) (b : Reg) (f : AmoFields) (x : Bool) (g : Pred) : Statement (.amoOr d a b f x g) := fun h => nomatch h
theorem amoXor (d : Reg) (a : Reg) (b : Reg) (f : AmoFields) (x : Bool) (g : Pred) : Statement (.amoXor d a b f x g) := fun h => nomatch h
theorem amoMin (d : Reg) (a : Reg) (b : Reg) (f : AmoFields) (x : Bool) (g : Pred) : Statement (.amoMin d a b f x g) := fun h => nomatch h
theorem amoMax (d : Reg) (a : Reg) (b : Reg) (f : AmoFields) (x : Bool) (g : Pred) : Statement (.amoMax d a b f x g) := fun h => nomatch h
theorem amoMinu (d : Reg) (a : Reg) (b : Reg) (f : AmoFields) (x : Bool) (g : Pred) : Statement (.amoMinu d a b f x g) := fun h => nomatch h
theorem amoMaxu (d : Reg) (a : Reg) (b : Reg) (f : AmoFields) (x : Bool) (g : Pred) : Statement (.amoMaxu d a b f x g) := fun h => nomatch h
theorem amoSwap (d : Reg) (a : Reg) (b : Reg) (f : AmoFields) (x : Bool) (g : Pred) : Statement (.amoSwap d a b f x g) := fun h => nomatch h
theorem cas (d : Reg) (a : Reg) (b : Reg) (f : AmoFields) (x : Bool) (g : Pred) : Statement (.cas d a b f x g) := fun h => nomatch h
theorem fence (scope : BitVec 4) (x : Bool) (g : Pred) : Statement (.fence scope x g) := fun h => nomatch h
theorem publish (d : Reg) (a : Reg) (scope : BitVec 4) (x : Bool) (g : Pred) : Statement (.publish d a scope x g) := fun h => nomatch h
theorem wrdLocal (d : Reg) (imm : BitVec 12) (m : BitVec 3) (g : Pred) : Statement (.wrdLocal d imm m g) := fun h => nomatch h
theorem wflLocal (d : Reg) (imm : BitVec 12) (m : BitVec 3) (g : Pred) : Statement (.wflLocal d imm m g) := fun h => nomatch h
theorem wshrLocal (imm : BitVec 12) (m : BitVec 3) (x : Bool) (g : Pred) : Statement (.wshrLocal imm m x g) := fun h => nomatch h
theorem wstLocal (d : Reg) (imm : BitVec 12) (m : BitVec 3) (g : Pred) : Statement (.wstLocal d imm m g) := fun h => nomatch h
theorem wrdCore (d : Reg) (a : Reg) (b : Reg) (x : Bool) (g : Pred) : Statement (.wrdCore d a b x g) := fun h => nomatch h
theorem wflCore (d : Reg) (a : Reg) (b : Reg) (x : Bool) (g : Pred) : Statement (.wflCore d a b x g) := fun h => nomatch h
theorem wshrCore (d : Reg) (a : Reg) (b : Reg) (x : Bool) (g : Pred) : Statement (.wshrCore d a b x g) := fun h => nomatch h
theorem wstCore (d : Reg) (a : Reg) (b : Reg) (x : Bool) (g : Pred) : Statement (.wstCore d a b x g) := fun h => nomatch h
theorem sbind (d : Reg) (a : Reg) (t : BitVec 9) (slot : BitVec 2) (g : Pred) : Statement (.sbind d a t slot g) := fun h => nomatch h
theorem sgo (d : Reg) (a : Reg) (t : BitVec 9) (slot : BitVec 2) (g : Pred) : Statement (.sgo d a t slot g) := fun h => nomatch h
theorem sstop (d : Reg) (a : Reg) (t : BitVec 9) (slot : BitVec 2) (g : Pred) : Statement (.sstop d a t slot g) := fun h => nomatch h
theorem sbar (d : Reg) (a : Reg) (t : BitVec 9) (slot : BitVec 2) (g : Pred) : Statement (.sbar d a t slot g) := fun h => nomatch h
theorem cfgLoad (d : Reg) (a : Reg) (x : Bool) (g : Pred) : Statement (.cfgLoad d a x g) := fun h => nomatch h
theorem cfgShadow (d : Reg) (a : Reg) (x : Bool) (g : Pred) : Statement (.cfgShadow d a x g) := fun h => nomatch h
theorem cfgSwap (d : Reg) (a : Reg) (x : Bool) (g : Pred) : Statement (.cfgSwap d a x g) := fun h => nomatch h
theorem cfgDrain (d : Reg) (a : Reg) (x : Bool) (g : Pred) : Statement (.cfgDrain d a x g) := fun h => nomatch h
theorem cfgPhase (d : Reg) (a : Reg) (x : Bool) (g : Pred) : Statement (.cfgPhase d a x g) := fun h => nomatch h
theorem cfgSig (d : Reg) (a : Reg) (x : Bool) (g : Pred) : Statement (.cfgSig d a x g) := fun h => nomatch h
theorem swapPlace (core : Nat) (win : Fin 16) : Statement (.swapPlace core win) := fun h => nomatch h
theorem flip (core : Nat) : Statement (.flip core) := fun h => nomatch h
theorem swapPortSend (core : Nat) (port : Fin 4) : Statement (.swapPortSend core port) := fun h => nomatch h
theorem stillnessReport (region : Nat) : Statement (.stillnessReport region) := fun h => nomatch h
theorem drainComplete (region : Nat) : Statement (.drainComplete region) := fun h => nomatch h
theorem taskFill (a : Reg) (b : Reg) (m : BitVec 3) (x : Bool) (g : Pred) : Statement (.taskFill a b m x g) := fun h => nomatch h
theorem taskTake (d : Reg) (a : Reg) (b : Reg) (m : BitVec 3) (x : Bool) (g : Pred) : Statement (.taskTake d a b m x g) := fun h => nomatch h
theorem taskSteal (d : Reg) (a : Reg) (b : Reg) (m : BitVec 3) (x : Bool) (g : Pred) : Statement (.taskSteal d a b m x g) := fun h => nomatch h
theorem taskDone (d : Reg) (a : Reg) (b : Reg) (m : BitVec 3) (x : Bool) (g : Pred) : Statement (.taskDone d a b m x g) := fun h => nomatch h
theorem launch (d : Reg) (a : Reg) (b : Reg) (m : BitVec 3) (x : Bool) (g : Pred) : Statement (.launch d a b m x g) := fun h => nomatch h
theorem xlat (d : Reg) (a : Reg) (scope : BitVec 4) (all : BitVec 1) (x : Bool) (g : Pred) : Statement (.xlat d a scope all x g) := fun h => nomatch h
theorem tlbinv (d : Reg) (a : Reg) (scope : BitVec 4) (all : BitVec 1) (x : Bool) (g : Pred) : Statement (.tlbinv d a scope all x g) := fun h => nomatch h
theorem relatch (d : Reg) (a : Reg) (scope : BitVec 4) (all : BitVec 1) (x : Bool) (g : Pred) : Statement (.relatch d a scope all x g) := fun h => nomatch h
theorem relatchToken (core : Nat) (index : Nat) : Statement (.relatchToken core index) := fun h => nomatch h
theorem lantReq (d : Reg) (a : Reg) (x : Bool) (g : Pred) : Statement (.lantReq d a x g) := fun h => nomatch h
theorem lantRel (d : Reg) (a : Reg) (x : Bool) (g : Pred) : Statement (.lantRel d a x g) := fun h => nomatch h
theorem netWrite (d : Reg) (a : Reg) (b : Reg) (x : Bool) (g : Pred) : Statement (.netWrite d a b x g) := fun h => nomatch h
theorem netRead (d : Reg) (a : Reg) (b : Reg) (x : Bool) (g : Pred) : Statement (.netRead d a b x g) := fun h => nomatch h
theorem netSend (d : Reg) (a : Reg) (b : Reg) (x : Bool) (g : Pred) : Statement (.netSend d a b x g) := fun h => nomatch h
theorem netStat (d : Reg) (a : Reg) (b : Reg) (x : Bool) (g : Pred) : Statement (.netStat d a b x g) := fun h => nomatch h
theorem netBind (d : Reg) (a : Reg) (b : Reg) (x : Bool) (g : Pred) : Statement (.netBind d a b x g) := fun h => nomatch h
theorem csrr (d : Reg) (a : Reg) (csr : BitVec 10) (g : Pred) : Statement (.csrr d a csr g) := fun h => nomatch h
theorem csrw (a : Reg) (csr : BitVec 10) (x : Bool) (g : Pred) : Statement (.csrw a csr x g) := fun h => nomatch h
theorem time (d : Reg) (x : Bool) (g : Pred) : Statement (.time d x g) := fun h => nomatch h
theorem regionEnd (region : Nat) : Statement (.regionEnd region) := fun h => nomatch h
theorem regionFreeze (region : Nat) : Statement (.regionFreeze region) := fun h => nomatch h
theorem regionRestore (region : Nat) : Statement (.regionRestore region) := fun h => nomatch h
theorem diePacketDeliver (index : Nat) : Statement (.diePacketDeliver index) := fun h => nomatch h
theorem sliceApply (index : Nat) : Statement (.sliceApply index) := fun h => nomatch h
theorem pageWalkComplete (cluster : Nat) (ctx : Nat) (va : BitVec 56) : Statement (.pageWalkComplete cluster ctx va) := fun h => nomatch h
theorem vugHomeApply (index : Nat) : Statement (.vugHomeApply index) := fun h => nomatch h
theorem poolChange (descriptor : Nat) : Statement (.poolChange descriptor) := fun h => nomatch h
theorem arbitrationRound (die : Fin 16) : Statement (.arbitrationRound die) := fun h => nomatch h
theorem dispatchCopy : Statement (.dispatchCopy) := fun h => nomatch h
theorem packetCompletion (index : Nat) : Statement (.packetCompletion index) := fun h => nomatch h
theorem packageEvent (index : Nat) : Statement (.packageEvent index) := fun h => nomatch h
theorem queueAppend (queue : Nat) (packet : Vector Word 8) (whole : Bool) : Statement (.queueAppend queue packet whole) := fun h => nomatch h
theorem completionHeadWrite (window : Nat) (value : Word) : Statement (.completionHeadWrite window value) := fun h => nomatch h
theorem feataWrite (high : Bool) (value : Word) : Statement (.feataWrite high value) := fun h => nomatch h
theorem hostRegisterWrite (offset : Nat) (value : Word) : Statement (.hostRegisterWrite offset value) := fun h => nomatch h
theorem dieRegisterWrite (die : Fin 16) (seq : Nat) : Statement (.dieRegisterWrite die seq) := fun h => nomatch h
theorem setBypassLimit (start : Word) : Statement (.setBypassLimit start) := fun h => nomatch h
theorem ctxCreate : Statement (.ctxCreate) := fun h => nomatch h
theorem ctxDestroy : Statement (.ctxDestroy) := fun h => nomatch h
theorem qCreate : Statement (.qCreate) := fun h => nomatch h
theorem qDestroy : Statement (.qDestroy) := fun h => nomatch h
theorem cancel : Statement (.cancel) := fun h => nomatch h
theorem preempt : Statement (.preempt) := fun h => nomatch h
theorem restore : Statement (.restore) := fun h => nomatch h
theorem quote : Statement (.quote) := fun h => nomatch h
theorem mailboxUnknown : Statement (.mailboxUnknown) := fun h => nomatch h
theorem clockStep (up : Bool) : Statement (.clockStep up) := fun h => nomatch h
theorem bandwidthDegraded (on : Bool) : Statement (.bandwidthDegraded on) := fun h => nomatch h
theorem bringUp (fail : BitVec 4) : Statement (.bringUp fail) := fun h => nomatch h
theorem ucieRetrain (ok : Bool) : Statement (.ucieRetrain ok) := fun h => nomatch h
theorem messagePacketPlace (packet : NetPacket) : Statement (.messagePacketPlace packet) := fun h => nomatch h
theorem netReadServe (handle : Nat) (msg : Nat) (addr : Nat) (span : ReadSpan) : Statement (.netReadServe handle msg addr span) := fun h => nomatch h
theorem remoteCompletion (handle : Nat) (msg : Nat) : Statement (.remoteCompletion handle msg) := fun h => nomatch h
theorem localCompletion (index : Nat) (answer : Nat) : Statement (.localCompletion index answer) := fun h => nomatch h
theorem packetRetransmit (index : Nat) (packet : Nat) : Statement (.packetRetransmit index packet) := fun h => nomatch h
theorem ackReceive (handle : Nat) (ack : NetAck) : Statement (.ackReceive handle ack) := fun h => nomatch h
theorem connectionFail (failure : ConnFailure) : Statement (.connectionFail failure) := fun h => nomatch h
theorem linkLevelRetry (replay : FrameReplay) : Statement (.linkLevelRetry replay) := fun h => nomatch h
theorem linkOutOfService (port : Fin 16) : Statement (.linkOutOfService port) := fun h => nomatch h
theorem hardLimitStop : Statement (.hardLimitStop) := fun h => nomatch h

end Sys2Proof.Laws.OneKind
end

