-- ==== Sys2Proof/Laws/Reads.lean ====
section
/-! SUPPORT. What translating and reading can do (14 R304, R307, R308, R316): they fill TLBs and write corrected words back, and change nothing
else. -/

namespace Sys2Proof.Machine

/-- t is s but for the TLBs, for what readers keep (R298), and for the single-bit errors that have been corrected and counted. -/
def State.ReadsTo (s t : State) : Prop :=
  t = { s with tlbs := t.tlbs, dieTlbs := t.dieTlbs, softFloor := t.softFloor, fecc := t.fecc, parts := t.parts }

@[refl] theorem State.ReadsTo.refl (s : State) : s.ReadsTo s := rfl

theorem State.ReadsTo.trans {s t u : State} (h : s.ReadsTo t) (k : t.ReadsTo u) : s.ReadsTo u := by
  unfold State.ReadsTo at *
  rw [k, h]

theorem State.ReadsTo.mem {s t : State} (h : s.ReadsTo t) : t.mem = s.mem := by rw [h]
theorem State.ReadsTo.cores {s t : State} (h : s.ReadsTo t) : t.cores = s.cores := by rw [h]
theorem State.ReadsTo.seqs {s t : State} (h : s.ReadsTo t) : t.seqs = s.seqs := by rw [h]
theorem State.ReadsTo.regions {s t : State} (h : s.ReadsTo t) : t.regions = s.regions := by rw [h]
theorem State.ReadsTo.pkg {s t : State} (h : s.ReadsTo t) : t.pkg = s.pkg := by rw [h]
theorem State.ReadsTo.fabric {s t : State} (h : s.ReadsTo t) : t.fabric = s.fabric := by rw [h]
theorem State.ReadsTo.net {s t : State} (h : s.ReadsTo t) : t.net = s.net := by rw [h]
theorem State.ReadsTo.cmds {s t : State} (h : s.ReadsTo t) : t.cmds = s.cmds := by rw [h]
theorem State.ReadsTo.focus {s t : State} (h : s.ReadsTo t) : t.focus = s.focus := by rw [h]
theorem State.ReadsTo.seq {s t : State} (h : s.ReadsTo t) (q : Nat) : t.seq q = s.seq q := by rw [State.seq, h.seqs]; rfl
theorem State.ReadsTo.core {s t : State} (h : s.ReadsTo t) (n : Nat) : t.core n = s.core n := by rw [State.core, h.cores]; rfl
theorem State.ReadsTo.readByte {s t : State} (h : s.ReadsTo t) (pa : Nat) : t.readByte pa = s.readByte pa := by rw [State.readByte, h.mem]; rfl

/-- Correcting single-bit errors. -/
theorem State.correctFloor_reads (s : State) (pa n : Nat) : s.ReadsTo (s.correctFloor pa n) := by
  unfold State.correctFloor
  generalize doublewords pa n = l
  induction l generalizing s with
  | nil => rfl
  | cons d ds ih =>
    rw [List.foldl_cons]
    refine State.ReadsTo.trans ?_ (ih _)
    split <;> rfl

/-- A load of some bytes of the floor. -/
theorem State.loadFloor_reads (s : State) (pa n : Nat) : s.ReadsTo (s.loadFloor pa n).2 := by
  unfold State.loadFloor
  split
  · rfl
  · exact s.correctFloor_reads pa n

/-- A read of a page-table entry. -/
theorem State.readEntry_reads (s : State) (pa : Nat) : s.ReadsTo (s.readEntry pa).2 := by
  unfold State.readEntry
  split
  · rfl
  · split
    · rfl
    · exact s.correctFloor_reads pa 8

/-- A walk of a page table. -/
theorem State.walkFrom_reads (s : State) (root : Nat) (domains : BitVec 256) (va fuel : Nat) (es : List Nat) :
    s.ReadsTo (s.walkFrom root domains va fuel es).2 := by
  induction fuel generalizing s es with
  | zero => rfl
  | succ fuel ih =>
    unfold State.walkFrom
    split
    · rfl
    · next pa _ =>
      have h := s.readEntry_reads pa
      split
      · next e => rw [e] at h; exact h
      · next e1 s1 e => rw [e] at h; exact h.trans (ih s1 _)

theorem State.walk_reads (s : State) (root : Nat) (domains : BitVec 256) (va : Nat) (es : List Nat) : s.ReadsTo (s.walk root domains va es).2 :=
  s.walkFrom_reads root domains va 4 es

theorem State.walkOver_reads (s : State) (who : Option Reader) (ctx va : Nat) : s.ReadsTo (s.walkOver who ctx va) := by
  unfold State.walkOver
  split <;> rfl

/-- One entry of a walk. -/
theorem State.walkPart_reads {s t : State} {die : Nat} {who : Option Reader} {c : Ctx} {va : Nat} {es : List Nat}
    (h : s.walkPart die who c va es = some t) : s.ReadsTo t := by
  unfold State.walkPart at h
  split at h
  · rename_i pa _ _
    split at h
    · cases h
    · have hr := s.readEntry_reads pa
      split at h
      · cases h
      · next e1 s1 e =>
        rw [e] at hr
        split at h
        · cases h
        · cases h; exact hr.trans rfl
  · cases h

/-- A translation through the TLBs. -/
theorem State.translateTlb_reads (s : State) (cluster ctx va : Nat) (waits : Bool) (who : Option Reader) :
    s.ReadsTo (s.translateTlb cluster ctx va waits who).2 := by
  unfold State.translateTlb
  split
  · exact s.walkOver_reads who ctx va
  · split
    · exact (s.walkOver_reads who ctx va).trans rfl
    · split
      · rfl
      · next c _ =>
        have h := s.walk_reads c.root c.domains va (s.walkRead who ctx va)
        dsimp only
        split
        · next hp => exact s.walkPart_reads hp
        split
        · rfl
        split
        · next e => rw [e] at h; exact h.trans ((State.walkOver_reads _ who ctx va).trans rfl)
        · next e => rw [e] at h; exact h.trans (State.walkOver_reads _ who ctx va)

/-- A translation. -/
theorem State.translate_reads (s : State) (cluster ctx va : Nat) (waits : Bool) (who : Option Reader) :
    s.ReadsTo (s.translate cluster ctx va waits who).2 := by
  unfold State.translate
  split
  · rfl
  · have h := s.translateTlb_reads cluster ctx (s.mappedVa ctx va) waits who
    dsimp only
    split
    · next e => rw [e] at h; exact h
    · next e => rw [e] at h; exact h

/-- Reading the descriptor of a pool. -/
theorem State.pool_reads (s : State) (record : Nat) : s.ReadsTo (s.pool record).2 := by
  unfold State.pool
  have h1 := s.loadFloor_reads (record + 64) 8
  split
  · next e => rw [e] at h1; exact h1
  · next vrd s1 e =>
    rw [e] at h1
    have h2 := s1.loadFloor_reads (bitsOf vrd 6 38 * 64) 48
    dsimp only
    split
    · next e => rw [e] at h2; exact h1.trans h2
    · next e => rw [e] at h2; exact h1.trans h2

/-- Reading whether a tile exists. -/
theorem State.tileExists_reads (s : State) (record t : Nat) : s.ReadsTo (s.tileExists record t).2 := by
  unfold State.tileExists
  have h := s.loadFloor_reads (record + t / 64 * 8) 8
  split
  · next e => rw [e] at h; exact h
  · next e => rw [e] at h; exact h

/-- A load at a place: of a floor page, or of a vug page, where nothing is born (R316). -/
theorem State.loadAt_reads (s : State) (p : Place) (va n : Nat) : s.ReadsTo (s.loadAt p va n).2 := by
  unfold State.loadAt
  split
  · next pa =>
    have h := s.loadFloor_reads pa n
    split
    · next e => rw [e] at h; exact h
    · next e => rw [e] at h; exact h
  · next record =>
    split
    · rfl
    · have h1 := s.tileExists_reads record (tileOf va)
      split
      · next e => rw [e] at h1; exact h1
      · next s1 e =>
        rw [e] at h1
        have h2 : s1.ReadsTo (s1.tileFrame record (tileOf va)).2 := s1.loadFloor_reads _ _
        split
        · next e => rw [e] at h2; exact h1.trans h2
        · next f s2 e =>
          rw [e] at h2
          have h3 := s2.loadFloor_reads (f * 4096 + va % 4096) n
          split
          · next e => rw [e] at h3; exact h1.trans (h2.trans h3)
          · next e => rw [e] at h3; exact h1.trans (h2.trans h3)
      · next s1 e =>
        rw [e] at h1
        have h2 := s1.pool_reads record
        split
        · next e => rw [e] at h2; exact h1.trans h2
        · next e => rw [e] at h2; exact h1.trans h2

/-- Reading one piece for a unit. -/
theorem State.readPiece_reads (s : State) (cluster ctx : Nat) (who : Option Reader) (va k : Nat) : s.ReadsTo (s.readPiece cluster ctx who va k).2 := by
  unfold State.readPiece
  split
  · rfl
  · have h1 := s.translate_reads cluster ctx va true who
    split
    · next e => rw [e] at h1; exact h1
    · next f s1 e =>
      rw [e] at h1
      have h2 := s1.loadAt_reads f.place va k
      split
      · exact h1
      split
      · next e => rw [e] at h2; exact h1.trans h2
      · next e => rw [e] at h2; exact h1.trans h2
      · next v m s2 e =>
        rw [e] at h2
        have h3 : s2.ReadsTo (s2.bytesNow who ctx va (leBytes k v)).2 := by unfold State.bytesNow; split <;> rfl
        split
        · next e => rw [e] at h3; exact h1.trans (h2.trans h3)
        · next e => rw [e] at h3; exact h1.trans (h2.trans h3)

/-- Reading bytes for a unit, piece by piece. -/
theorem State.readPieces_reads (s : State) (cluster ctx : Nat) (who : Option Reader) (fuel va n : Nat) :
    s.ReadsTo (s.readPieces cluster ctx who fuel va n).2 := by
  induction fuel generalizing s va n with
  | zero => rfl
  | succ fuel ih =>
    unfold State.readPieces
    split
    · rfl
    · simp only []
      split
      · rfl
      · have h1 := s.readPiece_reads cluster ctx who va (min n (8 - va % 8))
        split
        · next l s1 e =>
          rw [e] at h1
          have h3 := ih s1 (va + min n (8 - va % 8)) (n - min n (8 - va % 8))
          split
          · next e => rw [e] at h3; exact h1.trans h3
          · next e => rw [e] at h3; exact h1.trans h3
        · next e => rw [e] at h1; exact h1

/-- Reading memory for a command (R220). -/
theorem State.readForCmd_reads (s : State) (cluster ctx : Nat) (c : Cmd) (va n : Nat) : s.ReadsTo (s.readForCmd cluster ctx c va n).2 := by
  unfold State.readForCmd
  split
  · rfl
  · exact s.readPieces_reads cluster ctx _ _ va n

end Sys2Proof.Machine
end

