-- ==== Sys2Proof/Laws/Stages.lean ====
section
/-! SUPPORT. What running a stage of a firing can do (03 R39 to R46): it holds, or it forms a value, delivers it and goes on. -/

namespace Sys2Proof.Machine

/-- A stage instruction does nothing, or is one step of the firing that it stands at. -/
theorem State.runStage_cases (s : State) (op : Nat) (f : StageFields) (body : StageCtx → Operands → StageRes) :
    s.runStage op f body = .next s
      ∨ ∃ n k fr, s.focus = .stage n k ∧ (s.core n).pipe[k]? = some fr ∧ 1 ≤ fr.stage ∧ fr.stage ≤ 6 ∧ s.coreFrozen n = false
          ∧ s.runStage op f body = .next (s.stageStep n k fr op f body) := by
  cases hf : s.focus with
  | stage n k =>
    cases hp : (s.core n).pipe[k]? with
    | none => exact .inl (by simp [State.runStage, hf, hp])
    | some fr =>
      by_cases hc : fr.stage < 1 ∨ 6 < fr.stage ∨ s.coreFrozen n ∨ fr.hold = some .stopped
      · exact .inl (by simp only [State.runStage, hf, hp]; rw [if_pos hc])
      · refine .inr ⟨n, k, fr, rfl, hp, by omega, by omega, ?_, ?_⟩
        · simp only [not_or] at hc
          simpa using hc.2.2.1
        · simp only [State.runStage, hf, hp]
          rw [if_neg hc]
  | _ => exact .inl (by simp [State.runStage, hf])

/-- A hold changes the firing's reason, with the state of the window that it waits for, and nothing else. -/
theorem State.holdStage_eq (s : State) (n k : Nat) (fr : Firing) (h : Hold) :
    s.holdStage n k fr h =
      s.setCore n { s.core n with pipe := setNth (s.core n).pipe k { fr with hold := some h, heldWin := h.win.map (s.core n).win } } := rfl

/-- A beat of no lanes and no marker goes nowhere. -/
theorem Core.deliver_empty (c : Core) (d : Dest) (b : Beat) (h : b.empty = true) : c.deliver d b = .ok (c, 0) := by
  simp [Core.deliver, h]

/-- With nothing to deliver, the core is as it was. -/
@[simp] theorem Core.deliverAll_nil (c : Core) : c.deliverAll [] = (c, 0, 0, none) := rfl

/-- Writing no word of the store changes nothing. -/
@[simp] theorem Core.writeStore_nil (c : Core) : c.writeStore [] = c := rfl

/-- The context in which the stage of a firing runs. -/
abbrev State.stageCtx (s : State) (n k : Nat) (fr : Firing) (f : StageFields) : StageCtx := ⟨s.core n, k, fr, (s.core n).active[fr.slot], f⟩

/-- An older firing stands before a stage that this one must not run first (R42). -/
abbrev State.olderFirst (s : State) (n k : Nat) (fr : Firing) (op : Nat) (f : StageFields) : Bool :=
  ((s.core n).pipe.take k).any fun g =>
    (s.core n).mustWait (s.core n).active[fr.slot] (stageWord (BitVec.ofNat 6 op) f) (s.core n).active[g.slot] g.stage

/-- A stage that holds for an operand changes only its firing. -/
theorem State.stageStep_waits {s : State} {n k : Nat} {fr : Firing} {op : Nat} {f : StageFields} {body : StageCtx → Operands → StageRes} {w : Win}
    (ho : s.olderFirst n k fr op f = false) (hw : ((s.stageCtx n k fr f).operandsOf op).wait = some w) :
    s.stageStep n k fr op f body = s.holdStage n k fr (.read w) := by
  simp only [State.olderFirst] at ho
  simp only [State.stageCtx] at hw
  simp only [State.stageStep, ho, hw, Bool.false_eq_true, if_false]

/-- A stage behind an older firing holds. -/
theorem State.stageStep_older {s : State} {n k : Nat} {fr : Firing} {op : Nat} {f : StageFields} {body : StageCtx → Operands → StageRes}
    (ho : s.olderFirst n k fr op f = true) : s.stageStep n k fr op f body = s.holdStage n k fr .older := by
  simp only [State.olderFirst] at ho
  simp only [State.stageStep, ho, if_true]

/-- A stage whose operands are there does what its body says. -/
theorem State.stageStep_runs {s : State} {n k : Nat} {fr : Firing} {op : Nat} {f : StageFields} {body : StageCtx → Operands → StageRes} {r : StageOut}
    (ho : s.olderFirst n k fr op f = false) (hw : ((s.stageCtx n k fr f).operandsOf op).wait = none)
    (hb : body (s.stageCtx n k fr f) ((s.stageCtx n k fr f).operandsOf op) = .out r) :
    s.stageStep n k fr op f body =
      s.finishStage n k fr f (s.core n).active[fr.slot] { r with reads := r.reads ++ ((s.stageCtx n k fr f).operandsOf op).reads }
        (dstDests (s.core n).active[fr.slot] f.dst) (lanternWarn op f ||| ((s.stageCtx n k fr f).operandsOf op).cwarn) := by
  simp only [State.olderFirst] at ho
  simp only [State.stageCtx] at hw hb
  simp only [State.stageStep, State.stageCtx, ho, hw, hb, Bool.false_eq_true, if_false]

/-- A stage whose operands are there and whose body is `nop` delivers nothing (R50, R116). -/
theorem State.stageStep_nop {s : State} {n k : Nat} {fr : Firing} {op : Nat} {f : StageFields} {body : StageCtx → Operands → StageRes} {cw : Lane}
    (ho : s.olderFirst n k fr op f = false) (hw : ((s.stageCtx n k fr f).operandsOf op).wait = none)
    (hb : body (s.stageCtx n k fr f) ((s.stageCtx n k fr f).operandsOf op) = .nop cw) :
    s.stageStep n k fr op f body =
      s.finishStage n k fr f (s.core n).active[fr.slot] ((s.stageCtx n k fr f).value (Beat.blank 16 markNone) 0 cw) [] (lanternWarn op f) := by
  simp only [State.olderFirst] at ho
  simp only [State.stageCtx] at hw hb
  simp only [State.stageStep, State.stageCtx, ho, hw, hb, Bool.false_eq_true, if_false]

end Sys2Proof.Machine
end

