-- ==== Sys2Proof/Tests/Witness1.lean ====
section
/-! SUPPORT. Small states that meet the hypotheses of the statements about words and commands, one named witness for each set of hypotheses. -/

namespace Sys2Proof.Tests

open Sys2Proof Sys2Proof.Machine Sys2Proof.Claims

/-! ## A sequencer with a block in issue -/

/-- Registers of the small block: s1 an address, s2 to s4 small numbers, s5 an address with high bits set. -/
def regs0 : Vector Word 32 :=
  ((((Vector.replicate 32 0).set 1 0x1000).set 2 5).set 3 3).set 5 0x0100000000000000

/-- A block of two words in issue. -/
def blk0 : Block := Block.start [0, 0] regs0 (Vector.replicate 8 false)

/-- Window 0 is bound as records of capacity 8, window 1 as doublewords. -/
def mdesc0 : Vector Word 8 := ((Vector.replicate 8 0).set 0 0xC000000800000020).set 1 0x8000000800000000

/-- A sequencer of region 0, with one element in each of its two windows. -/
def seq0 : Seq :=
  { Seq.init with
    blk := some blk0, region := some 0, mdesc := mdesc0
    mstat := ((Vector.replicate 8 WinState.init).set 0 ⟨0, 1, 0, 0, none, none⟩).set 1 ⟨0, 1, 0, 0, none, none⟩ }

/-- A region of one core and one sequencer. -/
def region0 : Region := newRegion 0 0 0 0 1 1 0 0 0 1

/-- A writable page at address 0, a page at 2 MiB that is only read, and a vug page at 4 MiB. -/
def pages0 : List TlbEntry :=
  [⟨0, ⟨0, 0, false, true, false⟩⟩, ⟨0, ⟨0x200000, 0x200000, false, false, false⟩⟩, ⟨0, ⟨0x400000, 0x10000, false, true, true⟩⟩]

def pkg0 : Package := { State.reset.pkg with ctxs := [⟨0, 0x100000, BitVec.allOnes 256, none⟩], feata := 0x7F }

/-- The word at the head of the block of sequencer 0 is about to run. -/
def base : State :=
  { State.reset with focus := .seq 0, seqs := [(0, seq0)], regions := [region0], tlbs := [(0, pages0)], pkg := pkg0 }

/-- The same with another block, or other registers. -/
def baseWith (b : Block) : State := { base with seqs := [(0, { seq0 with blk := some b })] }

theorem ready0 (b : Block) (reads : List Reg) : WordReady (baseWith b) 0 b reads :=
  ⟨rfl, rfl, fun _ _ => .inr (.inr (fun _ h => nomatch (show _ ∈ ([] : List Await) from h)))⟩

/-- Every word of the integer, immediate, predicate, control, CSR, order and translation families: a block at its head. -/
theorem witness_WordReady : WordReady (baseWith blk0) 0 blk0 [1, 2, 3] := ready0 blk0 _

/-- A register that an earlier word of the block has written is there, though a reply is still to write it. -/
theorem witness_WordReady_written :
    WordReady { baseWith blk0 with seqs := [(0, { seq0 with blk := some { blk0 with written := [1] }, awaits := [⟨7, 0, [1], false⟩] })] } 0
      { blk0 with written := [1] } [1] :=
  ⟨rfl, rfl, fun r h => by
    rcases List.mem_cons.1 h with rfl | h
    · exact .inr (.inl (by decide))
    · exact nomatch h⟩

/-- CommitFollowsTheClosingWord: a block that has issued its last word, for each closing word. -/
def done0 (c : Option Closing) : Block := { blk0 with idx := 2, closing := c }
theorem blockDone0 (b : Block) (l : List Queued) (h : b.idx = b.words.length) (he : b.effects = l) : BlockDone (baseWith b) 0 b l :=
  ⟨rfl, h, rfl, rfl, rfl, rfl, fun _ h => (nomatch (show _ ∈ ([] : List Await) from h)),
    fun r hr => by cases (show some region0 = some r from hr); rfl, he⟩
theorem witness_BlockDone (c : Option Closing) : BlockDone (baseWith (done0 c)) 0 (done0 c) [] := blockDone0 _ _ rfl rfl
theorem witness_BlockDone_trap : ((baseWith (done0 (some (.trap 5 1)))).seq 0).tl = false := rfl

/-- ControlWordsMarkTheBlock: a block without a closing word and a good target in s1, and a block with one; fewer than four exit words before. -/
theorem witness_ret : WordReady (baseWith blk0) 0 blk0 [1] ∧ blk0.closing = none ∧ goodTarget (readReg blk0.regs 1) :=
  ⟨ready0 _ _, rfl, by decide, by decide⟩
theorem witness_ret_second : WordReady (baseWith (done0 (some .halt))) 0 (done0 (some .halt)) [] ∧ (done0 (some .halt)).closing = some .halt :=
  ⟨ready0 _ _, rfl⟩
theorem witness_exitr : exitsBefore blk0 < 4 ∧ goodTarget (readReg blk0.regs 1) := ⟨by decide, by decide, by decide⟩
theorem witness_exitr_late : ¬ exitsBefore { blk0 with words := List.replicate 5 0x04000000, idx := 4 } < 4 := by decide

/-- WordsTrap: targets that no block can begin at, for both causes. -/
theorem witness_badTarget : ¬ goodTarget (readReg blk0.regs 5) ∧ ¬ goodTarget (readReg blk0.regs 2) ∧ ((baseWith blk0).seq 0).tl = false :=
  ⟨fun h => absurd h.1 (by decide), fun h => absurd h.2 (by decide), rfl⟩

/-! ## Memory words -/

/-- s1 holds an address of a page that may be written. -/
theorem witness_Reaches : ∃ f s', Reaches (baseWith blk0) 0 (readReg blk0.regs 1) 0x1000 8 true f s' :=
  ⟨_, _, by decide, by decide, by decide, ⟨region0, rfl, rfl⟩, fun _ => rfl⟩

theorem witness_HasRoom : HasRoom (baseWith blk0) 0 blk0 := rfl

/-- LoadsReadTheFloor: the load of 8 bytes at the address in s1 is to be sent. -/
theorem witness_load : ∃ f s', WordReady (baseWith blk0) 0 blk0 [1] ∧ LoadReady (baseWith blk0) 0 blk0 0x1000 8
    ∧ address (readReg blk0.regs 1) 0 = 0x1000 ∧ Reaches (baseWith blk0) 0 (readReg blk0.regs 1) 0x1000 8 false f s' :=
  ⟨_, _, ready0 _ _, ⟨fun _ h => (nomatch (show _ ∈ ([] : List BlockLoad) from h)), rfl, rfl⟩, by decide, by decide, by decide, by decide,
    ⟨region0, rfl, rfl⟩, fun h => nomatch h⟩
/-- It has performed, with the value 5, or it has met an uncorrectable error. -/
def loadBlk (o : LoadReply) : Block := { blk0 with loads := [⟨0, [⟨7, 0x1000, 8, [⟨0, 8, o⟩]⟩]⟩] }
theorem witness_load_back : WordReady (baseWith (loadBlk (.value 5 true))) 0 (loadBlk (.value 5 true)) [1]
    ∧ LoadBack (loadBlk (.value 5 true)) ⟨0, [⟨7, 0x1000, 8, [⟨0, 8, .value 5 true⟩]⟩]⟩ (.value 5 true) := ⟨ready0 _ _, ⟨rfl, by decide +kernel⟩⟩
theorem witness_load_bad : LoadBack (loadBlk .bad) ⟨0, [⟨7, 0x1000, 8, [⟨0, 8, .bad⟩]⟩]⟩ (.bad 0x1000) := ⟨rfl, by decide +kernel⟩

/-- `verase` of a vug page that may be written, and of an ordinary page. -/
def vugRegs : Vector Word 32 := regs0.set 1 0x400000
theorem witness_verase_vug : ∃ f s', Reaches (baseWith (Block.start [0] vugRegs (Vector.replicate 8 false))) 0 0x400000 0x400000 1 false f s'
    ∧ f.tr.vug = true ∧ f.tr.writable = true :=
  ⟨_, _, ⟨by decide, by decide, by decide, ⟨region0, rfl, rfl⟩, fun h => nomatch h⟩, rfl, rfl⟩
theorem witness_verase_plain : ∃ f s', Reaches (baseWith blk0) 0 (readReg blk0.regs 1) 0x1000 1 false f s' ∧ f.tr.vug = false :=
  ⟨_, _, ⟨by decide, by decide, by decide, ⟨region0, rfl, rfl⟩, fun h => nomatch h⟩, rfl⟩

/-- BadAddressesTrap: an address with high bits, one that is not aligned, one that is not mapped, one that is not granted, and a store to a page that
is only read. -/
theorem witness_high : 2 ^ 56 ≤ (readReg blk0.regs 5).toNat := by decide
theorem witness_unaligned : isControl (address (readReg blk0.regs 2) 0) = false ∧ address (readReg blk0.regs 2) 0 % 8 ≠ 0 := by decide
theorem witness_unmapped : ((baseWith blk0).translate 0 0 0x40000000).1 = .error 1 := rfl
def guarded : State :=
  (({ baseWith blk0 with pkg := { pkg0 with ctxs := [⟨0, 0x100000, 1, none⟩] } } : State).writeBytes 0x100000
    (leBytes 8 0x101001)).writeBytes 0x101008 (leBytes 8 0x0100000040000003)
theorem witness_notGranted : (guarded.translate 0 0 0x40000000).1 = .error 2 := rfl
/-- The walk meets a doubleword beyond correction. -/
theorem witness_badWalk : (({ baseWith blk0 with badFloor := [0x20000] } : State).translate 0 0 0x40000000).1 = .error 4 := rfl
theorem witness_readOnly : ∃ f s', (baseWith blk0).translate 0 0 0x200000 = (.ok f, s') ∧ f.tr.writable = false := ⟨_, _, rfl, rfl⟩

/-- A vug page that is only read, for `verase`. -/
theorem witness_verase_readOnly : ∃ f s', ({ base with tlbs := [(0, [⟨0, ⟨0x400000, 0x10000, false, false, true⟩⟩])] } : State).translate 0 0 0x400000
    = (.ok f, s') ∧ f.tr.vug = true ∧ f.tr.writable = false := ⟨_, _, rfl, rfl, rfl⟩
/-- The same words in a handler: TL is 1, and any trap is a double trap. -/
def inHandler : State := { base with seqs := [(0, { seq0 with tl := true })] }
theorem witness_inHandler (reads : List Reg) : WordReady inHandler 0 blk0 reads ∧ (inHandler.seq 0).tl = true ∧ HasRoom inHandler 0 blk0 :=
  ⟨⟨rfl, rfl, fun _ _ => .inr (.inr (fun _ h => nomatch (show _ ∈ ([] : List Await) from h)))⟩, rfl, rfl⟩

/-- LoadsReadRegisters, StoresToRegistersAreQueued: register 8 of the die and register 0x10 of core 0. -/
theorem witness_dieRegister : isDieControl 0xFD000000000008 = true ∧ dieControl 0xFD000000000008 = some 8
    ∧ ((baseWith blk0).seq 0).acquiring = false ∧ ((baseWith blk0).seq 0).writesRegister (.die 0) = false := by decide +kernel
theorem witness_coreRegister : isControl 0xFC000000000010 = true ∧ isDieControl 0xFC000000000010 = false
    ∧ (baseWith blk0).coreControl region0 0xFC000000000010 = some (0, 0x10) ∧ ((baseWith blk0).seq 0).writesRegister (.core 0) = false := by
  decide +kernel
/-- BadAddressesTrap, AddressTraps: control addresses of no register. -/
theorem witness_noRegister : isDieControl 0xFD000000000004 = true ∧ dieControl 0xFD000000000004 = none
    ∧ isDieControl 0xFC000000010010 = false ∧ (baseWith blk0).coreControl region0 0xFC000000010010 = none := by decide +kernel

/-! ## Windows and tasks -/

theorem witness_Holds : Holds (baseWith blk0) 0 blk0 1 0 := ⟨by decide, by decide, by decide⟩
theorem witness_Holds_record : Holds (baseWith blk0) 0 blk0 0 0 ∧ bitAt (((baseWith blk0).seq 0).desc 0) 62 = true := ⟨⟨by decide, by decide, by decide⟩, by decide⟩
theorem witness_Fits : Fits (baseWith blk0) 0 blk0 0 ∧ Fits (baseWith blk0) 0 blk0 1 := ⟨⟨by decide, by decide⟩, by decide, by decide⟩
theorem witness_shrink : (1 : Nat) ≤ bv (((baseWith blk0).seq 0).desc 1) 32 13 ∧ 1 ≤ ((WordCtx.view ⟨0, (baseWith blk0).seq 0, blk0⟩).win 1).filled := by decide
theorem witness_unboundLocal : bitAt (((baseWith blk0).seq 0).desc 7) 63 = false ∧ bv (((baseWith blk0).seq 0).desc 1) 32 13 ≤ (8 : BitVec 12).toNat := by decide
theorem witness_steal : (baseWith blk0).regionOfSeq 0 = some region0 ∧ region0.seqs.contains (0 / 256 * 256 + (readReg blk0.regs 0).toNat % 256) = true := ⟨rfl, by decide⟩
theorem witness_done : ∃ f s', Reaches (baseWith blk0) 0 (readReg blk0.regs 1) 0x1000 8 true f s' := witness_Reaches
theorem witness_take : ((baseWith blk0).seq 0).takeOutstanding = false := rfl

/-! ## Command words -/

theorem witness_Names : Names (baseWith blk0) 0 0 0 0 := ⟨⟨region0, rfl, by decide, by decide, by decide⟩, rfl⟩
theorem witness_outside : (1 : Nat) ≤ (readReg blk0.regs 2).toNat % 256 := by decide
theorem witness_owner : (baseWith blk0).regionOfSeq 0 = some region0 ∧ region0.owner = 0 := ⟨rfl, by decide⟩

/-- A member of a region of two sequencers is not its owner. -/
def region2 : Region := newRegion 0 0 0 0 32 1 0 0 0 1
def member : State := { base with focus := .seq 1, seqs := [(0, seq0), (1, { seq0 with rank := 1 })], regions := [region2] }
theorem witness_member : member.regionOfSeq 1 = some region2 ∧ region2.owner ≠ 1 ∧ WordReady member 1 blk0 [1] :=
  ⟨rfl, by decide, rfl, rfl, fun _ _ => .inr (.inr (fun _ h => nomatch (show _ ∈ ([] : List Await) from h)))⟩

end Sys2Proof.Tests
end

