-- ==== Sys2Proof/Tests/Witness2.lean ====
section
/-! SUPPORT. Small states that meet the hypotheses of the statements about commands, one named witness for each set of hypotheses. -/

namespace Sys2Proof.Tests

-- One after another: a check by the kernel waits for every earlier one, and each waiting check would hold a thread of its own.
set_option Elab.async false

open Sys2Proof Sys2Proof.Machine Sys2Proof.Claims

/-! ## A command at its unit -/

/-- A command of sequencer 0 at a unit. -/
def cmd0 (unit : UnitId) (i : Instr) (a b : Word) : Cmd :=
  { id := 7, seq := 0, unit := unit, instr := i, a := a, b := b, d := 0, tag := 0, begun := false }

/-- That command is about to be applied. -/
def atUnit (s : State) (c : Cmd) : State := { s with focus := .cmd 0, cmds := [c] }

/-- Window 0 of a core: four words filled by load, from store word 64 on; window 1: four beats that commands fill, from word 128 on; window 2
is link-filled; window 3 a parameter window of eight words. -/
def wdescs0 : Vector Word 16 :=
  ((((Vector.replicate 16 0).set 0 0x8800000804000000).set 1 0xB800000808000000).set 2 0xA000000810000000).set 3 0xC000801020000000

/-- A core with those windows, of which windows 0 and 1 hold one element each. -/
def core0 : Core :=
  { Core.init with
    wdesc := wdescs0
    wstate := ((Vector.replicate 16 WinState.init).set 0 ⟨0, 2, 0, 0, none, none⟩).set 1 ⟨0, 1, 0, 0, none, none⟩ }

/-- The small module with that core. -/
def coreBase (u : Core) : State := { base with cores := [(0, u)] }

theorem witness_CmdAt (s : State) (c : Cmd) : CmdAt (atUnit s c) 0 c c.unit := ⟨rfl, rfl, rfl⟩

theorem open0 (u : Core) (c : Cmd) (h : u.stop = false) : CoreOpen (atUnit (coreBase u) c) 0 :=
  ⟨h, fun r hr => by
    have : r = region0 := by cases (show some region0 = some r from hr); rfl
    subst this; exact ⟨rfl, rfl, rfl, rfl⟩⟩

/-- WindowCommandsAct: the four window commands at a core with no firing in flight, and one that is refused. -/
theorem witness_window_idle : CoreOpen (atUnit (coreBase core0) (cmd0 (.core 0) (.wrdCore 1 2 0 false 0) 0 0)) 0 ∧ Idle core0
    ∧ SlotFree (atUnit (coreBase core0) (cmd0 (.core 0) (.wrdCore 1 2 0 false 0) 0 0)) 0 :=
  ⟨open0 _ _ rfl, rfl, fun h => nomatch h⟩
theorem witness_wrd : core0.refuses 0 0 = false ∧ core0.settled (refWindow 0) (refOffset 0) = true ∧ core0.badStore.contains (core0.refAddr 0) = false := by
  decide
theorem witness_wfl : core0.refuses 1 0x10000 = false ∧ (core0.fillCommand (refWindow 0x10000) (fillOf 5)).isSome = true := by decide
theorem witness_wshr : core0.refuses 2 0x100000 = false ∧ refOffset 0x100000 ≤ core0.visible (refWindow 0x100000) := by decide
theorem witness_wst : core0.refuses 3 0 = false ∧ core0.settled (refWindow 0) (refOffset 0) = true := by decide
theorem witness_wshr_refused : core0.refuses 2 0x40000 = true := by decide

/-! ## Streams -/

/-- A pattern descriptor: a linear load of lane words from address 0x1000 into window 0. -/
def loadPattern : Vector Word 8 := (Vector.replicate 8 0).set 0 0x0000000000001000
/-- The same of a bit-plane format with a descriptor that no stream accepts. -/
def badPattern : Vector Word 8 := (loadPattern.set 0 0x0A00000000001000).set 1 0x2000

def slot0 (st : StreamState) : EdgeSlot := { EdgeSlot.init with pattern := loadPattern, state := st }
def coreWith (e : EdgeSlot) : Core := { core0 with edge := core0.edge.set 0 e }

def bindCmd : Cmd := cmd0 (.core 0) (.sbind 1 2 0 0 0) 0x2000 0
/-- Memory at 0x2000 holds a pattern descriptor. -/
def bindState : State :=
  atUnit ((coreBase core0).writeBytes 0x2000 (leBytes 8 0x0000000000001000)) bindCmd

theorem witness_sbind : ∃ l s1 s2, bindState.regionOfCore 0 = some region0 ∧ (bindState.core 0).edge[(0 : Fin 4)].active = false
    ∧ bindState.readForCmd 0 0 bindCmd (bv bindCmd.a 6 50 * 64) 64 = (.bytes l, s1) ∧ s1.readFormat 0 bindCmd l = (.bytes [], s2)
    ∧ (s2.core 0).refusesBind (boundSlot l [] 0 0) = false :=
  ⟨_, _, _, rfl, rfl, rfl, rfl, by decide⟩

theorem witness_sgo : (slot0 .bound).state = .bound ∧ (slot0 .bound).formatFault = false := by decide
theorem witness_sgo_fault : ({ slot0 .bound with pattern := badPattern } : EdgeSlot).formatFault = true := by decide
theorem witness_sgo_noSwap : ∀ r, (atUnit (coreBase (coreWith (slot0 .bound))) bindCmd).regionOfCore 0 = some r → r.swap = none := fun r h => by
  cases (show some region0 = some r from h); rfl
theorem witness_stream_active : (slot0 .running).active = true := by decide
theorem witness_stream_runs : ((atUnit (coreBase (coreWith (slot0 .running))) bindCmd).regionOfCore 0).isSome = true := rfl
theorem witness_stream_faulted : (slot0 .faulted).state = .faulted ∧ (slot0 .faulted).active = false := by decide

/-! ## Configuration -/

/-- The header of an image of one core without patterns, but for its check word. -/
def header0 : List Byte :=
  leBytes 4 64 ++ leBytes 4 0xC1E71A9E ++ leBytes 4 1 ++ leBytes 2 1 ++ leBytes 2 1 ++ leBytes 16 0
/-- The image, with its check word (R227): SHAKE256 of the header with zeros in its place, computed by another implementation. -/
def image0 : List Byte := header0 ++ leBytes 32 0x27A9F49619BAEA69B68F20B089CF2726709444589EF3373B7602D55A09829066

def cfgCmd : Cmd := cmd0 (.region 0) (.cfgLoad 1 2 false 0) 0x3000 0
def cfgState : State := atUnit (coreBase core0) cfgCmd
def cfgImage : State := atUnit ((coreBase Core.init).writeBytes 0x3000 image0) cfgCmd

/-- The region of the small module takes configuration commands. -/
theorem witness_region : cfgState.region? 0 = some region0 ∧ region0.freezing = false ∧ region0.frozen = false ∧ region0.swap = none
    ∧ region0.drain = none ∧ region0.image = none := ⟨rfl, rfl, rfl, rfl, rfl, rfl⟩

/-- `cfg.load` and `cfg.shadow` of that image. -/
theorem witness_cfg_check : Except.toOption (cfgImage.checkImage region0 false image0) = some []
    ∧ Except.toOption (cfgImage.checkImage region0 true image0) = some [] ∧ cfgImage.idle region0 = true
    ∧ region0.cores.any cfgImage.edgeStores = false := by
  decide +kernel
theorem witness_cfg_read : (cfgImage.readImage 0 cfgCmd 0x3000).1 = .bytes image0 := by decide +kernel
theorem witness_cfg_sig : (cfgImage.signatureOf region0 cfgCmd 0x3000).1.isSome = true := by decide +kernel

/-! ## Translation, lanterns and launches -/

theorem witness_xlat : ∃ f s', (readReg blk0.regs 1).toNat < 2 ^ 56 ∧ (baseWith blk0).translate 0 0 (readReg blk0.regs 1).toNat = (.ok f, s')
    ∧ f.tr.phys f.va < 2 ^ 44 := ⟨_, _, by decide, rfl, by decide⟩
theorem witness_xlat_none : ∃ s', (baseWith blk0).translate 0 0 0x40000000 = (.error 1, s') := ⟨_, rfl⟩

def tlbCmd : Cmd := cmd0 (.die 0) (.tlbinv 1 2 4 1 false 0) 0x1000 0
theorem witness_die : CmdAt (atUnit base tlbCmd) 0 tlbCmd (.die 0) ∧ (atUnit base tlbCmd).regionOfSeq 0 = some region0 ∧ tlbCmd.begun = false :=
  ⟨⟨rfl, rfl, rfl⟩, rfl, rfl⟩
theorem witness_relatch_nothing : (atUnit base tlbCmd).relatchCores 0 0 (transScope 4) none = [] := by decide
/-- A slot of core 0 holds a latched translation. -/
theorem witness_relatch : (atUnit (coreBase (coreWith { slot0 .running with latches := [⟨0, 0, false, true, false⟩] })) tlbCmd).relatchCores 0 0
    (transScope 4) none ≠ [] := by decide

def launchCmd : Cmd := cmd0 .package (.launch 1 2 3 0 false 0) 0x2000 5
/-- Queue 5 of context 0 is open, with room. -/
def launchState : State := atUnit (base.setQueue 5 { Queue.init with state := .open_, cap := 4, ring := 0x8000 }) launchCmd
theorem witness_launch : ∃ l s', CmdAt launchState 0 launchCmd .package ∧ launchState.regionOfSeq 0 = some region0
    ∧ (launchState.ctx? 0).isSome = true ∧ launchState.readForCmd 0 0 launchCmd (bv launchCmd.a 6 50 * 64) 64 = (.bytes l, s')
    ∧ launchCmd.b.toNat < 2048 ∧ (s'.queue 5).state = .open_ ∧ (s'.queue 5).ctx = 0 ∧ (s'.queue 5).packets.length < (s'.queue 5).cap :=
  ⟨_, _, ⟨rfl, rfl, rfl⟩, rfl, by decide, rfl, by decide, rfl, rfl, by decide⟩

/-! ## Network commands -/

/-- Page tables of context 0: the 2 MiB pages at 0, 6 MiB and 8 MiB. -/
def tables (s : State) : State :=
  (((((s.writeBytes 0x100000 (leBytes 8 0x101001)).writeBytes 0x101000 (leBytes 8 0x102001)).writeBytes 0x102000 (leBytes 8 0x7)).writeBytes 0x102018
    (leBytes 8 0x600007)).writeBytes 0x102020 (leBytes 8 0x800007))

/-- A connection of region 0 that receives into window 0 of its sequencer. -/
def conn0 : Conn :=
  { handle := 1, region := 0, ctx := 0, job := 1, deliv := 0, nscc := true, rccc := false, tss := false, peer := (1, 2), endpoints := 0, key := 0,
    recvRank := 0, recvWin := 0, slots := 8, ring := 0x4000, paths := 16, failed := false, closing := false, record := none, marked := 0, resent := 0, refused := 0, recvCount := 0, sendCount := 0 }

def withConn (s : State) (c : Conn) : State := { s with fabric := { s.fabric with conns := [c] } }

/-- `net.send` of a message of 64 bytes whose descriptor stands at 0x2000. -/
def netCmd : Cmd := cmd0 .engine (.netSend 1 2 3 false 0) 0x2000 1
def netState (c : Conn) : State := atUnit (withConn (base.writeBytes 0x2014 [64]) c) netCmd

theorem witness_message : ∃ l s', CmdAt (netState conn0) 0 netCmd .engine ∧ (netState conn0).regionOfSeq 0 = some region0
    ∧ (netState conn0).feature 2 = true ∧ (netState conn0).conn? 1 = some conn0 ∧ conn0.region = region0.id
    ∧ (netState conn0).readForCmd 0 0 netCmd 0x2000 32 = (.bytes l, s') ∧ messageMbz l = false ∧ bv (wordAt l 2) 32 32 ≤ 4096
    ∧ bv (wordAt l 2) 32 32 ≤ 2 ^ 30 :=
  ⟨_, _, ⟨rfl, rfl, rfl⟩, rfl, by decide, rfl, rfl, rfl, by decide, by decide, by decide⟩

theorem witness_netStat : (netState conn0).conn? 1 = some conn0 ∧ conn0.record = none := ⟨rfl, rfl⟩
theorem witness_netStat_record : (netState { conn0 with record := some (Vector.replicate 5 0) }).conn? 1
    = some { conn0 with record := some (Vector.replicate 5 0) } := rfl
theorem witness_net_absent : (atUnit { base with pkg := { pkg0 with feata := 0 } } netCmd).feature 2 = false := by decide

/-- `net.bind` of a connection: its descriptor is zeros, so it receives by rank 0 in window 0. -/
def bindConnCmd : Cmd := cmd0 .engine (.netBind 1 2 0 false 0) 0x2000 0
def bindConnState : State := atUnit base bindConnCmd
theorem witness_bind_conn : ∃ l s' n, bindConnState.feature 2 = true ∧ bindConnState.readForCmd 0 0 bindConnCmd 0x2000 64 = (.bytes l, s')
    ∧ bv (wordAt l 0) 12 4 = 0 ∧ bv (wordAt l 0) 0 5 = 0 ∧ bv (wordAt l 0) 16 16 = 0 ∧ s'.fabric.handles.length < 65535
    ∧ s'.describeConn region0 (freeHandle s'.fabric.handles 65535 1) l = some n :=
  ⟨_, _, _, by decide, rfl, by decide, by decide, by decide, by decide, rfl⟩

/-- `net.bind` of a buffer of one page, visible at 6 MiB, its shadow at 8 MiB. -/
def bindBufState : State :=
  atUnit (tables ((((base.writeBytes 0x2000 (leBytes 8 0x1000)).writeBytes 0x2008 (leBytes 8 0x600000)).writeBytes 0x2010 (leBytes 8 0x800000)).writeBytes
    0x2018 (leBytes 8 1))) bindConnCmd
theorem witness_bind_buf : ∃ l s' p s'', bindBufState.readForCmd 0 0 bindConnCmd 0x2000 64 = (.bytes l, s')
    ∧ bv (wordAt l 0) 12 4 = 1 ∧ bv (wordAt l 0) 0 5 = 0 ∧ bv (wordAt l 0) 16 16 = 0
    ∧ s'.describeBuffer region0 (freeHandle s'.fabric.handles 65535 1) l = (some p, s'') ∧ s''.fabric.handles.length < 65535 :=
  ⟨_, _, _, _, rfl, by decide, by decide, by decide, rfl, by decide⟩

/-- The release of handle 1, on which nothing is in flight. -/
def bindFreeState : State := atUnit (withConn (base.writeBytes 0x2000 (leBytes 8 0x12000)) conn0) bindConnCmd
theorem witness_bind_free : ∃ l s', bindFreeState.readForCmd 0 0 bindConnCmd 0x2000 64 = (.bytes l, s') ∧ bv (wordAt l 0) 12 4 = 2
    ∧ bv (wordAt l 0) 0 5 = 0 ∧ s'.holdsHandle region0 (bv (wordAt l 0) 16 16) = true ∧ s'.handleBusy (bv (wordAt l 0) 16 16) = false :=
  ⟨_, _, rfl, by decide, by decide, by decide, by decide⟩

/-! ## Stores to control addresses -/

/-- RegisterWritesAct: the store of a doubleword to AFLG of core 0, which has reached it. -/
def regCmd : Cmd := cmd0 (.core 0) (.st 2 1 3 0 0 0) 0x0010 0
theorem witness_regWrite : CmdAt (atUnit (coreBase core0) regCmd) 0 regCmd (.core 0) ∧ CoreOpen (atUnit (coreBase core0) regCmd) 0
    ∧ Idle core0 ∧ regCmd.a.toNat % 65536 = 0x0010 := ⟨⟨rfl, rfl, rfl⟩, open0 _ _ rfl, rfl, by decide⟩

end Sys2Proof.Tests
end

