-- ==== Sys2Proof/Tests/Witness3.lean ====
section
/-! SUPPORT. Small states that meet the hypotheses of the statements about stages, firings, routers and probes, one named witness for each set of
hypotheses. -/

namespace Sys2Proof.Tests

-- One after another: a check by the kernel waits for every earlier one, and each waiting check would hold a thread of its own.
set_option Elab.async false

open Sys2Proof Sys2Proof.Machine Sys2Proof.Claims

/-! ## A firing at a stage -/

/-- Windows 0 and 1 of 32 words, windows 4 and 5 of four beats, all ordinary; window 6 of words that firings fill. -/
def wdescs1 : Vector Word 16 :=
  (((((Vector.replicate 16 0).set 0 0x8800004004000000).set 1 0x8800004008000000).set 4 0xA800000810000000).set 5 0xA880000818000000).set 6 0x9000004020000000

def full (n : Nat) : WinState := ⟨0, n, 0, 0, none, none⟩
/-- A beat of one lane that ends its graph's stream. -/
def endBeat (x : Lane) : Beat := ⟨(Vector.replicate 16 0).set 0 x, 1, 3, 0⟩

/-- A record that window 4 triggers, with taps 0 to 4 on windows 0, 1, 4, 5 and 6. -/
def rec0 : HandlerRec := (((Vector.replicate 12 0).set 0 0x80800040).set 7 0x10000000).set 8 0x50004000 |>.set 9 0x6000

def core1 : Core :=
  { ({ Core.init with
        wdesc := wdescs1
        wstate := ((((Vector.replicate 16 WinState.init).set 0 (full 32)).set 1 (full 32)).set 4 (full 1)).set 5 (full 1)
        active := (Vector.replicate 8 (Vector.replicate 12 0)).set 0 rec0
        switches := [0x4000] } : Core).storeBeat 256 (endBeat 3) with stop := false }

/-- A firing of slot 0 at its first stage. -/
def fire0 : Firing :=
  { slot := 0, iter := 0, stage := 1, sent := 0, vals := Vector.replicate 6 none, fixedShrinks := [], shrinks := [], aflg := 0, cwarn := 0,
    exits := false, setMask := false, hold := none }

/-- The stages of some firings are about to run, the last of them. -/
def stageState (l : List Firing) : State :=
  { coreBase { core1.storeBeat 384 (endBeat 5) with pipe := l } with focus := .stage 0 (l.length - 1) }

/-- Fields whose operands are the lane numbers, with a port as destination. -/
def f0 (a b c : BitVec 5) : StageFields := ⟨a, b, c, 0, 0, 1, 0⟩

/-- Computes, Leaves, Accumulates and `nop`: a firing alone in the pipeline, for every opcode. -/
theorem witness_StageRuns (op : BitVec 6) :
    StageRuns (stageState [fire0]) 0 0 fire0 op (f0 24 24 24)
      ((seen (stageState [fire0]) 0 0 fire0 (f0 24 24 24)).operandsOf op.toNat) :=
  ⟨⟨rfl, rfl, by decide, ⟨by decide, by decide⟩⟩, fun _ h => (nomatch (show _ ∈ ([] : List Firing) from h)), rfl, by revert op; decide +kernel⟩

/-- A firing behind an older one. -/
theorem witness_StageRuns_second :
    StageRuns (stageState [{ fire0 with stage := 2 }, fire0]) 0 1 fire0 4 (f0 24 24 31)
      ((seen (stageState [{ fire0 with stage := 2 }, fire0]) 0 1 fire0 (f0 24 24 31)).operandsOf 4) :=
  ⟨⟨rfl, rfl, by decide, ⟨by decide, by decide⟩⟩, by decide +kernel, rfl, by decide +kernel⟩

/-- A stage of a younger firing that must wait: it reads window 5 by tap 3, which a `wupd` of the older firing, still at its first stage, writes. -/
def waitRec : HandlerRec := rec0.set 6 (stageWord 0x3A (f0 11 24 31))
def waitState : State :=
  let s := stageState [fire0, { fire0 with stage := 2 }]
  s.setCore 0 { s.core 0 with active := (s.core 0).active.set 0 waitRec }
theorem witness_older : ((waitState.core 0).pipe.take 1).any (fun g => (waitState.core 0).mustWait (waitState.core 0).active[(0 : Fin 8)]
    (stageWord 4 (f0 11 24 31)) (waitState.core 0).active[g.slot] g.stage) = true := by decide +kernel

/-- The result of such a stage is delivered. -/
theorem witness_gives : (core1.badRead []) = none ∧ (core1.deliverAll [(.port 0, endBeat 3)]).2.2.2 = none := by decide

/-- EveryShapeSumsWrappingIntegers: an empty section. -/
theorem witness_shapes : (seen (stageState [fire0]) 0 0 fire0 ⟨24, 24, 31, 4, 0, 7, 0⟩).core.dyn[(0 : Fin 8)].sections[0]?.getD AccSection.empty
    = AccSection.empty ∧ (4 : BitVec 3) = 4 ∧ (0 : BitVec 4).toNat % 4 = 0 := by decide

/-- `merge`, `join`, `wupd`, `shrink` and `wcnt` name windows by their taps. -/
theorem witness_merge : codeWin rec0 8 = some 0 ∧ codeWin rec0 9 = some 1
    ∧ ((seen (stageState [fire0]) 0 0 fire0 (f0 24 8 9)).replay 0 1 [true, false, true] ⟨[], ⟨0, 0, 0⟩, ⟨0, 0, 0⟩, [], 0⟩).toOption.isSome = true := by
  decide +kernel
theorem witness_join : codeWin rec0 10 = some 4 ∧ codeWin rec0 11 = some 5 ∧ wdBeat ((stageState [fire0]).core 0 |>.desc 4) = true
    ∧ wdBeat ((stageState [fire0]).core 0 |>.desc 5) = true
    ∧ (match (seen (stageState [fire0]) 0 0 fire0 ⟨10, 11, 16, 0, 0, 1, 4⟩).joinFiring 4 5 Branch.init ⟨0, false, 0, 0, false⟩ 1 0 with
       | .out _ => true | _ => false) = true := by
  decide +kernel
/-- A window of words is no input of a `join`. -/
theorem witness_join_narrow : codeWin rec0 8 = some 0 ∧ core1.narrow 0 = true ∧ core1.narrow 4 = false ∧ core1.narrow 5 = false := by decide
/-- An input whose first key is 1, behind a key of 5. -/
def late0 (w : Win) : JoinSide := ⟨w, [⟨0, endBeat 1, [], 0⟩], none, 0, 0, 0, some 5, 0, 0⟩
theorem witness_join_strict : (late0 4).ended = some false ∧ ((late0 4).use.reach 0 false).2 = true
    ∧ ({ late0 5 with last := none } : JoinSide).ended = some false ∧ (({ late0 5 with last := none } : JoinSide).use.reach 0 false).2 = false := by
  decide +kernel
theorem witness_wupd_reserved : ((seen (stageState [fire0]) 0 0 fire0 (f0 8 24 31)).updateLanes (tapOf rec0 0) 7 (fun _ => 0) (fun _ => 1)
    (List.range 16) ⟨[], [], 0, 0, []⟩).toOption.isSome = true := by decide +kernel
theorem witness_wupd : tapCode 8 = some 0 ∧ ((seen (stageState [fire0]) 0 0 fire0 (f0 8 24 31)).updateLanes (tapOf rec0 0) 0 (fun _ => 0) (fun _ => 1)
    (List.range 16) ⟨[], [], 0, 0, []⟩).toOption.isSome = true := by decide +kernel
theorem witness_shrink_wcnt : codeWin rec0 8 = some 0 ∧ core1.ordinary 0 = true ∧ wdBound (core1.desc 0) = true := by decide
theorem witness_shrink_absent : ((seen (stageState [fire0]) 0 0 fire0 (f0 8 31 31)).operandsOf 0x3C).b.present = false := by decide
theorem witness_shrink_present : ((seen (stageState [fire0]) 0 0 fire0 (f0 8 24 31)).operandsOf 0x3C).b.present = true := by decide

/-- StageWaitsForItsElements: window 6 holds no element. -/
theorem witness_StageWaits : ((seen (stageState [fire0]) 0 0 fire0 (f0 12 24 31)).operandsOf 0x04).wait = some 6 := by decide

/-! ## Issue and completion -/

def issueState (c : Core) : State := coreBase { c with pipe := [] }

theorem openCore (s : State) (n : Nat) (h : (s.core n).stop = false) (r : Region) (hr : s.regionOfCore n = some r)
    (h1 : r.freezing = false) (h2 : r.frozen = false) (h3 : r.checkpoint = none) (h4 : r.drain = none) : CoreOpen s n :=
  ⟨h, fun r' hr' => by rw [hr] at hr'; cases hr'; exact ⟨h1, h2, h3, h4⟩⟩

/-- FiringIssues: a trigger of beats, whose head beat reads as it stands, and a trigger of words. -/
theorem witness_issue_free : SlotFree (issueState core1) 0 ∧ (issueState core1).slotClaimed 0 = false ∧ (issueState core1).coreStopping 0 = false
    ∧ core1.unsettled 0 = false ∧ ∀ f ∈ ([] : List Firing), 2 ≤ f.stage :=
  ⟨fun h => (nomatch (show none = some _ from h)), by decide +kernel, by decide +kernel, by decide +kernel, fun _ h => nomatch h⟩
/-- The control word of the head beat is beyond correction. -/
theorem witness_issue_bad : ({ core1 with badStore := [272] } : Core).badRead [(272, 4)] = some (272, 4)
    ∧ ({ core1 with badStore := [272] } : Core).headBeat core1.active[(0 : Fin 8)] = some (endBeat 3, 256) := by decide +kernel
theorem witness_issue_beat : CoreOpen (issueState core1) 0 ∧ (issueState core1).select 0 = some 0 ∧ core1.pipe.length < 6
    ∧ core1.headBeat core1.active[(0 : Fin 8)] = some (endBeat 3, 256) ∧ core1.badRead [(272, 4)] = none :=
  ⟨openCore _ _ rfl region0 rfl rfl rfl rfl rfl, by decide +kernel, by decide, by decide +kernel, by decide⟩
/-- The record, triggered by window 0, with a heavy stage. -/
def rec1 : HandlerRec := (rec0.set 0 0x80000040).set 1 0x1AC06000
def core2 : Core := { core1 with active := (Vector.replicate 8 (Vector.replicate 12 0)).set 0 rec1 }
theorem witness_issue_word : (issueState core2).select 0 = some 0 ∧ wdBeat (core2.desc (h0Trig rec1)) = false := by decide +kernel
theorem witness_issue_heavy : heavyRec (rec1.set 1 0x5AC06000) = true := by decide
theorem witness_select : (issueState core1).select 0 = some 0 := by decide +kernel

theorem witness_complete : (stageState [{ fire0 with stage := 7 }]).coreFrozen 0 = false
    ∧ ((stageState [{ fire0 with stage := 7 }]).core 0).pipe = [{ fire0 with stage := 7 }] := ⟨rfl, rfl⟩

/-! ## Routers and links -/

/-- A beat staged at port 0 of core 0, link 0, under a switch word. -/
def routed (x : BitVec 16) : State := coreBase { core0 with switches := [x], staging := [⟨4, 0, endBeat 3⟩] }

theorem witness_route : (routed 0x4400).routerStill 0 = false ∧ ((routed 0x4400).core 0).stagedBeat 4 0 = some (endBeat 3)
    ∧ ((routed 0x4400).core 0).switch? 4 0 = some 0x4400 ∧ maskDirs (effectiveMask 0x4400) = [.east] ∧ maskLocal (effectiveMask 0x4400) = false
    ∧ (routed 0x4400).neighbour 0 .east = some 1 ∧ (routed 0x4400).sideTakes 1 .west 0 = true := by decide +kernel
/-- A switch word with two outputs, of which one can take the beat, and the neighbour has no word for it. -/
theorem witness_route_two : (maskDirs (effectiveMask 0x4601)).length = 2 := by decide +kernel
theorem witness_route_local : maskLocal (effectiveMask 0x4482) = true ∧ maskDirs (effectiveMask 0x4482) = [.east]
    ∧ (((routed 0x4482).core 0).unstage 4 0).fillLocal 0 (endBeat 3) ≠ none := by decide +kernel
theorem witness_noroute : ((routed 0x4400).core 1).switch? (dirCode (opposite .east)) 0 = none := by decide +kernel
theorem witness_term : effectiveMask 0x4003 = 0 := by decide
theorem witness_local : effectiveMask 0x4080 = 1 ∧ (((routed 0x4080).core 0).unstage 4 0).linkWin 0 = some 2
    ∧ ((((routed 0x4080).core 0).unstage 4 0).fillBeat 2 (endBeat 3)).isSome = true := by decide +kernel
theorem witness_noWindow : (((routed 0x4080).core 0).unstage 4 5).linkWin 5 = none := by decide +kernel
theorem witness_swapPort : ({ core0 with swapPorts := (Vector.replicate 4 false).set 0 true, switches := [0x4080] } : Core).portLink 0 = some 0
    ∧ ((Vector.replicate 4 false).set 0 true)[(0 : Fin 4)] = true ∧ ({ core0 with switches := [0x4080] } : Core).staged 4 0 = false := by decide

theorem witness_storeError : core0.softStore.contains 5 = false ∧ core0.badStore.contains 5 = false
    ∧ ({ core0 with softStore := [5] } : Core).softStore.contains 5 = true := by decide
theorem witness_link : base.deadLinks.contains (.fabric 0 .east) = false
    ∧ 3 ≤ ({ base with linkFails := [(.fabric 0 .east, 3)] } : State).failsOf (.fabric 0 .east) := by decide

/-! ## Commands as events of their units -/

theorem witness_Next_core (i : Instr) (a b : Word) :
    Next (atUnit (coreBase core0) (cmd0 (.core 0) i a b)) (.core 0) 0 0 (cmd0 (.core 0) i a b) := ⟨rfl, rfl, rfl⟩
theorem witness_Next_die (i : Instr) (a b : Word) :
    Next (atUnit (coreBase core0) (cmd0 (.die 0) i a b)) (.die 0) 0 0 (cmd0 (.die 0) i a b) := ⟨rfl, rfl, rfl⟩
theorem witness_IsStore : IsStore regCmd ∧ regCmd.a.toNat % 65536 = 0x10 := ⟨⟨2, 1, 3, 0, 0, 0, rfl⟩, by decide⟩

/-! ## Probes -/

/-- Core 0 of a region, blocked: its firing waits for window 6, which its own firings fill. -/
def blocked (r : Region) (l : List Probe) : State :=
  { coreBase { core1 with pipe := [{ fire0 with hold := some (.read 6) }] } with now := 65536, regions := [r], probes := l }

theorem witness_probe_send : (blocked region0 []).regionOfCore 0 = some region0 ∧ ((blocked region0 []).core 0).probeSent = false
    ∧ (blocked region0 []).coreBlocked 0 = true
    ∧ (((blocked region0 []).setCore 0 { (blocked region0 []).core 0 with probeSent := true }).advanceProbe region0 ⟨0, 0, 0, [], [0]⟩).isSome = true := by
  decide +kernel
/-- A probe at a core that is not blocked. -/
theorem witness_probe_dropped : (coreBase core0).coreBlocked 0 = false := by decide +kernel
/-- A probe of core 1 that has come to core 0. -/
theorem witness_probe_forwarded : (blocked region2 []).regionOfCore 1 = some region2 ∧ (blocked region2 []).coreBlocked 0 = true
    ∧ ((blocked region2 []).advanceProbe region2 ⟨1, 0, 0, [5], [0, 1]⟩).isSome = true := by decide +kernel
/-- No probe waits while no link has stopped. -/
theorem witness_probe_goes (p : Probe) : (blocked region2 []).probeWaits p = false := rfl
/-- A probe that is back at its origin, the lowest core it has passed. -/
theorem witness_probe_back : (⟨0, 0, 0, [5], [0]⟩ : Probe).at_ = 0 ∧ (⟨0, 0, 0, [5], [0]⟩ : Probe).lowest = 0 := by decide

end Sys2Proof.Tests
end

