-- ==== Sys2Proof/Tests/Witness4.lean ====
section
/-! SUPPORT. Small states that meet the hypotheses of the statements about edge slots, one named witness for each set of hypotheses. -/

namespace Sys2Proof.Tests

-- One after another: a check by the kernel waits for every earlier one, and each waiting check would hold a thread of its own.
set_option Elab.async false

open Sys2Proof Sys2Proof.Machine Sys2Proof.Claims

/-- A pattern: its kind, format and base, its windows, its completion word, and one dimension of n elements of 4 bytes. -/
def pattern (kind fmt base : Nat) (wins completion : Word) (n lim : Nat) : Vector Word 8 :=
  ((((Vector.replicate 8 0).set 0 (BitVec.ofNat 64 (kind * 2 ^ 60 + fmt * 2 ^ 56 + base))).set 1 wins).set 2 completion).set 3
    (BitVec.ofNat 64 ((n - 1) * 2 ^ 47 + lim * 2 ^ 32 + 4))

def runSlot (p : Vector Word 8) : EdgeSlot := { EdgeSlot.init with pattern := p, state := .running }

/-- Slot 0 of core 0 of the small module. -/
def edgeState (e : EdgeSlot) : State := coreBase (coreWith e)

theorem edgeRunsAt (e : EdgeSlot) (h1 : e.state = .running) (h2 : e.waitFlip = false ∧ e.parked = false) : EdgeRuns (edgeState e) 0 0 :=
  ⟨h1, h2, region0, rfl, rfl, rfl, rfl⟩
theorem edgeRuns0 (p : Vector Word 8) : EdgeRuns (edgeState (runSlot p)) 0 0 := edgeRunsAt _ rfl ⟨rfl, rfl⟩

/-! ## Loads -/

def load0 : EdgeSlot := runSlot (pattern 0 0 0x1000 0 0 16 0)
theorem witness_LoadGoes : LoadGoes load0 := ⟨by decide, rfl, rfl, rfl⟩

theorem witness_Loading : Loading load0 ∧ load0.fetches = [] ∧ clippedHere load0 = false :=
  ⟨⟨witness_LoadGoes, by decide, fun h => absurd h (by decide), fun h => absurd h (by decide)⟩, rfl, by decide⟩
theorem witness_Loading_gather : Loading { runSlot (pattern 2 0 0x1000 0 0 16 0) with token := some 0 } :=
  ⟨⟨by decide, rfl, rfl, rfl⟩, by decide, fun _ => rfl, fun h => absurd h (by decide)⟩
theorem witness_load_issue : ∃ ps s', (edgeState load0).edgeFetch 0 0 (load0.elementPieces (load0.place load0.cursor 0) 0) = (.ok ps, s')
    ∧ load0.bp = false := ⟨_, _, rfl, by decide⟩
theorem witness_load_clipped : clippedHere { runSlot (pattern 0 0 0x1000 0 0 16 1) with cursor := (Vector.replicate 5 0).set 0 1 } = true := by decide
def far0 : EdgeSlot := runSlot (pattern 0 0 0x40000000 0 0 16 0)
theorem witness_load_fault : ∃ s', (edgeState far0).edgeFetch 0 0 (far0.elementPieces (far0.place far0.cursor 0) 0) = (.error (2, 0x40000000), s') :=
  ⟨_, rfl⟩
/-- An element whose load has performed, is still out, or has met a word beyond correction. -/
def fetching (l : List LoadPart) : EdgeSlot := { load0 with fetches := [⟨Vector.replicate 5 0, 0, [⟨7, 0x1000, 4, l⟩]⟩] }
theorem witness_deliver : gatherPieces [⟨7, 0x1000, 4, [⟨0, 4, .value 5 true⟩]⟩] = .value 5 true
    ∧ gatherPieces [⟨7, 0x1000, 4, [⟨0, 4, .bad⟩]⟩] = .bad 0x1000 ∧ gatherPieces [⟨7, 0x1000, 4, []⟩] = .waits
    ∧ (match (fetching []).beyond 0 with | .element _ _ => true | _ => false) = true := by decide +kernel
/-- The last element of the run is in flight: nothing comes behind it. -/
theorem witness_deliver_last : (match ({ fetching [] with fetches := [⟨(Vector.replicate 5 0).set 0 15, 0, [⟨7, 0x103C, 4, []⟩]⟩] } : EdgeSlot).beyond 0 with
    | .nothing => true | _ => false) = true := by decide +kernel
/-- An element of BP8 with one plane of eight. -/
theorem witness_load_planes : ∃ k s0, (runSlot (pattern 0 9 0x1000 0 0 16 0)).bp = true
    ∧ (edgeState (runSlot (pattern 0 9 0x1000 0 0 16 0))).planesFor 0 0 ((runSlot (pattern 0 9 0x1000 0 0 16 0)).groupAddr
      ((runSlot (pattern 0 9 0x1000 0 0 16 0)).place (runSlot (pattern 0 9 0x1000 0 0 16 0)).cursor 0)) = (k, s0) := ⟨_, _, by decide, rfl⟩

/-- A ragged run of two rows, with its row pointers from 0x3000 on. -/
def ragged0 : EdgeSlot := runSlot (((pattern 5 0 0x1000 0 0 1 0).set 4 0x0000800000000000).set 2 0x600)
theorem witness_ragged : LoadGoes ragged0 ∧ ragged0.kind = 5 ∧ ragged0.rowHi = none ∧ ragged0.pointers = [] := ⟨⟨by decide, rfl, rfl, rfl⟩, rfl, rfl, rfl⟩
theorem witness_ragged_fetch : ∃ ps s', (edgeState ragged0).edgeFetch 0 0 ragged0.pointerPieces = (.ok ps, s') := ⟨_, _, rfl⟩
theorem witness_ragged_pointers : gatherPieces [⟨7, 0x3000, 4, [⟨0, 4, .value 2 true⟩]⟩, ⟨8, 0x3004, 4, [⟨0, 4, .value 5 true⟩]⟩]
    = .value (2 + 5 * 2 ^ 32) true := by decide +kernel
theorem witness_ragged_row : ({ ragged0 with rowLo := some 2, rowHi := some 5 } : EdgeSlot).tiled = false
    ∧ 0 < ((BitVec.ofNat 32 5).toInt - (BitVec.ofNat 32 2).toInt).toNat
    ∧ ((BitVec.ofNat 32 5).toInt - (BitVec.ofNat 32 5).toInt).toNat = 0 := by decide

/-- A closed beat of one lane. -/
def closed0 : EdgeSlot := { load0 with partialBeat := ⟨Vector.replicate 16 0, 1, 0, 0⟩, closed := true }
theorem witness_load_fill : ∃ u', (coreWith closed0).edgeFill 0 = some u' ∧ (u'.edge[(0 : Fin 4)]).loadOver = false := ⟨_, rfl, by decide⟩
theorem witness_load_fill_last : ∃ u', (coreWith { closed0 with finished := true }).edgeFill 0 = some u'
    ∧ (u'.edge[(0 : Fin 4)]).loadOver = true := ⟨_, rfl, by decide⟩
theorem witness_load_end : ({ load0 with finished := true } : EdgeSlot).loadOver = true ∧ load0.loadKind = true := by decide
/-- A load of one tile for each row of two elements: its first tile opens with SOT, the next one with a permit. -/
def tiled0 (permit : Word) : EdgeSlot := runSlot ((pattern 0 0 0x1000 permit 0 2 0).set 3 0x8000800000000004)
theorem witness_tile : (tiled0 0).tiled = true ∧ (tiled0 0).tileOpen = false ∧ (tiled0 0).wantsPermit = false
    ∧ ({ tiled0 1 with firstTile := false } : EdgeSlot).wantsPermit = true := by decide

/-! ## Stores -/

def store0 : EdgeSlot := runSlot (pattern 1 0 0x1000 0 0 2 0)
theorem storing0 (e : EdgeSlot) (h : e.storeKind = true) (h1 : e.finished = false) (h2 : e.byToken = false) (h3 : e.mayIssue = true) : Storing e :=
  ⟨h, h1, fun x => absurd x (by simp [h2]), h3⟩
theorem witness_Storing : Storing store0 ∧ store0.bp = false ∧ store0.packed = false ∧ clippedHere store0 = false
    ∧ store0.passed.contains store0.visited = false :=
  ⟨storing0 _ rfl rfl (by decide) (by decide), by decide, by decide, by decide, by decide⟩
theorem witness_store_value : (coreWith store0).nextValues 0 1 = (some [0], [(64, 0)]) ∧ (coreWith store0).badRead [(64, 0)] = none := by decide +kernel
theorem witness_store_places : ∃ fs s', (readStore (edgeState store0) 0 [(64, 0)]).edgePlaces 0 0 true [0x1000] = (.ok fs, s') := ⟨_, _, rfl⟩
theorem witness_store_fault : ∃ s', (readStore (edgeState (runSlot (pattern 1 0 0x200000 0 0 2 0))) 0 [(64, 0)]).edgePlaces 0 0 true [0x200000]
    = (.error (2, 0x200000), s') := ⟨_, rfl⟩
/-- A packed store of one LW36 element. -/
def packed0 : EdgeSlot := runSlot (pattern 1 8 0x1000 0 0 1 0)
theorem witness_packed : Storing packed0 ∧ packed0.packed = true ∧ packed0.bp = false
    ∧ ((coreWith packed0).nextValues 0 (packed0.unitSize packed0.unitStart - packed0.packBuf.length)).1.isSome = true :=
  ⟨storing0 _ rfl rfl (by decide) (by decide), by decide, by decide, by decide +kernel⟩
/-- A store of a row of one element in bit planes, with its maxima in window 1. -/
def quant0 : EdgeSlot := runSlot (pattern 1 9 0x1000 0x0100000000000000 0 1 0)
theorem witness_quantise : Storing quant0 ∧ quant0.bp = true ∧ quant0.blockMax (quant0.blockNumber quant0.unitStart) = none
    ∧ (coreWith quant0).headOffset quant0.iwin = some 0 ∧ quant0.maxima.length < maximaRoom :=
  ⟨storing0 _ rfl rfl (by decide) (by decide), by decide, by decide, by decide +kernel, by decide⟩
def quantMax : EdgeSlot := { quant0 with maximaTaken := 1, maxima := [5] }
theorem witness_quantise_max : quantMax.blockMax (quantMax.blockNumber quantMax.unitStart) = some 5
    ∧ ((coreWith quantMax).nextValues 0 (quantMax.unitSize quantMax.unitStart - quantMax.packBuf.length)).1.isSome = true := by decide +kernel

/-! ## Tokens and completion -/

theorem witness_tokens_core (e : EdgeSlot) : ∃ r, (edgeState e).regionOfCore 0 = some r ∧ r.freezing = false ∧ r.frozen = false ∧ r.checkpoint = none :=
  ⟨region0, rfl, rfl, rfl, rfl⟩
theorem witness_acquire : ((coreWith { load0 with state := .waitAcquire }).headOffset load0.dwin).isSome = true ∧ load0.waitFlip = false
    ∧ load0.parked = false := by decide +kernel
theorem witness_permit : ((coreWith { load0 with state := .waitPermit }).headOffset load0.iwin).isSome = true := by decide +kernel
def gather0 : EdgeSlot := runSlot (pattern 2 0 0x1000 0 0 2 0)
theorem witness_gather : gather0.wantsToken = true ∧ gather0.storeKind = false ∧ gather0.rowToken gather0.rowNow = none
    ∧ gather0.rowTokens.length < gather0.tokenRoom ∧ (coreWith gather0).laneAhead gather0.iwin gather0.iLaneUsed 0 = (some ⟨0, 0, 0⟩, [(64, 0)])
    ∧ gather0.tokenAhead = none ∧ gather0.tokenOut 0 = false := by decide +kernel
/-- The token of the next row has been read ahead. -/
theorem witness_gather_ahead : ({ gather0 with tokenAhead := some 3 } : EdgeSlot).wantsToken = true
    ∧ ({ gather0 with tokenAhead := some 3 } : EdgeSlot).rowToken 0 = none ∧ ({ gather0 with tokenAhead := some 3 } : EdgeSlot).clipSkip = false := by
  decide +kernel
def scatter0 : EdgeSlot := runSlot (pattern 3 0 0x1000 0 0 2 0)
theorem witness_scatter_kept : ({ scatter0 with tokensTaken := 1, rowTokens := [3] } : EdgeSlot).wantsToken = true
    ∧ ({ scatter0 with tokensTaken := 1, rowTokens := [3] } : EdgeSlot).rowToken 0 = some 3 := by decide +kernel
def quantScatter : EdgeSlot := runSlot (pattern 3 9 0x1000 0x0100000000000000 0 1 0)
theorem witness_scatter : quantScatter.wantsToken = true ∧ (quantScatter.storeKind && quantScatter.bp) = true
    ∧ quantScatter.rowToken quantScatter.rowNow = none ∧ quantScatter.tokenAhead = none ∧ quantScatter.rowTokens.length < quantScatter.tokenRoom
    ∧ (coreWith quantScatter).headOffset quantScatter.iwin = some 0 := by decide +kernel

/-- A store run that is over, with a completion into window 0, or to a sequencer. -/
def over0 (completion : Word) : EdgeSlot := { runSlot (pattern 1 0 0x1000 0 completion 2 0) with finished := true }
/-- The core once what has performed is freed. -/
def overCore (completion : Word) : Core := ((edgeState (over0 completion)).storeFree 0 0).core 0
theorem witness_completion : EdgeRuns (edgeState (over0 0x0140000000000000)) 0 0 ∧ (overCore 0x0140000000000000).edge[(0 : Fin 4)].state = .running
    ∧ (overCore 0x0140000000000000).edge[(0 : Fin 4)].storeOver = true ∧ (overCore 0x0140000000000000).edge[(0 : Fin 4)].dv = true
    ∧ (overCore 0x0140000000000000).edge[(0 : Fin 4)].tokenPending = false ∧ (overCore 0x0140000000000000).edge[(0 : Fin 4)].dscope = 2
    ∧ (overCore 0x0140000000000000).edge[(0 : Fin 4)].dseq = false
    ∧ ((overCore 0x0140000000000000).fillBeat (overCore 0x0140000000000000).edge[(0 : Fin 4)].dwin ⟨Vector.replicate 16 0, 1, 0, 0⟩).isSome = true :=
  ⟨edgeRunsAt _ rfl ⟨rfl, rfl⟩, by decide +kernel, by decide +kernel, by decide +kernel, by decide +kernel,
    by decide +kernel, by decide +kernel, by decide +kernel⟩
/-- DSCOPE 8 is that of the network: no network word of the region is on its way. -/
theorem witness_completion_net : 8 ≤ (overCore 0x0440000000000000).edge[(0 : Fin 4)].dscope
    ∧ ((edgeState (over0 0x0440000000000000)).storeFree 0 0).netWords region0 = false := by decide +kernel
theorem witness_completion_seq : (overCore 0x8140000000000000).edge[(0 : Fin 4)].dseq = true := by decide +kernel

def translate0 : EdgeSlot := { runSlot (pattern 6 0 0x1000 0 0 1 0) with token := some 3 }
theorem witness_translation : EdgeRuns (edgeState translate0) 0 0 ∧ translate0.kind = 6 ∧ translate0.tiled = false
    ∧ translate0.clipped translate0.cursor = false := ⟨edgeRunsAt _ rfl ⟨rfl, rfl⟩, rfl, by decide, by decide⟩

/-- The token of a translation run whose address has a translation. -/
theorem witness_translation_word : ∃ w s', (edgeState translate0).translationWord 0 0 ((translate0.base : Int) + (3 : Lane).toInt * translate0.stride 0)
    = (some w, s') := ⟨_, _, rfl⟩
theorem witness_erase_clipped : clippedHere { runSlot (pattern 7 0 0x400000 0 0 2 1) with cursor := (Vector.replicate 5 0).set 0 1 } = true := by decide

def erase0 : EdgeSlot := runSlot (pattern 7 0 0x400000 0 0 2 0)
theorem witness_erase : ∃ f s', erase0.kind = 7 ∧ erase0.mayIssue = true ∧ erase0.clipped erase0.cursor = false
    ∧ erase0.passed.contains erase0.visited = false
    ∧ (edgeState erase0).edgeTranslate 0 0 (erase0.addr (erase0.place erase0.cursor 0)) true = (.ok f, s') ∧ f.tr.vug = true :=
  ⟨_, _, rfl, by decide, by decide, by decide, rfl, rfl⟩

/-- A store to an address whose access failed, and is to be made again. -/
def failed0 (va : Nat) : Access :=
  { id := 7, source := .edge 0 0, op := .store, va := va, place := .floor va, size := 4, data := [1, 2, 3, 4], aq := false, rl := false, tag := 0, code := 0 }
def held0 (va : Nat) : EdgeSlot :=
  { store0 with state := .withholding, retryDue := true, faultAddr := BitVec.ofNat 64 va, withheldSince := some 0, failed := [failed0 va] }
def retried0 (va : Nat) : State :=
  ((edgeState (held0 va)).setEdge 0 0 { held0 va with retryDue := false, failed := [] }).dropLatches 0 0 [(held0 va).faultAddr.toNat, va]
theorem witness_retry : ∃ f s', (held0 0x1000).failed = [failed0 0x1000] ∧ (held0 0x1000).loadKind = false ∧ (held0 0x1000).blocked = false
    ∧ (retried0 0x1000).edgeTranslate 0 0 (0x1000 : Nat) true = (.ok f, s') := ⟨_, _, rfl, by decide, rfl, rfl⟩
theorem witness_retry_again : ∃ s', (retried0 0x40000000).edgeTranslate 0 0 (0x40000000 : Nat) true = (.error 2, s') := ⟨_, rfl⟩
theorem witness_withhold : (edgeState (held0 0x1000)).regionOfCore 0 = some region0 ∧ (held0 0x1000).withheldSince = some 0
    ∧ region0.checkpoint = none ∧ region0.stopping = false ∧ region0.drain = none
    ∧ 0 + 16 * ((edgeState (held0 0x1000)).seq region0.owner).echoi.toNat ≤ 0x100000 := ⟨rfl, rfl, rfl, rfl, rfl, by decide⟩

end Sys2Proof.Tests
end

