-- ==== Sys2Proof/Tests/Witness5.lean ====
section
/-! SUPPORT. Small states that meet the hypotheses of the statements about blocks, arrivals, the floor and regions, one named witness for each set of
hypotheses. -/

namespace Sys2Proof.Tests

-- One after another: a check by the kernel waits for every earlier one, and each waiting check would hold a thread of its own.
set_option Elab.async false

open Sys2Proof Sys2Proof.Machine Sys2Proof.Claims

/-! ## Blocks and traps -/

/-- A sequencer between two blocks. -/
def rest0 : Seq := { seq0 with blk := none }
def restState (v : Seq) : State := { base with focus := .none, seqs := [(0, v)] }
/-- Memory at the PC holds the header of a block of one word, which is `nop`. -/
def codeState : State := (restState rest0).writeBytes 0 (leBytes 4 0xFC000000)

theorem between0 (v : Seq) (h1 : v.region.isSome = true ∧ v.halted = false ∧ v.doubleTrapped = false ∧ v.frozen = false) (h2 : v.settled = true)
    (h3 : (restState v).resumed 0 = true) (h4 : v.blk = none) : Between (restState v) 0 := ⟨h1, h2, h3, h4⟩

theorem witness_Between : Between codeState 0 ∧ codeState.regionOfSeq 0 = some region0 ∧ (codeState.seq 0).wait = .none ∧ (codeState.seq 0).eie = false
    ∧ (codeState.seq 0).tl = false := ⟨⟨⟨rfl, rfl, rfl, rfl⟩, rfl, rfl, rfl⟩, rfl, rfl, rfl, rfl⟩
theorem witness_block : ∃ s1 words s2, (codeState.seq 0).pc.toNat % 4 = 0 ∧ codeState.ownStores 0 0 4 = false
    ∧ codeState.fetchCode 0 0 0 = (.word 0xFC000000, s1) ∧ (0xFC000000 : Code).toNat / 2 ^ 26 % 64 = 0x3F ∧ s1.ownStores 0 4 4 = false
    ∧ s1.fetchCodes 0 0 4 1 [] = (.ok words, s2) := ⟨_, _, _, rfl, rfl, rfl, by decide, rfl, rfl⟩
/-- Memory of zeros holds no header. -/
theorem witness_noHeader : ∃ s1, (restState rest0).fetchCode 0 0 0 = (.word 0, s1) ∧ (0 : Code).toNat / 2 ^ 26 % 64 ≠ 0x3F ∧ (s1.seq 0).tl = false :=
  ⟨_, rfl, by decide, rfl⟩
/-- The header is not mapped. -/
theorem witness_block_trap : ∃ cause s1, ((restState { rest0 with pc := 0x40000000 }).seq 0).pc.toNat % 4 = 0
    ∧ (restState { rest0 with pc := 0x40000000 }).ownStores 0 0x40000000 4 = false
    ∧ (restState { rest0 with pc := 0x40000000 }).fetchCode 0 0 0x40000000 = (.trap cause 0x40000000, s1) := ⟨_, _, rfl, rfl, rfl⟩
theorem witness_unalignedPc : ((restState { rest0 with pc := 2 }).seq 0).pc.toNat % 4 ≠ 0 := by decide

theorem witness_async : TrapsNow { rest0 with eie := true, pendVug := some 5 } ∧ ({ rest0 with eie := true, pendVug := some 5 } : Seq).settled = true :=
  ⟨⟨⟨rfl, rfl, rfl, rfl⟩, ⟨rfl, rfl⟩, rfl, fun _ h => nomatch h⟩, rfl⟩
/-- A committed block waits for its fence, and a trap is pending. -/
def fenced0 : Seq :=
  { rest0 with eie := true, pendVug := some 5, items := [.access ⟨7, .seq 0, .store, 0x1000, .floor 0x1000, 8, List.replicate 8 5, false, false, 0, 0, 0, false⟩]
               outbox := [⟨9, 0, .fence 6, []⟩] }
theorem witness_async_fence : TrapsNow fenced0 ∧ fenced0.settled = false ∧ ((restState fenced0).suspend 0 |>.seq 0).eie = true
    ∧ ((restState fenced0).suspend 0 |>.seq 0).tl = false :=
  ⟨⟨⟨rfl, rfl, rfl, rfl⟩, ⟨rfl, rfl⟩, by decide +kernel, fun _ h => nomatch h⟩, by decide +kernel, by decide +kernel, by decide +kernel⟩
/-- A block in issue that does not wait. -/
theorem witness_async_late : blk0.waiting = false := rfl
theorem witness_wake_trap : ({ rest0 with wait := .wfe, pendFloor := some 5 } : Seq).pendingTrap.isSome = true := by decide
theorem witness_async_floor : ({ rest0 with pendFloor := some 5 } : Seq).pendVug = none ∧ ({ rest0 with pendFloor := some 5 } : Seq).pendFloor = some 5 :=
  ⟨rfl, rfl⟩
theorem witness_async_event : ({ rest0 with evwin := 0 } : Seq).eventPending = true := by decide
theorem witness_wfe : ({ rest0 with wait := .wfe, wake := 1 } : Seq).wake.getLsbD 0 = true ∧ 0 < (rest0.mstat[(0 : Fin 8)]).filled := by decide
theorem witness_yield : ({ rest0 with wait := .yield 0 } : Seq).wait = .yield 0 ∧ (0 : Nat) ≤ (restState rest0).now := ⟨rfl, by decide⟩

/-! ## Arrivals -/

theorem witness_reply : ({ rest0 with arrivedReplies := [(7, [1])], awaits := [⟨7, 0, [3], false⟩] } : Seq).arrivedReplies[0]? = some (7, [1]) := rfl
def fill0 : SeqFill := ⟨.seq 3, 1, 1, (Vector.replicate 16 0).set 0 5⟩
theorem witness_fill : rest0.roomFor fill0.win (fill0.elems (mdElem (rest0.desc fill0.win))).length = true ∧ ∀ n e, fill0.source ≠ .edge n e :=
  ⟨by decide, fun _ _ h => nomatch h⟩
/-- Of an ended region nothing is left at its sequencer. -/
theorem witness_region_none : ((restState { rest0 with region := none, arrivedFills := [fill0] }).seq 0).region = none := rfl
theorem witness_record : rest0.recordWin (BitVec.ofNat 3 (rest0.evwin.toNat % 8)) = false := by decide
/-- A take from window 2, which is not bound, and one of the record in window 0. -/
theorem witness_take_record : ((restState rest0).takeRecord 0 0 7 2).isSome = true ∧ ((restState rest0).takeRecord 0 0 7 0).isSome = true := by decide +kernel

/-! ## Commit -/

/-- A store of a doubleword of sequencer 0. -/
def acc0 (op : AccessOp) (p : Place) : Access :=
  { id := 7, source := .seq 0, op := op, va := 0x1000, place := p, size := 8, data := List.replicate 8 5, aq := false, rl := false, tag := 0, code := 0 }
def doneWith (l : List Queued) : Block := { done0 none with effects := l }
theorem witness_commit_effects (e : Effect) : BlockDone (baseWith (doneWith [⟨7, 0, e, []⟩])) 0 (doneWith [⟨7, 0, e, []⟩]) [⟨7, 0, e, []⟩]
    ∧ (doneWith [⟨7, 0, e, []⟩]).closing = none := ⟨blockDone0 _ _ rfl rfl, rfl⟩
theorem witness_plainAccess : plainAccess base (acc0 .store (.floor 0x1000)) :=
  ⟨rfl, rfl, fun b h => nomatch (show b ∈ ([] : List PubBuf) from h)⟩
/-- Two stores of a block, the second with RL or without, and a fence between them. -/
def acc1 (rl : Bool) : Access := { acc0 .store (.floor 0x1008) with id := 9, va := 0x1008, rl := rl }
def two0 (rl : Bool) : List Queued := [⟨7, 0, .access (acc0 .store (.floor 0x1000)), []⟩, ⟨9, 0, .access (acc1 rl), []⟩]
def fencedTwo : List Queued :=
  [⟨7, 0, .access (acc0 .store (.floor 0x1000)), []⟩, ⟨8, 0, .fence 6, []⟩, ⟨9, 0, .access (acc1 false), []⟩]
theorem witness_commit_two (rl : Bool) : BlockDone (baseWith (doneWith (two0 rl))) 0 (doneWith (two0 rl)) (two0 rl) := blockDone0 _ _ rfl rfl
theorem witness_commit_fenced : BlockDone (baseWith (doneWith fencedTwo)) 0 (doneWith fencedTwo) fencedTwo := blockDone0 _ _ rfl rfl
/-- `publish` of a buffer at 6 MiB, into which a message of the peer is half placed or not, and of an address without a buffer. -/
def pubState (l : List InMsg) : State :=
  let s := baseWith (doneWith [⟨7, 0, .publish 0x600000, [3]⟩])
  { s with fabric := { s.fabric with bufs := [⟨2, 0, 0, 0x600000, 0x800000, 1, 0, false, true, false⟩], inMsgs := l } }
theorem witness_publish : ((pubState []).bufferAt 0 0x600000).isSome = true ∧ (pubState []).bufferAt 0 0x1000 = none
    ∧ (pubState []).shadowBusy ⟨2, 0, 0, 0x600000, 0x800000, 1, 0, false, true, false⟩ = false := by decide +kernel
theorem witness_commit_access : (acc0 .store (.floor 0x1000)).aq = false ∧ (acc0 .store (.floor 0x1000)).rl = false := ⟨rfl, rfl⟩
/-- A fence behind an access that has not performed. -/
theorem witness_commit_fence :
    ({ seq0 with blk := some (doneWith [⟨9, 0, .fence 6, []⟩]), items := [.access (acc0 .store (.floor 0x1000))] } : Seq).items
      = [.access (acc0 .store (.floor 0x1000))] ∧ (acc0 .store (.floor 0x1000)).id < 9 := ⟨rfl, by decide⟩
theorem witness_commit_fence_alone : (baseWith (doneWith [⟨9, 0, .fence 6, []⟩])).commandsOf 0 (fun x => decide (x < 9)) = false := rfl

/-! ## The floor -/

/-- The answer of a load of the block in issue, and that of a load of a run. -/
theorem witness_loadAnswer : ((baseWith blk0).seq 0).blk = some blk0 ∧ (acc0 .load (.floor 0x1000)).source = .seq 0
    ∧ ((edgeState load0).edgeSlot 0 0).state = .running := ⟨rfl, rfl, rfl⟩
theorem witness_packet : ({ base with net := [⟨.req, .seq 0, .slice 0, .access (acc0 .store (.floor 0x1000))⟩] } : State).net[0]?
    = some ⟨.req, .seq 0, .slice 0, .access (acc0 .store (.floor 0x1000))⟩ := rfl
/-- The packet has no earlier one of its class before it, and no link that it needs has stopped. -/
theorem witness_packet_first : (∀ r ∈ ([] : List Packet), ¬ (r.cls = .req ∧ r.src = .seq 0 ∧ r.dst = .slice 0)) ∧ base.deadLinks = [] :=
  ⟨fun _ h => (nomatch h), rfl⟩
/-- An access that has reached its slice or home in an earlier cycle. -/
def atSliceState (a : Access) : State := { base with now := 1, atSlice := [a] }
/-- Two accesses of one doubleword that came in one cycle, the later in the list from a lower source. -/
theorem witness_slice_later : (acc0 .store (.floor 0x1000)).place.meets (acc0 .store (.floor 0x1000)).place = true
    ∧ sourceNumber (.seq 0) < sourceNumber (.seq 1) := by decide
theorem witness_slice_store : (atSliceState (acc0 .store (.floor 0x1000))).nextAtSlice 0 = some (acc0 .store (.floor 0x1000))
    ∧ (base.storeFloor 0x1000 (List.replicate 8 5)).isSome = true := by decide +kernel
theorem witness_slice_load : ∃ s', base.loadFloor 0x1000 8 = (some 0, s') := ⟨_, rfl⟩
/-- A `cas` finds 0, which it compares with or not; and one of a doubleword in error. -/
theorem witness_slice_cas : (atSliceState (acc0 (.cas 0) (.floor 0x1000))).nextAtSlice 0 = some (acc0 (.cas 0) (.floor 0x1000))
    ∧ (0 : Nat) = (0 : Word).toNat % 2 ^ (8 * 8) ∧ (0 : Nat) ≠ (5 : Word).toNat % 2 ^ (8 * 8) := ⟨rfl, by decide, by decide⟩
theorem witness_slice_rmw_bad : Claims.isReadModifyWrite (.cas 0) = true ∧ Claims.isReadModifyWrite (.amo 0x16) = true
    ∧ (acc0 (.cas 0) (.floor 0x1000)).source = .seq 0 ∧ (({ base with badFloor := [0x200] } : State).loadFloor 0x1000 8).1 = none := by decide +kernel
/-- The last part of a torn access holds back those of its own unit, and no other's. -/
theorem witness_slice_late : (acc0 .store (.floor 0x1000)).late = false ∧ ({ acc0 .store (.floor 0x1000) with late := true } : Access).source
    = (acc0 .store (.floor 0x1000)).source := ⟨rfl, rfl⟩
/-- An uncorrectable error in the doubleword. -/
theorem witness_slice_bad : (({ base with badFloor := [0x200] } : State).loadFloor 0x1000 8).1 = none
    ∧ ({ base with badFloor := [0x200] } : State).storeFloor 0x1000 [5] = none := by decide +kernel
/-- The page at 4 MiB has its record at 0x10000, and its pool is empty. -/
def vugAcc (op : AccessOp) : Access := { acc0 op (.vug 0x10000) with va := 0x400000 }
theorem witness_vug : (atSliceState (vugAcc .erase)).nextAtSlice 0 = some (vugAcc .erase) ∧ base.tileHeld 0x10000 0x400000 = false
    ∧ (match base.applyVug (vugAcc .erase) 0x10000 with | .done _ _ => true | _ => false) = true
    ∧ (match base.applyVug (vugAcc .store) 0x10000 with | .withheld _ => true | _ => false) = true := by decide +kernel
theorem witness_vug_held : ({ base with withheld := [vugAcc .store] } : State).tileHeld 0x10000 0x400000 = true := by decide
theorem witness_walk : lookupTlb ((tables { base with tlbs := [] }).tlb 0) 0 0x600000 = none
    ∧ (tables { base with tlbs := [] }).ctx? 0 = some ⟨0, 0x100000, BitVec.allOnes 256, none⟩
    ∧ (tables { base with tlbs := [] }).walkStopped 0 0x100000 0x600000 = false
    ∧ ((tables { base with tlbs := [] }).walk 0x100000 (BitVec.allOnes 256) 0x600000).1.toOption.isSome = true := by decide +kernel
/-- `xlat` where the walk for page 0 waits for its next entry. -/
theorem witness_xlat_waits : (readReg blk0.regs 1).toNat < 2 ^ 56 ∧ WordReady (tables { base with tlbs := [], slow := true }) 0 blk0 [1]
    ∧ (tables { base with tlbs := [], slow := true }).regionOfSeq 0 = some region0
    ∧ (match ((tables { base with tlbs := [], slow := true }).translate 0 0 (readReg blk0.regs 1).toNat true
        ((tables { base with tlbs := [], slow := true }).blockReader 0)).1 with | .error c => c | .ok _ => 0) = 5 :=
  ⟨by decide, ⟨rfl, rfl, fun _ _ => .inr (.inr (fun _ h => nomatch (show _ ∈ ([] : List Await) from h)))⟩, rfl, by decide +kernel⟩
/-- A walk of which one entry more is read waits (R298): what an access, a fetch or an `xlat` then answers with is 5, and waits. -/
theorem witness_walk_waits : ((tables { base with tlbs := [], slow := true }).translate 0 0 0x600000 true (some (.block 0 0))).1.toOption.isNone = true
    ∧ (match ((tables { base with tlbs := [], slow := true }).translate 0 0 0x600000 true (some (.block 0 0))).1 with
        | .error c => c | .ok _ => 0) = 5 := by decide +kernel
/-- The walk goes on from the entries that its unit has read: with the root entry read as an invalid one, nothing is mapped. -/
theorem test_walk_goes_on : (match ((tables { base with tlbs := [], parts := [⟨.block 0 0, 0, 3, .entries [0]⟩] }).translate 0 0 0x600000 true
    (some (.block 0 0))).1 with | .error c => c | .ok _ => 0) = 1 := by decide +kernel
theorem witness_pool : base.withheld = [] ∧ base.poolDue.contains 0 = false ∧ ({ base with poolDue := [0x20000] } : State).poolDue.contains 0x20000 = true :=
  ⟨rfl, rfl, by decide⟩

/-! ## Swaps, drains and relatches -/

/-- A core without windows, in a region that swaps. -/
def swapState (c : Core) : State := { coreBase c with regions := [{ region0 with swap := some (7, 0) }] }
theorem witness_swapPlace : (swapState { core0 with swapDue := [2] }).coreFrozen 0 = false ∧ (({ core0 with swapDue := [2] } : Core).placeSwap 2).isSome = true :=
  ⟨rfl, by decide +kernel⟩
theorem witness_flip : (swapState Core.init).canFlip 0 = true
    ∧ region0.cores.all (fun m => (((swapState Core.init).setCore 0 (Core.init.flip true)).core m).flipped) = true := by decide +kernel
theorem witness_flip_first :
    region2.cores.all (fun m => (({ swapState Core.init with regions := [{ region2 with swap := some (7, 0) }] } : State).setCore 0 (Core.init.flip true)
      |>.core m).flipped) = false := by decide +kernel

def drained : Region := { region0 with drain := some ⟨7, 0, 0, true⟩ }
def drainState : State := { atUnit (coreBase core0) cfgCmd with regions := [drained] }
theorem witness_drain : drainState.region? 0 = some drained ∧ drained.freezing = false ∧ drainState.still drained = true
    ∧ (drainState.drainWithheld drained).still drained = true := by decide +kernel
theorem witness_drainComplete : ∃ k c st s', drainState.cmdById 7 = some (k, c) ∧ drainState.drainImage drained ⟨7, 0, 0, true⟩ c = (some (none, st), s') :=
  ⟨_, _, _, _, rfl, rfl⟩
theorem witness_relatchToken : (coreBase { core0 with relatches := [⟨7, none⟩] }).flying.any ((coreBase { core0 with relatches := [⟨7, none⟩] }).madeWith 0 0 none) = false
    ∧ (coreBase core0).cores.any (fun x => x.2.relatches.any fun y => y.cmdId == 7) = false := by decide
theorem witness_relatchToken_more : ({ coreBase core0 with cores := [(1, { core0 with relatches := [⟨7, none⟩] })] } : State).cores.any
    (fun x => x.2.relatches.any fun y => y.cmdId == 7) = true := by decide

/-- The token of another die is on its way. -/
theorem witness_relatchToken_net : ∃ p ∈ ({ coreBase core0 with net := [⟨.ctl, .core 1, .die 0, .relatch ⟨7, none⟩⟩] } : State).net,
    p.payload = .relatch ⟨7, none⟩ := ⟨_, List.mem_cons_self, rfl⟩
theorem witness_reportGoes : (drainState.drainWithheld drained).reportWaits drained = false := by decide +kernel

/-! ## Regions -/

theorem witness_regionEnd : (restState { rest0 with halted := true }).region? 0 = some region0
    ∧ (restState { rest0 with halted := true }).quiet region0 = true ∧ (restState { rest0 with halted := true }).still region0 = true := by
  decide +kernel
def stuckState : State := edgeState (held0 0x1000)
theorem witness_checkpoint : stuckState.stuck { region0 with checkpoint := some (0, 0) } = true ∧ grottoFits 0x1000000 (grottoSize 1 1 1) = true := by
  decide +kernel
theorem witness_thaw : ((edgeState store0).edgeSlot 0 (Fin.ofNat 4 0)).state ≠ .withholding := by decide
def stopped0 : Region := { region0 with stopping := true, freezing := true, grotto := some 0x1000000 }
theorem witness_freeze : (restState rest0).commandsSettled { region0 with stopping := true } = true := by decide +kernel
theorem witness_freeze_save : (∀ n ∈ stopped0.cores, (restState rest0).coreParked n = true) ∧ (restState rest0).accessesDone stopped0 = true
    ∧ (restState rest0).freezeStatus stopped0 = 9 ∧ (∀ q ∈ stopped0.seqs, ((restState rest0).seq q).arrivedRecords = []) := by decide +kernel
theorem witness_restore : ({ restState rest0 with regions := [{ region0 with restoring := true, grotto := some 0x1000000 }] } : State).region? 0
    = some { region0 with restoring := true, grotto := some 0x1000000 } := rfl

end Sys2Proof.Tests
end

