-- ==== Sys2Proof/Tests/Witness6.lean ====
section
/-! SUPPORT. Small states that meet the hypotheses of the statements about the package, the host, the network and steps, one named witness for each set
of hypotheses. -/

namespace Sys2Proof.Tests

-- One after another: a check by the kernel waits for every earlier one, and each waiting check would hold a thread of its own.
set_option Elab.async false

open Sys2Proof Sys2Proof.Machine Sys2Proof.Claims

/-! ## Queues, dispatch and admission -/

/-- The host reaches the small module. -/
def hosted : State := { base with pkg := { pkg0 with ucieTrained := true } }
def queue0 : Queue := { Queue.init with state := .open_, cap := 4, ring := 0x8000 }
/-- A packet that asks for a completion in host window 3, for a region of one core, with its image at 0x3000. -/
def packet0 : Vector Word 8 := (((Vector.replicate 8 0).set 0 0x3000).set 6 0x0000000000100001).set 7 0x8000000000000003

theorem witness_append : hosted.pkg.ucieTrained = true ∧ ((hosted.setQueue 5 queue0).queue 5).state = .open_
    ∧ ((hosted.setQueue 5 queue0).queue 5).packets.length < ((hosted.setQueue 5 queue0).queue 5).cap := ⟨rfl, rfl, by decide⟩
theorem witness_append_full : ({ queue0 with packets := [0, 1, 2, 3] } : Queue).cap ≤ ({ queue0 with packets := [0, 1, 2, 3] } : Queue).packets.length := by
  decide
theorem witness_append_closed : (hosted.queue 5).state ≠ .open_ := by decide

/-- Queue 5 holds one packet and stands in the line; an image stands at 0x3000. -/
def lined (w : Vector Word 8) : State :=
  let s := (((tables base).writeBytes 0x8000 (packetBytes w)).writeBytes 0x3000 image0).setQueue 5 { queue0 with packets := [7] }
  { s with pkg := { s.pkg with line := [.queue 5] } }
theorem witness_dispatch : (lined packet0).pkg.slots.length < 512 ∧ (lined packet0).pkg.line = [.queue 5] ∧ ((lined packet0).queue 5).packets = [7]
    ∧ ((lined packet0).ringPacket (((lined packet0).queue 5).elemAddr 0)).1 = some packet0
    ∧ ((lined packet0).rejection 0 packet0).1 = some 0 := by decide +kernel
/-- The copy of the packet stands in the dispatcher since an earlier cycle. -/
def copied (w : Vector Word 8) : State :=
  let s := (tables base).writeBytes 0x3000 image0
  { s with now := 1, pkg := { s.pkg with queues := [(5, queue0)], copies := [⟨5, 7, w, 0, 0⟩] } }
theorem witness_dispatch_copy : (lined packet0).pkg.copies = [] ∧ (copied packet0).pkg.copies = [⟨5, 7, packet0, 0, 0⟩] ∧ (copied packet0).pkg.line = []
    ∧ 0 < (copied packet0).now ∧ ((copied packet0).rejection 0 packet0).1 = some 0 ∧ ((copied (packet0.set 6 0)).rejection 0 (packet0.set 6 0)).1 = some 1
    ∧ ((copied packet0).queue 5).packets = [] := by decide +kernel
theorem witness_dispatch_rejected : ((lined packet0).rejection 0 (packet0.set 6 0)).1 = some 1 ∧ ckind (packet0.set 6 0) = 2 := by decide +kernel

def candidate0 : Candidate := ⟨.packet 5 7 packet0, 0, 0, none, none⟩
def admitting : State :=
  { base with regions := [], seqs := [], pkg := { pkg0 with roundsDue := [0], slots := [candidate0], live := [⟨5, 7, packet0, 0, 1, 0, 0, 0, none⟩], queues := [(5, queue0)] } }
theorem witness_admission : admitting.pkg.slots = [⟨.packet 5 7 packet0, 0, 0, none, none⟩] ∧ admitting.considers 0 candidate0 = true
    ∧ admitting.pkg.live = [⟨5, 7, packet0, (admitting.queue 5).ctx, 1, 0, 0, 0, none⟩] ∧ admitting.pkg.reserved = [] ∧ (admitting.queue 5).packets = []
    ∧ 1 ≤ lpW packet0 ∧ 1 ≤ lpH packet0 := by decide +kernel
theorem witness_admission_place : admitting.placeFor 0 candidate0.offer = some (0, 0) := by decide +kernel

theorem witness_completion_host : ckind packet0 = 2 ∧ ((hosted.hostWin 3).tail - (hosted.hostWin 3).head).toNat < 255
    ∧ ((hosted.hostWin 255).tail - (hosted.hostWin 255).head).toNat + 2 ≤ 255 := by decide
/-- A completion into window 0 of sequencer 0, which is bound and has room, or into window 7, which is not. -/
theorem witness_completion_window : ckind (packet0.set 7 0x4000000000000000) = 1 ∧ mdV ((base.seq 0).desc 0) = true ∧ (base.seq 0).frozen = false
    ∧ (base.seq 0).roomFor 0 1 = true ∧ mdElem ((base.seq 0).desc 0) = true ∧ mdV ((base.seq 0).desc 7) = false := by decide +kernel
theorem witness_completion_waiting : ({ hosted with pkg := { hosted.pkg with completions := [⟨packet0, 1, 2⟩], events := [Vector.replicate 4 0] } } : State).pkg.completions[0]?
    = some ⟨packet0, 1, 2⟩ := rfl

/-! ## The host and the mailbox -/

def window3 : CompWin := ⟨[], 5, 2⟩
theorem witness_head : (4 - window3.head).toNat ≤ (window3.tail - window3.head).toNat ∧ (window3.tail - window3.head).toNat < (7 - window3.head).toNat := by
  decide
theorem witness_feata : ({ hosted with pkg := { hosted.pkg with ctxs := [] } } : State).pkg.ctxs = [] ∧ hosted.pkg.ctxs ≠ [] := ⟨rfl, by decide⟩
theorem witness_aperture : (0x1000 : Nat) % 8 = 0 ∧ hosted.feature 5 = true ∧ paReserved 0x1000 = false ∧ paReserved (0x1000 + 7) = false := by decide
theorem witness_bypass : (0x17 : Word).getLsbD 4 = true ∧ hosted.pkg.mailbox.running = none := ⟨by decide, rfl⟩

/-- A candidate that has been bypassed more often than the new limit, and a die that can be reserved for it. -/
theorem witness_bypass_reserve : ({ candidate0 with bypass := 9 } : Candidate).reserveOrder = none
    ∧ ({ admitting with pkg := { admitting.pkg with slots := [{ candidate0 with bypass := 9 }] } } : State).dieToReserve candidate0.offer ≠ none := by
  decide +kernel
/-- Context 0 has launched in this cycle. -/
theorem witness_launchedNow : ({ hosted with pkg := { hosted.pkg with ctxs := [⟨0, 0x100000, 1, some 0⟩] } } : State).launchedNow 0 = true := by decide +kernel

/-- The mailbox of a state holds a command. -/
def mail (s : State) (m : Vector Word 8) : State := { s with pkg := { s.pkg with mailbox := ⟨m, Vector.replicate 8 0, none⟩ } }
def mail3 (code a b c : Word) : Vector Word 8 := ((((Vector.replicate 8 0).set 0 code).set 1 a).set 2 b).set 3 c

theorem witness_MailboxStarts (code : Fin 256) (a b c : Word) : MailboxStarts (mail hosted (mail3 (BitVec.ofNat 64 code) a b c)) code :=
  ⟨rfl, rfl, by simp only [mail, mail3]; have := code.isLt; simp⟩
theorem witness_ctxCreate : (mail hosted (mail3 1 9 0x200000 1)).marg 1 < 256 ∧ hosted.ctx? 9 = none ∧ (mail hosted (mail3 1 9 0x200000 1)).marg 2 % 2 ^ 20 = 0
    ∧ hosted.pkg.fail = 0 := by decide
theorem witness_qCreate : (hosted.queue 5).state = .closed ∧ (hosted.ctx? 0).isSome = true ∧ (0x8000 : Nat) % 64 = 0 ∧ paReserved 0x8000 = false
    ∧ paReserved (0x8000 + 64 * 4 - 1) = false := by decide
theorem witness_qDestroy : ((hosted.setQueue 5 queue0).queue 5).state = .open_ ∧ ((hosted.setQueue 5 queue0).queue 5).packets = []
    ∧ ∀ p ∈ (hosted.setQueue 5 queue0).pkg.live, p.queue ≠ 5 := by decide
theorem witness_cancel : ((hosted.setQueue 5 { queue0 with packets := [7] }).queue 5).packets = [7] := by decide
theorem witness_cancel_goes : (mail (hosted.setQueue 5 { queue0 with packets := [7] }) (mail3 5 5 7 0)).dispatchDue 5 = false := by decide
/-- The queue stands at the head of the line, and the dispatcher copies its packet in this cycle. -/
theorem witness_cancel_waits : (let s := lined packet0; mail { s with pkg := { s.pkg with ucieTrained := true } } (mail3 5 5 7 0)).dispatchDue 5 = true := by
  decide +kernel
theorem witness_cancel_none : 7 ∉ (hosted.queue 5).packets ∧ ∀ p ∈ hosted.pkg.live, ¬ (p.queue = 5 ∧ p.seqno = 7) := by decide
theorem witness_ctxDestroy : ({ hosted with regions := [] } : State).regionsOfCtx 0 = [] ∧ (hosted.ctx? 0).isSome = true ∧ hosted.pkg.live = []
    ∧ hosted.pkg.slots = [] ∧ hosted.pkg.line = [] ∧ hosted.pkg.queues = [] := by decide
theorem witness_preempt : hosted.feature 4 = true ∧ hosted.regions = [region0] ∧ region0.live = true ∧ region0.queue = 0 ∧ region0.seqno = 0
    ∧ region0.stopping = false ∧ region0.restoring = false ∧ (hosted.seq region0.owner).doubleTrapped = false
    ∧ grottoFits 0x1000000 (grottoSize region0.w region0.h region0.nseq) = true := by decide
/-- A grotto header of a region of one core, with the accepted features. -/
def grottoState : State :=
  ((hosted.writeBytes 0x1000000 (leBytes 8 0xC1E76B0700000000)).writeBytes 0x1000008 (leBytes 8 0x0001000101000001)).writeBytes 0x1000020 (leBytes 8 0x7F)
theorem witness_restore_mailbox : grottoState.grottoOk 0x1000000 = true := by decide +kernel
theorem witness_quote : hosted.feature 6 = true ∧ grottoFits 0x2000 306 = true ∧ hosted.mergeBad 0x2000 306 = false := by decide +kernel

theorem witness_bringUp : State.reset.pkg.fail = 0 ∧ State.reset.pkg.step.toNat < 6 ∧ 1 ∈ failCodes (State.reset.pkg.step.toNat + 1) := by decide
theorem witness_retrain : 4 ≤ ({ pkg0 with step := 6 } : Package).step.toNat ∧ ({ pkg0 with step := 6 } : Package).fail = 0 := by decide
/-- The junction is 5 °C below the thermal limit, above it, and above the hard limit. -/
def hot (x : BitVec 16) : Package := { pkg0 with tmax := x, modrec := { pkg0.modrec with thermal := 1500, hard := 1700 } }
theorem witness_heat : (hot 1420).tmax.toNat + 80 ≤ (hot 1420).modrec.thermal.toNat ∧ (hot 1501).modrec.thermal.toNat < (hot 1501).tmax.toNat
    ∧ (hot 1501).tmax.toNat ≤ (hot 1501).modrec.hard.toNat ∧ (hot 1701).modrec.hard.toNat < (hot 1701).tmax.toNat := by decide
theorem witness_clock : (∀ t, hosted.pkg.lastClockStep = some t → t + 1000000 ≤ hosted.stamp) ∧ 8 < hosted.pkg.level ∧ ({ pkg0 with level := 9 } : Package).level < 16
    ∧ ({ pkg0 with level := 8 } : Package).level ≤ 8 := ⟨fun _ h => (nomatch (show none = some _ from h)), by decide, by decide, by decide⟩

/-! ## The network -/

/-- A message of 64 bytes that the module has issued. -/
def msg0 (op : NetOp) : NetMsg :=
  { handle := 1, num := 0, op := op, region := 0, laddr := 0x2000, raddr := 0x3000, len := 64, cv := false, cwin := 0, crank := 0, rc := false, tag := 5, rank := 0, cmd := 0, behind := 0,
    sent := [], kept := [], acked := [], placed := [], status := none, due := none }
/-- A published buffer: the page at 0, with the page at 6 MiB as its shadow. -/
def buf0 : PubBuf := ⟨2, 0, 0, 0, 0x600000, 1, 0, false, true, false⟩
def netted (msgs : List NetMsg) (inMsgs : List InMsg) : State :=
  { tables base with fabric := { conns := [conn0], bufs := [buf0], msgs := msgs, inMsgs := inMsgs, wire := [], answers := [], deadPorts := [], portFails := [(3, 64)] } }

theorem serves0 (msgs : List NetMsg) (inMsgs : List InMsg) (h : (netted msgs inMsgs).connWorks conn0 = true) :
    Serves (netted msgs inMsgs) 1 conn0 := ⟨rfl, ⟨h, rfl, rfl⟩, show bitAt pkg0.feata 2 = true by decide⟩
theorem witness_Serves (op : NetOp) (l : List InMsg) : Serves (netted [msg0 op] l) 1 conn0 :=
  serves0 _ _ (show State.connWorks (netted [msg0 op] []) conn0 = true by cases op <;> decide)
theorem witness_send : 0 < (msg0 .send).packets ∧ (msg0 .send).acked = [] ∧ (netted [msg0 .send] []).sourceWaits (msg0 .send) = false
    ∧ ((netted [msg0 .send] []).rangeMapped 0 514 0x2000 64).1 = true
    ∧ (((netted [msg0 .send] []).rangeMapped 0 514 0x2000 64).2.engineRead 0 10 0x2000 64).1.isSome = true := by decide +kernel
/-- A packet that has been sent once. -/
def wire0 : WirePacket := ⟨1, 0, .send, none, 0, 0, 64, 5, false, List.replicate 64 1⟩
theorem witness_resend : ({ msg0 .send with sent := [(0, 0)], kept := [(0, wire0)] } : NetMsg).kept.find? (fun x => x.1 == 0) = some (0, wire0)
    ∧ (msg0 .send).kept.find? (fun x => x.1 == 0) = none := by decide +kernel
/-- A message whose bytes have no translation. -/
theorem witness_send_unmapped : ((netted [{ msg0 .send with laddr := 0x40000000 }] []).rangeMapped 0 514 0x40000000 64).1 = false := by decide +kernel
/-- A store of the message's sequencer to its bytes has not performed. -/
def waitingSource : State :=
  let s := netted [{ msg0 .send with cmd := 9 }] []
  { s with seqs := [(0, { seq0 with items := [.access { acc0 .store (.floor 0x2000) with va := 0x2000 }] })] }
theorem witness_send_waits : waitingSource.sourceWaits { msg0 .send with cmd := 9 } = true := by decide +kernel
theorem witness_readRequest : ((netted [msg0 .read] []).bufferHolding 0 0x2000 64).isSome = true
    ∧ (netted [{ msg0 .read with laddr := 0x40000000 }] []).bufferHolding 0 0x40000000 64 = none
    ∧ ((netted [msg0 .read] []).rangeWritable 0 514 0x602000 64).1 = true := by decide +kernel
/-- A write of two bytes that is a whole message. -/
def write0 : NetPacket := ⟨1, 0, .write, 0x2000, 0x2000, [1, 2], 2, 0, false⟩
theorem witness_place : ((netted [] []).placeMessage conn0 write0).isSome = true ∧ (netted [] []).inOrder conn0 0 = true
    ∧ ((netted [] []).writeTarget conn0 write0).1 = some buf0 ∧ ((netted [] []).writeTarget conn0 write0).2.buf? 2 = some buf0
    ∧ (((netted [] []).writeTarget conn0 write0).2.engineWrite 0 2 0x602000 [1, 2]).isSome = true := by decide +kernel
theorem witness_placeAnswer : ((netted [{ msg0 .read with sent := [(0, 0)] }] []).placeAnswer conn0
    ⟨1, 0, .readReply, 0, 0, List.replicate 64 1, 64, 0, false⟩).isSome = true := by decide +kernel
theorem witness_serve : (netted [] []).inOrder conn0 0 = true ∧ ((netted [] []).rangeMapped 0 514 0x2000 64).1 = true
    ∧ ((netted [] []).bufferHolding 0 0x2000 64).isSome = true ∧ ((netted [] []).answers conn0 ⟨0, 0x2000, 64, 0⟩ 1 0).1.isSome = true
    ∧ (netted [] []).bufferHolding 0 0x400000 64 = none := by decide +kernel
/-- An answer of which no packet has been acknowledged. -/
def answer0 : ReadAnswer := ⟨1, 0, [{ wire0 with op := .read, answer := some 0 }], 0, []⟩
def answered0 : State := let s := netted [] []; { s with fabric := { s.fabric with answers := [answer0] } }
theorem witness_serve_again : answered0.fabric.answers.find? (fun a => a.handle == 1 && a.num == 0) = some answer0 ∧ answered0.inOrder conn0 0 = true
    ∧ answer0.packets[0]? = some { wire0 with op := .read, answer := some 0 } ∧ answer0.acked.contains 0 = false := by decide +kernel
theorem witness_net_refused : ({ netted [] [] with pkg := { pkg0 with feata := 0 } } : State).feature 2 = false := by decide
def in0 (slot : Option Nat) : InMsg := ⟨1, 0, slot.isSome, 2, 5, false, none, slot, [(0, 2)], false, none, none⟩
theorem witness_remote : ((netted [] [in0 none]).fabric.inMsgs.find? fun x => x.handle == 1 && x.num == 0) = some (in0 none) ∧ (in0 none).len ≤ placedBytes (in0 none).placed
    ∧ (netted [] [in0 none]).inOrder conn0 0 = true := by decide
theorem witness_remote_record : (netted [] [in0 (some 0)]).receiver conn0 = .at_ 0
    ∧ inTurn ((netted [] [in0 (some 0)]).heldOf conn0.region conn0.recvRank conn0.recvWin) (in0 (some 0)).due = true
    ∧ ((netted [] [in0 (some 0)]).fillCompletion 0 conn0.recvWin (recordLanes conn0 (in0 (some 0)))).isSome = true := by decide +kernel
theorem witness_remote_away : (let s := netted [] [in0 (some 0)]; { s with regions := [{ region0 with freezing := true, stopping := true }] } : State).receiver conn0
    = .away := by decide +kernel
theorem witness_local_end : conn0.deliv ≠ 1 ∧ ({ msg0 .send with sent := [(0, 0)], acked := [0] } : NetMsg).mayEnd conn0 0 = true := by decide +kernel
theorem witness_local_order : ∃ x ∈ [msg0 .send], x.handle = (msg0 .send).handle ∧ x.status = none := ⟨_, List.mem_cons_self, rfl, rfl⟩
theorem witness_ack : (netted [{ msg0 .send with sent := [(0, 0)] }] []).fabric.msgs.findIdx? (fun m => m.handle == 1 && m.num == 0) = some 0
    ∧ (∃ x ∈ ({ msg0 .send with sent := [(0, 0)] } : NetMsg).sent, x.1 = 0) ∧ 0 ∉ ({ msg0 .send with sent := [(0, 0)] } : NetMsg).acked :=
  ⟨rfl, ⟨_, List.mem_cons_self, rfl⟩, by decide⟩
/-- An acknowledgement that leaves no path in service, and one that leaves them. -/
theorem witness_ack_paths : (netted [] []).fabric.pathless { conn0 with record := some #v[0, 0, 0, 0, 0] } = true
    ∧ (netted [] []).fabric.pathless { conn0 with record := some #v[0, 0, 0, 16, 0] } = false := by decide +kernel
theorem witness_ack_answer : (∃ r ∈ answered0.fabric.answers, r.handle = 1 ∧ r.num = 0 ∧ 0 ∉ r.acked) ∧ (netted [] []).fabric.conns = [conn0]
    ∧ ({ netted [] [] with fabric := { (netted [] []).fabric with bufs := [] } } : State).fabric.bufs = [] :=
  ⟨⟨answer0, List.mem_cons_self, rfl, rfl, by decide⟩, rfl, rfl⟩
theorem witness_fail : msg0 .send ∈ (netted [msg0 .send] []).fabric.msgs ∧ conn0 ∈ (netted [msg0 .send] []).fabric.conns ∧ (msg0 .send).handle = conn0.handle := by decide
/-- A packet that stays unacknowledged for 2^24 ns, and one that does not. -/
theorem witness_overdue : ({ netted [{ msg0 .send with sent := [(0, 0)] }] [] with stamp := 2 ^ 24 } : State).overdue 1 = true
    ∧ (netted [msg0 .send] []).overdue 1 = false := by decide +kernel
theorem witness_port : (netted [] []).fabric.deadPorts.contains 3 = false ∧ 64 ≤ (netted [] []).portRetries 3 ∧ (netted [] []).portRetries 4 < 64 := by decide

/-! ## Steps -/

/-- A move stands on the agenda. -/
def cued (s : State) (c : Cue) : State := { s with agenda := [(0, c)] }
theorem witness_Cued (s : State) (c : Cue) (h : s.pkg.stopped = false) (hr : s.pkg.roundsDue = []) (hw : 0 < (cued s c).roundIn ∨ s.pkg.slots = []) :
    Cued (cued s c) c { (cued s c).pass 0 with agenda := [], steps := s.steps + 1, slow := false } := ⟨h, hr, 0, [], rfl, hw, rfl⟩
/-- A round is due, and one comes before the next move. -/
theorem witness_rounds : admitting.pkg.roundsDue = [0] ∧ ({ admitting with agenda := [(64, .seqWord 0)] } : State).roundIn ≤ 64 ∧ admitting.pkg.slots ≠ [] := by
  decide +kernel
theorem witness_stopped : ({ base with pkg := { pkg0 with stopped := true } } : State).pkg.stopped = true := rfl

/-- A block whose head is `addi s1, s2, 5`, guarded by a predicate that is true or false, or a word that is none. -/
def headed (w : Code) : Block := Block.start [w] regs0 (Vector.replicate 8 false)
theorem witness_step_word : ((cued (baseWith (headed 0x14220028)) (.seqWord 0)).seq 0).blk = some (headed 0x14220028)
    ∧ (headed 0x14220028).words[(headed 0x14220028).idx]? = some 0x14220028
    ∧ readPred (headed 0x14220028).preds (BitVec.ofNat 3 (0x14220028 : Code).toNat) = true ∧ decodeSeq 0x14220028 = .ok (.addi 1 2 5 0) := ⟨rfl, rfl, by decide, rfl⟩
/-- What was read early stays behind a word that reads and writes registers only, and goes before a load of its bytes. -/
def early0 (w : Code) : State := { base with seqs := [(0, { seq0 with blk := some (headed w), early := [⟨0x1000, 8, 5, true, .floor 0x1000, false⟩] })] }
theorem witness_step_early : ((early0 0x14220028).beforeWord 0 (headed 0x14220028) 0x14220028).seq 0 = (early0 0x14220028).seq 0
    ∧ (((early0 0x4861C000).beforeWord 0 (headed 0x4861C000) 0x4861C000).seq 0).early = [] := by decide +kernel
/-- `ld.d s3, 0(s1)` at the head takes what was read early; a load that is read early is kept. -/
theorem test_recall : ((((early0 0x4861C000).recall 0).seq 0).blk.map (·.loads)) = some [⟨0, [⟨0, 0x1000, 8, [⟨0, 8, .value 5 true⟩]⟩]⟩]
    ∧ (((baseWith (headed 0x14220028)).readEarly 0 0x1000 8).seq 0).early = [⟨0x1000, 8, 0, true, .floor 0x1000, false⟩]
    ∧ (((baseWith { headed 0x14220028 with words := [0x81000000] }).readEarly 0 0x1000 8).seq 0).early = [] := by decide +kernel
theorem witness_step_false : readPred (headed 0x14220029).preds (BitVec.ofNat 3 (0x14220029 : Code).toNat) = false := by decide
theorem witness_step_bad : readPred (headed 0xFC000000).preds (BitVec.ofNat 3 (0xFC000000 : Code).toNat) = true
    ∧ decodeSeq 0xFC000000 = .error .headerInBlock := ⟨by decide, rfl⟩
theorem witness_step_stage : ((stageState [{ fire0 with stage := 2 }, fire0]).core 0).pipe[1]? = some fire0
    ∧ (∀ g ∈ ((stageState [{ fire0 with stage := 2 }, fire0]).core 0).pipe.take 1, fire0.stage < g.stage ∧ g.hold = none)
    ∧ ((stageState [{ fire0 with stage := 2 }, fire0]).core 0).active[fire0.slot][fire0.stage]? = some 0 :=
  ⟨rfl, by decide +kernel, by decide⟩
theorem witness_step_cmd : (cued (atUnit base tlbCmd) (.cmd 0)).cmds[0]? = some tlbCmd ∧ (cued (atUnit base tlbCmd) (.cmd 0)).cmdBehind tlbCmd = false := by decide

/-- DecodeAndEncodeAgree. -/
theorem witness_wf : (Instr.addi 1 2 5 0).wf = true ∧ encode (.addi 1 2 5 0) = some 0x14220028 := by decide
theorem witness_encodeSeq : encodeSeq (.addi 1 2 5 0) = some 0x14220028 ∧ (baseWith blk0).focus = .seq 0 ∧ ((baseWith blk0).seq 0).tl = false := ⟨rfl, rfl, rfl⟩
theorem witness_stageOpcode : stageOpcode (.iadd (f0 24 24 31)) = some (4, f0 24 24 31) ∧ (stageState [fire0]).focus = .stage 0 0 := ⟨rfl, rfl⟩

/-- EveryStepKeepsMemoryCanonical: the state after reset, and one with a byte in its memory. -/
theorem witness_canonical : Memory.wf State.reset.mem = true ∧ Memory.wf (base.writeBytes 0x1000 [5]).mem = true := by decide

/-- StoresChangeTheirBytesOnly. -/
theorem witness_storeBytes : (atSliceState (acc0 .store (.floor 0x1000))).nextAtSlice 0 = some (acc0 .store (.floor 0x1000))
    ∧ ((State.storeFloor { atSliceState (acc0 .store (.floor 0x1000)) with atSlice := [] } 0x1000 (acc0 .store (.floor 0x1000)).data)).isSome = true := by decide +kernel

/-- FloatSumsAndProducts. -/
theorem witness_nan : isNan 0x7FF000001 = true := by decide

end Sys2Proof.Tests
end

