-- ==== Sys2Proof/Tests/Slice0.lean ====
section
/-! SUPPORT. Tests of one definition or one step each. Expected values are the manual's own examples, or worked by hand from its tables. -/

namespace Sys2Proof.Tests

-- One after another: a check by the kernel waits for every earlier one, and each waiting check would hold a thread of its own.
set_option Elab.async false

open Sys2Proof Sys2Proof.Machine Sys2Proof.Claims

/-! ## Well-formedness: one ill-formed term for each check -/

theorem smoke_wf : (Instr.iadd (f0 8 9 31)).wf = true ∧ (Instr.add 1 2 3 false 0).wf = true ∧ (Instr.flip 0xFFFFF).wf = true := by decide
/-- Reserved operand codes of R44: 0, 6 and 0x1A. -/
theorem smoke_operandCodes : (Instr.iadd (f0 0 9 31)).wf = false ∧ (Instr.iadd (f0 8 6 31)).wf = false ∧ (Instr.iadd (f0 8 9 0x1A)).wf = false := by decide
/-- The lantern bit of R48: set on a stage that is not heavy, clear on one that is. -/
theorem smoke_lantern : (Instr.iadd ⟨8, 9, 31, 0, 1, 1, 0⟩).wf = false ∧ (Instr.imul (f0 8 9 31)).wf = false := by decide
/-- MOD codes that the assembler cannot write. -/
theorem smoke_mod : (Instr.acc ⟨8, 31, 31, 7, 0, 1, 0⟩).wf = false ∧ (Instr.fmab ⟨8, 9, 31, 7, 1, 1, 0⟩).wf = false ∧ (Instr.dot ⟨8, 9, 31, 7, 1, 1, 0⟩).wf = false
    ∧ (Instr.rmax ⟨8, 31, 31, 7, 0, 1, 0⟩).wf = false ∧ (Instr.rmin ⟨8, 31, 31, 7, 0, 1, 0⟩).wf = false ∧ (Instr.ramax ⟨8, 31, 31, 7, 0, 1, 0⟩).wf = false
    ∧ (Instr.cnt ⟨8, 31, 31, 3, 0, 1, 0⟩).wf = false ∧ (Instr.shuf ⟨8, 9, 31, 4, 0, 1, 0⟩).wf = false ∧ (Instr.wupd ⟨8, 9, 31, 7, 0, 1, 0⟩).wf = false := by decide
/-- The reserved stage opcodes, and the reserved functions of the control words. -/
theorem smoke_nop : (Instr.stageNop .reserved3E (f0 31 31 31)).wf = false ∧ (Instr.seqNop (.reservedFn 0 0) false 0).wf = false := by decide
/-- Fields that must be 0. -/
theorem smoke_mbz : (Instr.seqNop .plain true 0).wf = false ∧ (Instr.ret 1 true 0).wf = false ∧ (Instr.add 1 2 3 true 0).wf = false
    ∧ (Instr.shli 1 2 3 true 0).wf = false ∧ (Instr.pand 1 2 3 true 0).wf = false ∧ (Instr.verase 1 true 0).wf = false
    ∧ (Instr.amoAdd 1 2 3 ⟨0, 0, 0, 4⟩ true 0).wf = false ∧ (Instr.fence 4 true 0).wf = false ∧ (Instr.wshrLocal 1 0 true 0).wf = false
    ∧ (Instr.wrdCore 1 2 3 true 0).wf = false ∧ (Instr.cfgLoad 1 2 true 0).wf = false ∧ (Instr.taskTake 1 2 3 0 true 0).wf = false
    ∧ (Instr.launch 1 2 3 0 true 0).wf = false ∧ (Instr.xlat 1 2 4 0 true 0).wf = false ∧ (Instr.netSend 1 2 3 true 0).wf = false
    ∧ (Instr.csrw 1 2 true 0).wf = false ∧ (Instr.time 1 true 0).wf = false := by decide
/-- Reserved conditions and work-ID fields, and the sign bit of a load or a store that has none. -/
theorem smoke_codes : (Instr.cmp 1 2 3 6 false 0).wf = false ∧ (Instr.widGet 1 2 7 false 0).wf = false ∧ (Instr.widSet 1 2 7 false 0).wf = false
    ∧ (Instr.ld 1 2 3 1 0 0).wf = false ∧ (Instr.ldx 1 2 3 1 1 0 0).wf = false ∧ (Instr.st 1 2 0 1 0 0).wf = false := by decide
/-- Units that the module does not have. -/
theorem smoke_units : (Instr.flip 0x100000).wf = false ∧ (Instr.blockIssue 0x1000).wf = false ∧ (Instr.hmsetWrite 0 0x1000).wf = false
    ∧ (Instr.hmsetWrite 0x100000 0).wf = false := by decide

/-! ## Decoding and encoding: a word for every instruction that has one -/

/-- The stage words 0x00 to 0x0F, written out from the encoding table of R47. -/
def words_stage0 : List (Code × Instr) :=
  [(0x01028850, .stageNop .plain ⟨8, 2, 17, 0, 0, 5, 0⟩), (0x051FF850, .stageStop ⟨8, 31, 31, 0, 0, 5, 0⟩),
   (0x091FF850, .stageMov ⟨8, 31, 31, 0, 0, 5, 0⟩), (0x0D028850, .stageSel ⟨8, 2, 17, 0, 0, 5, 0⟩), (0x1102FA50, .iadd ⟨8, 2, 31, 2, 0, 5, 0⟩),
   (0x1502FA50, .isub ⟨8, 2, 31, 2, 0, 5, 0⟩), (0x1902FAD0, .imul ⟨8, 2, 31, 2, 1, 5, 0⟩), (0x1D028AD0, .imad ⟨8, 2, 17, 2, 1, 5, 0⟩),
   (0x2102F850, .iand ⟨8, 2, 31, 0, 0, 5, 0⟩), (0x2502F850, .ior ⟨8, 2, 31, 0, 0, 5, 0⟩), (0x2902F850, .ixor ⟨8, 2, 31, 0, 0, 5, 0⟩),
   (0x2D02F850, .iandn ⟨8, 2, 31, 0, 0, 5, 0⟩), (0x3102FA50, .ishl ⟨8, 2, 31, 2, 0, 5, 0⟩), (0x3502F850, .ishr ⟨8, 2, 31, 0, 0, 5, 0⟩),
   (0x3902F850, .isra ⟨8, 2, 31, 0, 0, 5, 0⟩), (0x3D02FA50, .icmp ⟨8, 2, 31, 2, 0, 5, 0⟩)]
theorem decodes_stage0 : words_stage0.all (fun p => decide (decodeStage p.1 = p.2)) = true := by decide
theorem encodes_stage0 : words_stage0.all (fun p => p.2.wf && decide (encode p.2 = some p.1)) = true := by decide

/-- The stage words 0x10 to 0x1F, written out from the encoding table of R47. -/
def words_stage1 : List (Code × Instr) :=
  [(0x4102F850, .imin ⟨8, 2, 31, 0, 0, 5, 0⟩), (0x4502F850, .imax ⟨8, 2, 31, 0, 0, 5, 0⟩), (0x491FF850, .ipopc ⟨8, 31, 31, 0, 0, 5, 0⟩),
   (0x4D1FF850, .iclz ⟨8, 31, 31, 0, 0, 5, 0⟩), (0x5102FA50, .fadd ⟨8, 2, 31, 2, 0, 5, 0⟩), (0x5502FA50, .fsub ⟨8, 2, 31, 2, 0, 5, 0⟩),
   (0x5902FAD0, .fmul ⟨8, 2, 31, 2, 1, 5, 0⟩), (0x5D028AD0, .fma ⟨8, 2, 17, 2, 1, 5, 0⟩), (0x61028AD0, .fms ⟨8, 2, 17, 2, 1, 5, 0⟩),
   (0x6502F850, .fmax ⟨8, 2, 31, 0, 0, 5, 0⟩), (0x6902F850, .fmin ⟨8, 2, 31, 0, 0, 5, 0⟩), (0x6D1FF850, .fabs ⟨8, 31, 31, 0, 0, 5, 0⟩),
   (0x711FF850, .fneg ⟨8, 31, 31, 0, 0, 5, 0⟩), (0x7502FA50, .fcmp ⟨8, 2, 31, 2, 0, 5, 0⟩), (0x791FF850, .fclass ⟨8, 31, 31, 0, 0, 5, 0⟩),
   (0x7D1FFA50, .frnd ⟨8, 31, 31, 2, 0, 5, 0⟩)]
theorem decodes_stage1 : words_stage1.all (fun p => decide (decodeStage p.1 = p.2)) = true := by decide
theorem encodes_stage1 : words_stage1.all (fun p => p.2.wf && decide (encode p.2 = some p.1)) = true := by decide

/-- The stage words 0x20 to 0x2F, written out from the encoding table of R47. -/
def words_stage2 : List (Code × Instr) :=
  [(0x811FF850, .frcp ⟨8, 31, 31, 0, 0, 5, 0⟩), (0x851FF850, .frsq ⟨8, 31, 31, 0, 0, 5, 0⟩), (0x891FFAD0, .fexp2 ⟨8, 31, 31, 2, 1, 5, 0⟩),
   (0x8D1FFAD0, .flog2 ⟨8, 31, 31, 2, 1, 5, 0⟩), (0x9102FA50, .fscale ⟨8, 2, 31, 2, 0, 5, 0⟩), (0x951FFA51, .cvtFi ⟨8, 31, 31, 2, 0, 5, 1⟩),
   (0x991FFA50, .cvtIf ⟨8, 31, 31, 2, 0, 5, 0⟩), (0x9D1FFA5B, .acc ⟨8, 31, 31, 2, 0, 5, 11⟩), (0xA1028ADB, .fmab ⟨8, 2, 17, 2, 1, 5, 11⟩),
   (0xA502FADB, .dot ⟨8, 2, 31, 2, 1, 5, 11⟩), (0xA91FFA5B, .rmax ⟨8, 31, 31, 2, 0, 5, 11⟩), (0xAD1FFA5B, .rmin ⟨8, 31, 31, 2, 0, 5, 11⟩),
   (0xB11FFA5B, .ramax ⟨8, 31, 31, 2, 0, 5, 11⟩), (0xB502FA5B, .steer ⟨8, 2, 31, 2, 0, 5, 11⟩), (0xB9028850, .merge ⟨8, 2, 17, 0, 0, 5, 0⟩),
   (0xBD028A5B, .join ⟨8, 2, 17, 2, 0, 5, 11⟩)]
theorem decodes_stage2 : words_stage2.all (fun p => decide (decodeStage p.1 = p.2)) = true := by decide
theorem encodes_stage2 : words_stage2.all (fun p => p.2.wf && decide (encode p.2 = some p.1)) = true := by decide

/-- The stage words 0x30 to 0x3D, written out from the encoding table of R47. -/
def words_stage3 : List (Code × Instr) :=
  [(0xC102FA5B, .cmpx ⟨8, 2, 31, 2, 0, 5, 11⟩), (0xC51FFA50, .cpr ⟨8, 31, 31, 2, 0, 5, 0⟩), (0xC902FA50, .stageMark ⟨8, 2, 31, 2, 0, 5, 0⟩),
   (0xCD1FFA50, .strip ⟨8, 31, 31, 2, 0, 5, 0⟩), (0xD102F851, .gate ⟨8, 2, 31, 0, 0, 5, 1⟩), (0xD51FFA50, .cnt ⟨8, 31, 31, 2, 0, 5, 0⟩),
   (0xD902F85B, .bcast ⟨8, 2, 31, 0, 0, 5, 11⟩), (0xDD02FA5B, .shuf ⟨8, 2, 31, 2, 0, 5, 11⟩), (0xE102F850, .pack ⟨8, 2, 31, 0, 0, 5, 0⟩),
   (0xE5028850, .unpack ⟨8, 2, 17, 0, 0, 5, 0⟩), (0xE902FA50, .wupd ⟨8, 2, 31, 2, 0, 5, 0⟩), (0xED1FF85B, .wfill ⟨8, 31, 31, 0, 0, 5, 11⟩),
   (0xF102F85B, .shrink ⟨8, 2, 31, 0, 0, 5, 11⟩), (0xF51FF850, .wcnt ⟨8, 31, 31, 0, 0, 5, 0⟩)]
theorem decodes_stage3 : words_stage3.all (fun p => decide (decodeStage p.1 = p.2)) = true := by decide
theorem encodes_stage3 : words_stage3.all (fun p => p.2.wf && decide (encode p.2 = some p.1)) = true := by decide

/-- Sequencer words of major opcodes 0x00 to 0x04, written out from the encoding table of R178. -/
def words_seq0 : List (Code × Instr) :=
  [(0x00000002, .seqNop .plain false 2), (0x00000042, .halt false 2), (0x00000082, .wfe false 2), (0x000000C2, .yield false 2),
   (0x00000142, .eret false 2), (0x00050102, .ret 5 false 2), (0x000501C2, .exitr 5 false 2), (0x00152982, .trap 0x2A5 false 2),
   (0x074B4B4A, .exitWord 0x696969 2), (0x0C7B4B4A, .call 3 0x36969 2), (0x10654802, .add 3 5 9 false 2), (0x10654842, .sub 3 5 9 false 2),
   (0x10654882, .mul 3 5 9 false 2), (0x106548C2, .mulh 3 5 9 false 2), (0x10654902, .mulhu 3 5 9 false 2), (0x10654942, .div 3 5 9 false 2),
   (0x10654982, .divu 3 5 9 false 2), (0x106549C2, .rem 3 5 9 false 2)]
theorem decodes_seq0 : words_seq0.all (fun p => decide ((decodeSeq p.1).toOption = some p.2)) = true := by decide
theorem encodes_seq0 : words_seq0.all (fun p => p.2.wf && decide (encode p.2 = some p.1)) = true := by decide

/-- Sequencer words of major opcodes 0x04 to 0x07, written out from the encoding table of R178. -/
def words_seq1 : List (Code × Instr) :=
  [(0x10654A02, .remu 3 5 9 false 2), (0x10654A42, .andW 3 5 9 false 2), (0x10654A82, .orW 3 5 9 false 2), (0x10654AC2, .xorW 3 5 9 false 2),
   (0x10654B02, .shl 3 5 9 false 2), (0x10654B42, .shr 3 5 9 false 2), (0x10654B82, .sra 3 5 9 false 2), (0x10654BC2, .minW 3 5 9 false 2),
   (0x10654C02, .maxW 3 5 9 false 2), (0x10654C42, .minu 3 5 9 false 2), (0x10654C82, .maxu 3 5 9 false 2), (0x10654CC2, .clz 3 5 9 false 2),
   (0x10654D02, .ctz 3 5 9 false 2), (0x10654D42, .popc 3 5 9 false 2), (0x10654DA2, .seqSel 3 5 9 4 2), (0x1465CB4A, .addi 3 5 0x1969 2),
   (0x1865CB4A, .andi 3 5 0x1969 2), (0x1C65CB4A, .ori 3 5 0x1969 2)]
theorem decodes_seq1 : words_seq1.all (fun p => decide ((decodeSeq p.1).toOption = some p.2)) = true := by decide
theorem encodes_seq1 : words_seq1.all (fun p => p.2.wf && decide (encode p.2 = some p.1)) = true := by decide

/-- Sequencer words of major opcodes 0x08 to 0x16, written out from the encoding table of R178. -/
def words_seq2 : List (Code × Instr) :=
  [(0x2065CB4A, .xori 3 5 0x1969 2), (0x2465014A, .shli 3 5 0x29 false 2), (0x2865014A, .shri 3 5 0x29 false 2),
   (0x2C65014A, .srai 3 5 0x29 false 2), (0x307B4B4A, .li 3 0x36969 2), (0x34774B4A, .lui 3 2 0xE969 2), (0x387B4B4A, .lea 3 0x36969 2),
   (0x3E054822, .cmp 4 5 9 4 false 2), (0x42140082, .pnot 4 5 false 2), (0x4214C002, .pand 4 5 6 false 2), (0x4214C042, .por 4 5 6 false 2),
   (0x44658002, .widGet 3 5 4 false 2), (0x44658042, .widSet 3 5 4 false 2), (0x48657B4A, .ld 3 5 1 1 0x369 2), (0x4C655B4A, .st 3 5 1 0 0x369 2),
   (0x5065734A, .ldx 3 5 1 1 4 0x69 2), (0x54050002, .verase 5 false 2), (0x58654D62, .amoAdd 3 5 9 ⟨1, 0, 1, 6⟩ false 2)]
theorem decodes_seq2 : words_seq2.all (fun p => decide ((decodeSeq p.1).toOption = some p.2)) = true := by decide
theorem encodes_seq2 : words_seq2.all (fun p => p.2.wf && decide (encode p.2 = some p.1)) = true := by decide

/-- Sequencer words of major opcodes 0x17 to 0x22, written out from the encoding table of R178. -/
def words_seq3 : List (Code × Instr) :=
  [(0x5C654D62, .amoAnd 3 5 9 ⟨1, 0, 1, 6⟩ false 2), (0x60654D62, .amoOr 3 5 9 ⟨1, 0, 1, 6⟩ false 2),
   (0x64654D62, .amoXor 3 5 9 ⟨1, 0, 1, 6⟩ false 2), (0x68654D62, .amoMin 3 5 9 ⟨1, 0, 1, 6⟩ false 2),
   (0x6C654D62, .amoMax 3 5 9 ⟨1, 0, 1, 6⟩ false 2), (0x70654D62, .amoMinu 3 5 9 ⟨1, 0, 1, 6⟩ false 2),
   (0x74654D62, .amoMaxu 3 5 9 ⟨1, 0, 1, 6⟩ false 2), (0x78654D62, .amoSwap 3 5 9 ⟨1, 0, 1, 6⟩ false 2),
   (0x7C654D62, .cas 3 5 9 ⟨1, 0, 1, 6⟩ false 2), (0x81800002, .fence 6 false 2), (0x84656002, .publish 3 5 6 false 2),
   (0x8812D372, .wshrLocal 0x969 5 false 2), (0x88654802, .wrdCore 3 5 9 false 2), (0x8865480A, .wflCore 3 5 9 false 2),
   (0x88654812, .wshrCore 3 5 9 false 2), (0x8865481A, .wstCore 3 5 9 false 2), (0x8872D362, .wrdLocal 3 0x969 5 2),
   (0x8872D36A, .wflLocal 3 0x969 5 2)]
theorem decodes_seq3 : words_seq3.all (fun p => decide ((decodeSeq p.1).toOption = some p.2)) = true := by decide
theorem encodes_seq3 : words_seq3.all (fun p => p.2.wf && decide (encode p.2 = some p.1)) = true := by decide

/-- Sequencer words of major opcodes 0x22 to 0x26, written out from the encoding table of R178. -/
def words_seq4 : List (Code × Instr) :=
  [(0x8872D37A, .wstLocal 3 0x969 5 2), (0x8C6553C2, .sbind 3 5 0xA7 2 2), (0x8C6553CA, .sgo 3 5 0xA7 2 2), (0x8C6553D2, .sstop 3 5 0xA7 2 2),
   (0x8C6553DA, .sbar 3 5 0xA7 2 2), (0x90650002, .cfgLoad 3 5 false 2), (0x9065000A, .cfgShadow 3 5 false 2), (0x90650012, .cfgSwap 3 5 false 2),
   (0x9065001A, .cfgDrain 3 5 false 2), (0x90650022, .cfgPhase 3 5 false 2), (0x9065002A, .cfgSig 3 5 false 2),
   (0x94054D02, .taskFill 5 9 5 false 2), (0x94654D0A, .taskTake 3 5 9 5 false 2), (0x94654D12, .taskSteal 3 5 9 5 false 2),
   (0x94654D1A, .taskDone 3 5 9 5 false 2), (0x94654D22, .launch 3 5 9 5 false 2), (0x98656802, .xlat 3 5 6 1 false 2),
   (0x9865680A, .tlbinv 3 5 6 1 false 2)]
theorem decodes_seq4 : words_seq4.all (fun p => decide ((decodeSeq p.1).toOption = some p.2)) = true := by decide
theorem encodes_seq4 : words_seq4.all (fun p => p.2.wf && decide (encode p.2 = some p.1)) = true := by decide

/-- Sequencer words of major opcodes 0x26 to 0x29, written out from the encoding table of R178. -/
def words_seq5 : List (Code × Instr) :=
  [(0x98656812, .relatch 3 5 6 1 false 2), (0x9C650002, .lantReq 3 5 false 2), (0x9C65000A, .lantRel 3 5 false 2),
   (0xA0654802, .netWrite 3 5 9 false 2), (0xA065480A, .netRead 3 5 9 false 2), (0xA0654812, .netSend 3 5 9 false 2),
   (0xA065481A, .netStat 3 5 9 false 2), (0xA0654822, .netBind 3 5 9 false 2), (0xA405A94A, .csrw 5 0x2A5 false 2), (0xA4600012, .time 3 false 2),
   (0xA465A942, .csrr 3 5 0x2A5 2)]
theorem decodes_seq5 : words_seq5.all (fun p => decide ((decodeSeq p.1).toOption = some p.2)) = true := by decide
theorem encodes_seq5 : words_seq5.all (fun p => p.2.wf && decide (encode p.2 = some p.1)) = true := by decide

/-! ## Words that the manual writes out -/

/-- `fma.rtz t0, k0, v1 -> o1` (R60). -/
theorem test_word_fma : decodeStage 0x5D1009A0 = .fma ⟨8, 16, 1, 1, 1, 2, 0⟩ := by decide
/-- `li s5, 0x89AB`, `lui s5, 0x4567, 1` and `lui s5, 0x0123, 2` (R194). -/
theorem test_word_constants : (decodeSeq 0x30A44D58).toOption = some (.li 5 0x89AB 0) ∧ (decodeSeq 0x34AA2B38).toOption = some (.lui 5 1 0x4567 0)
    ∧ (decodeSeq 0x34B00918).toOption = some (.lui 5 2 0x0123 0) := by decide
/-- `fence.die` (R209), and `net.write s9, s5, s6` (R365). -/
theorem test_word_others : (decodeSeq 0x81400000).toOption = some (.fence 5 false 0) ∧ (decodeSeq 0xA1253000).toOption = some (.netWrite 9 5 6 false 0) := by decide
/-- A header within a block is no instruction (R181). -/
theorem test_word_header : (decodeSeq 0xFC000000).toOption = none := by decide

/-! ## Numbers -/

/-- R15: 1.0 and the least subnormal of FP32. -/
theorem test_fp32 : fp32.toFf36 0x3F800000 = 0x3FE000000 ∧ fp32.toFf36 1 = 0x2D4000000 := by decide
/-- R63: 1.5 by 2^-536 rounds to the least subnormal. -/
theorem test_fscale : fscaleOp .rne 0x3FF000000 (-536) = ⟨1, 0⟩ := by decide
/-- R67: 1.0, and a NaN that is not the canonical one. -/
theorem test_fclass : fclassOp 0x3FE000000 = 0x40 ∧ fclassOp 0xFFF000001 = 0x200 := by decide
/-- R68: 2.5, −2.5, −0.5 and 0.75 in the four modes. -/
theorem test_frnd : [RMode.rne, .rtz, .rup, .rdn].map (fun m => frndOp m 0x400800000) = [0x400000000, 0x400000000, 0x401000000, 0x400000000]
    ∧ [RMode.rne, .rtz, .rup, .rdn].map (fun m => frndOp m 0xC00800000) = [0xC00000000, 0xC00000000, 0xC00000000, 0xC01000000]
    ∧ [RMode.rne, .rtz, .rup, .rdn].map (fun m => frndOp m 0xBFC000000) = [0x800000000, 0x800000000, 0x800000000, 0xBFE000000]
    ∧ [RMode.rne, .rtz, .rup, .rdn].map (fun m => frndOp m 0x3FD000000) = [0x3FE000000, 0, 0x3FE000000, 0] := by decide +kernel
/-- R70: 2^40 saturates, and −2.5 rounds to −2. -/
theorem test_cvtFi : cvtFiOp .rne .sat36 0x44E000000 = ⟨0x7FFFFFFFF, 2⟩ ∧ cvtFiOp .rne .sat32 0x44E000000 = ⟨0x7FFFFFFF, 2⟩
    ∧ cvtFiOp .rne .sat36 0xC00800000 = ⟨-2, 0⟩ := by decide +kernel
/-- R71: 2^26 + 1 lies between 2^26 and 2^26 + 2. -/
theorem test_cvtIf : (cvtIfOp .rne 67108865).val = 0x432000000 ∧ (cvtIfOp .rtz 67108865).val = 0x432000000 ∧ (cvtIfOp .rup 67108865).val = 0x432000001 := by
  decide +kernel
/-- R72: `imad` clamps once, after the exact sum. -/
theorem test_imad : satm .sat32 (2 ^ 17 * 2 ^ 17 + (-2 ^ 34 + 5)) = ⟨5, 0⟩ ∧ satm .sat32 (2 ^ 18 * 2 ^ 18 + -1) = ⟨0x7FFFFFFF, 2⟩
    ∧ satm .wrap (2 ^ 18 * 2 ^ 18 + -1) = ⟨-1, 0⟩ := by decide
/-- R105: of 0.5, −3, NaN and 3 the lanes 1 and 2 are kept. -/
theorem test_cpr : cprKept (cprKey false 4 fun l => [0x3FC000000, 0xC01000000, 0x7FF000000, 0x401000000][l]?.getD 0) 0 = [1, 2] := by decide +kernel
/-- R161 and the example under R164: the dither at frame indices 1 and 2 of seed 0. -/
theorem test_helictite : helictite 0 1 = (159, 27185) ∧ helictite 0 2 = (62, 54371) := by decide
/-- R164: the code stored for −5.75, and its readings by 8 and by 4 planes. -/
theorem test_planes : qcode 0xC02E00000 127 0x3F800000 159 27185 4 = (25, 0) ∧ bpval 25 127 0x3F800000 159 27185 8 = (0xC02F51880, false)
    ∧ bpval 16 127 0x3F800000 159 27185 4 = (0xC03B51880, false) := by decide +kernel
/-- R204: signed and unsigned minimum of 4 bytes differ on 0xFFFFFFFF. -/
theorem test_amo : amoValue 0x1A 32 0xFFFFFFFF 1 = 0xFFFFFFFF ∧ amoValue 0x1C 32 0xFFFFFFFF 1 = 1 ∧ amoValue 0x16 32 0xFFFFFFFF 2 = 1 := by decide

/-! ## Addresses -/

/-- R302: the two examples. -/
theorem test_slices : sliceOf 0x500001A3C = 266 ∧ sliceOffset 0x500001A3C = 327740 ∧ sliceOf 0x600000044 = 2 ∧ sliceOffset 0x600000044 = 393220 := by decide
/-- R312: the word of a writable 2 MiB page of die 2. -/
theorem test_translationWord : (({ base with tlbs := [(0, [⟨0, ⟨0x4000600000, 0x2040000000, false, true, false⟩⟩])] } : State).translationWord 0 0
    (0x4000000000 + 3 * 0x200000)).1 = some 0x200010200 := by decide +kernel
/-- R176: a width of 100, and widths of 32 and 32, which total 64. -/
theorem test_widf : widfWarn 100 = swWIDX ∧ widfWarn (32 + 32 * 128) = 0 := by decide
/-- R27, R29, R32: bits 35:10 of a restored control word are ignored, a COUNT of 20 reads as 16, and MARK 7 has COUNT 0. -/
theorem test_control : restoredControl 0xFFFFFFC05 = (5, 0) ∧ restoredControl 20 = (16, cwBCNT) ∧ restoredControl 0xE3 = (0xE0, cwCMARK) := by decide
/-- R6: core (17, 3) of die 5. -/
theorem test_coreNumber : coreOf 5 17 3 = 328465 := by decide

/-! ## Steps -/

/-- What a next state shows; none for a fault or a refusal. -/
def shows {α : Type} (f : State → α) : Host.Outcome State Fault Refusal → Option α
  | .next t => some (f t)
  | _ => none
/-- A working register of sequencer 0, and the warnings of its block. -/
def regNow (d : Reg) (s : State) : Word := match (s.seq 0).blk with | some b => readReg b.regs d | none => 0
def warnNow (s : State) : Word := match (s.seq 0).blk with | some b => b.swarn | none => 0

/-- s2 is 5: adding −1 gives 4, and s0 stays 0. -/
theorem test_addi : shows (regNow 4) (exec (.addi 4 2 0x1FFF 0) (baseWith blk0)) = some 4
    ∧ shows (regNow 0) (exec (.addi 0 2 1 0) (baseWith blk0)) = some 0 := by decide +kernel
/-- R192: a division by 0 gives −1 and sets DIVZ; its remainder is the dividend. -/
theorem test_divide : shows (fun t => (regNow 4 t, warnNow t)) (exec (.div 4 2 0 false 0) (baseWith blk0)) = some (-1, 0x40)
    ∧ shows (regNow 4) (exec (.rem 4 2 0 false 0) (baseWith blk0)) = some 5 := by decide +kernel
/-- R194: the constant that the manual builds with three words, its last. -/
theorem test_lui : shows (regNow 5) (exec (.lui 5 2 0x0123 0) (baseWith (Block.start [0] (regs0.set 5 0x456789AB) (Vector.replicate 8 false))))
    = some 0x0123456789AB := by decide +kernel
/-- R195: −1 is below 5 signed, and not unsigned. -/
theorem test_cmp : shows (fun t => match (t.seq 0).blk with | some b => readPred b.preds 1 | none => false)
      (exec (.cmp 1 4 2 2 false 0) (baseWith (Block.start [0] (regs0.set 4 (-1)) (Vector.replicate 8 false)))) = some true
    ∧ shows (fun t => match (t.seq 0).blk with | some b => readPred b.preds 1 | none => true)
      (exec (.cmp 1 4 2 3 false 0) (baseWith (Block.start [0] (regs0.set 4 (-1)) (Vector.replicate 8 false)))) = some false := by decide +kernel
/-- R187, R188: a load from address 5 traps ALIGN (3) at word 0. -/
theorem test_align : shows (fun t => ((t.seq 0).ecause, (t.seq 0).eaddr, (t.seq 0).tl)) (exec (.ld 4 2 1 0 0 0) (baseWith blk0)) = some (3, 5, true) := by
  decide +kernel
/-- R199: a load of the two bytes FE FF at address 0x1000 that has performed, signed and unsigned; the slice reads them as 0xFFFE. -/
def backBlk : Block := { blk0 with loads := [⟨0, [⟨7, 0x1000, 2, [⟨0, 2, .value 0xFFFE true⟩]⟩]⟩] }
theorem test_load : shows (regNow 4) (exec (.ld 4 1 1 0 0 0) (baseWith backBlk)) = some (-2)
    ∧ shows (regNow 4) (exec (.ld 4 1 1 1 0 0) (baseWith backBlk)) = some 0xFFFE
    ∧ ((base.writeBytes 0x1000 [0xFE, 0xFF]).loadFloor 0x1000 2).1 = some 0xFFFE := by decide +kernel
/-- R183: a store is not seen before its block commits. -/
theorem test_store : shows (fun t => (t.readByte 0x1000, ((t.seq 0).blk.map fun b => b.effects.length))) (exec (.st 2 1 0 0 0 0) (baseWith blk0)) = some (0, some 1) := by
  decide +kernel
/-- R39, R72: `iadd` of the lane number with itself, in the stage of a firing: lane 3 is 6, and the firing goes on to stage 2. -/
theorem test_iadd : shows (fun t => (t.core 0).pipe.map fun f => (f.stage, f.vals[0].map fun b => b.lanes[3])) (exec (.iadd (f0 24 24 31)) (stageState [fire0]))
    = some [(2, some 6)] := by decide +kernel
/-- R300: the fourth failure in a row stops a link. -/
theorem test_linkStops : shows (fun t => t.deadLinks) (exec (.uncorrectableLinkError (.fabric 0 .east)) { base with linkFails := [(.fabric 0 .east, 3)] })
    = some [.fabric 0 .east] := by decide +kernel
/-- R337: a command that no number names is REFUSED. -/
theorem test_mailbox : shows (fun t => t.pkg.mailbox.running) (exec .mailboxUnknown (mail hosted (mail3 0x80 0 0 0))) = some none := by decide +kernel
/-- R356: the step after the hard limit stops the module. -/
theorem test_stop : step { base with pkg := { pkg0 with stopped := true } } = .fault .moduleStopped := rfl
/-- The interface to the host: a word placed where the next step fetches runs first, as it does from reset. -/
theorem test_fetchWord : decodeTableWord 32 0x14220028 = some (.addi 1 2 5 0) ∧ decodeTableWord 0 0 = none
    ∧ shows (regNow 1) (step (State.reset.withFetchWord 32 0x14220028)) = some 5 := by decide +kernel

end Sys2Proof.Tests
end

section
/-! PROOFS. What the stage of a firing that runs comes to (03 R39 to R46), for every stage whose body forms a value. -/

namespace Sys2Proof.Claims

open Sys2Proof.Machine

/-- What a stage has formed, as it leaves the stage: its beats settled, with the graph number of the handler (R32, R34). -/
def leaving (h : HandlerRec) (r : StageOut) : StageOut :=
  { r with val := r.val.settled.inGraph h, outs := r.outs.map fun (d, b) => (d, b.settled.inGraph h) }

/-- The beats that a stage delivers: those that it sends by itself, then its value to each destination of DST (R46). -/
def delivered (r : StageOut) (dests : List Dest) : List (Dest × Beat) := r.outs ++ dests.map fun d => (d, r.val)

variable {s : State} {n k : Nat} {fr : Firing} {op : BitVec 6} {f : StageFields} {o : Operands}

/-- Where a firing stands at a stage that may run, the instruction is one step of that firing. -/
theorem StandsAt.runStage (h : StandsAt s n k fr) (op : Nat) (f : StageFields) (body : StageCtx → Operands → StageRes) :
    s.runStage op f body = .next (s.stageStep n k fr op f body) := by
  have canRun : ¬ (fr.stage < 1 ∨ 6 < fr.stage ∨ s.coreFrozen n = true ∨ fr.hold = some .stopped) := by
    rintro (low | high | frozen | stopped)
    · exact absurd h.stage.1 (by omega)
    · exact absurd h.stage.2 (by omega)
    · simp [h.running.1] at frozen
    · exact h.running.2 stopped
  simp only [State.runStage, h.focus, h.firing, if_neg canRun]

/-- No older firing stands before a stage that runs. -/
theorem StageRuns.olderFirst (h : StageRuns s n k fr op f o) : s.olderFirst n k fr op.toNat f = false := by
  simpa [State.olderFirst, List.any_eq_false] using h.older

/-- A stage that runs does what its body says with the operands it has. -/
theorem StageRuns.stageStep (h : StageRuns s n k fr op f o) {body : StageCtx → Operands → StageRes} {r : StageOut}
    (hb : body (seen s n k fr f) o = .out r) :
    s.stageStep n k fr op.toNat f body =
      s.finishStage n k fr f (s.core n).active[fr.slot] { r with reads := r.reads ++ o.reads } (dstDests (s.core n).active[fr.slot] f.dst)
        (lanternWarn op.toNat f ||| o.cwarn) := by
  obtain rfl := h.operands
  exact State.stageStep_runs h.olderFirst h.filled hb

/-- A key out of order under STRICT is recorded as a data fault (R103, R140, R143). -/
def keyRecorded (t : State) (n : Nat) (fr : Firing) : Option (Lane × Win) → State
  | some (key, win) => faulted t n 1 fr.slot.val fr.stage win.val 0 (key.setWidth 64) 0
  | none => t

section
variable {h : HandlerRec} {r : StageOut} {dests : List Dest} {cwarn : Lane} {u' : Core} {sent : Nat} {w : Lane}

/-- Where a beat has no room the stage holds, with the earlier ones delivered (R42). -/
theorem finishStage_holds {hd : Hold} (hread : (s.core n).badRead r.reads = none)
    (hdel : (s.core n).deliverAll ((delivered (leaving h r) dests).drop fr.sent) = (u', sent, w, some hd)) :
    let fr' := fr.filling ((s.core n).newFills u')
    s.finishStage n k fr f h r dests cwarn =
      s.setCore n (u'.setFiring k (u'.held { fr' with sent := fr'.sent + sent, cwarn := fr'.cwarn ||| w } hd)) := by
  simp only [delivered, leaving] at hdel
  simp only [State.finishStage, hread, hdel]

/-- Where every beat has room the stage is done, and its key fault is recorded (R41, R103). -/
theorem finishStage_commits (hread : (s.core n).badRead r.reads = none)
    (hdel : (s.core n).deliverAll ((delivered (leaving h r) dests).drop fr.sent) = (u', sent, w, none)) :
    let fr' := fr.filling ((s.core n).newFills u')
    let t := s.setCore n (u'.commitStage k fr' (f.dst != 7) (leaving h r) (cwarn ||| w))
    s.finishStage n k fr f h r dests cwarn =
      thenCompletes n fr' (keyRecorded t n fr' r.keyFault) := by
  simp only [delivered, leaving] at hdel
  simp only [State.finishStage, hread, hdel]
  rfl

end

/-- What a stage forms is delivered and committed, or holds, as `gives` says (R41, R42, R46). -/
theorem gives_of_finishStage {i : Instr} {r : StageOut}
    (hx : exec i s = .next (s.finishStage n k fr f (s.core n).active[fr.slot] { r with reads := r.reads ++ o.reads }
      (dstDests (s.core n).active[fr.slot] f.dst) (lanternWarn op.toNat f ||| o.cwarn))) : gives s n k fr op f o i r := by
  intro hread u' sent w hd hdel
  constructor
  · rintro hold rfl
    exact hx.trans (congrArg _ (finishStage_holds hread hdel))
  · rintro rfl
    exact hx.trans (congrArg _ (finishStage_commits hread hdel))

/-- A stage that runs gives what its body forms. -/
theorem StageRuns.gives (h : StageRuns s n k fr op f o) {i : Instr} {body : StageCtx → Operands → StageRes} {r : StageOut}
    (hx : exec i s = s.runStage op.toNat f body) (hb : body (seen s n k fr f) o = .out r) : gives s n k fr op f o i r :=
  gives_of_finishStage (by rw [hx, h.runStage, h.stageStep hb])

/-- A stage that runs a function of its operands in each lane writes it in each lane below COUNT (R23, R29, R45). -/
theorem computes_of_compute {op : BitVec 6} {i : StageFields → Instr} {warn : StageFields → Lane} {g : StageFields → Lane → Lane → Lane → Flagged}
    (hx : ∀ f s, exec (i f) s = s.runStage op.toNat f fun x o => x.compute o (warn f) (g f)) : Computes op i warn g :=
  fun s _ _ _ f _ h => h.gives (hx f s) rfl

end Sys2Proof.Claims
end

section
/-! PROOFS. The float stages (02 R18 to R26; 04 R62 to R71). -/

namespace Sys2Proof.Claims

open Sys2Proof.Machine

/-- Settles O21: the meaning of each float stage is the shared compute stage with its own FF36 operation and its own
warnings of MOD and AUX, so `computes_of_compute` settles each by unfolding `exec` at one instruction. -/
theorem floatStagesCompute : Obligations.FloatStagesCompute := by
  unfold Obligations.FloatStagesCompute
  and_intros <;> exact computes_of_compute fun _ _ => rfl

end Sys2Proof.Claims
end

section
/-! PROOFS. Wrapping integer sums (02 R16, R35; 04 R80 to R83): every ⊕ is addition modulo 2^36, so every shape comes to the same sum. -/

namespace Sys2Proof.Machine

/-- The kind of wrapping integer sums: MOD 0b100 (R47). -/
def wrapSum : AccKind := accKind .sum 4

/-- What a term adds to a wrapping sum. -/
def Term.worth (x : Term) : Lane := BitVec.ofInt 36 (x.int wrapSum)

/-- What a node that may be absent adds to a wrapping sum. -/
def nodeWorth (x : Option Term) : Lane := (x.map Term.worth).getD 0

/-- What a sum that may be empty holds. -/
def sumWorth (v : Option Lane) : Lane := v.getD 0

@[simp] theorem worth_word (w : Lane) : (Term.word w).worth = w := BitVec.ofInt_toInt

@[simp] theorem nodeWorth_none : nodeWorth none = 0 := rfl
@[simp] theorem nodeWorth_some (x : Term) : nodeWorth (some x) = x.worth := rfl
@[simp] theorem sumWorth_none : sumWorth none = 0 := rfl
@[simp] theorem sumWorth_some (w : Lane) : sumWorth (some w) = w := rfl

/-- The sum of the integers of some terms, modulo 2^36, is the sum of what they add. -/
theorem ofInt_sum_int (terms : List Term) : BitVec.ofInt 36 (terms.map (Term.int wrapSum)).sum = (terms.map Term.worth).sum := by
  induction terms with
  | nil => rfl
  | cons x xs ih => simp [BitVec.ofInt_add, ih, Term.worth]

theorem wrapSum_join (x y : Term) : wrapSum.join x y = ⟨x.worth + y.worth, 0⟩ := by
  rw [Term.worth, Term.worth, ← BitVec.ofInt_add]
  rfl

theorem wrapSum_step (s : Option Lane) (x : Term) : wrapSum.step s x = ⟨sumWorth s + x.worth, 0⟩ := by
  cases s with
  | none => exact congrArg (Flagged.mk · 0) (BitVec.zero_add x.worth).symm
  | some v => exact (wrapSum_join (.word v) x).trans (by rw [worth_word, sumWorth_some])

theorem wrapSum_deliver (v : Lane) : wrapSum.deliver v = ⟨v, 0⟩ := rfl

theorem wrapSum_pair_flags (x y : Option Term) : (wrapSum.pair x y).2 = 0 := by
  cases x <;> cases y <;> simp [AccKind.pair, wrapSum_join]

theorem wrapSum_pair_worth (x y : Option Term) : nodeWorth (wrapSum.pair x y).1 = nodeWorth x + nodeWorth y := by
  cases x <;> cases y <;> simp [AccKind.pair, wrapSum_join]

/-! ## SEQ -/

theorem addAll_seq (terms : List Term) (cell : LaneCell) :
    sumWorth (wrapSum.addAll .seq cell terms).1.s = sumWorth cell.s + (terms.map Term.worth).sum ∧ (wrapSum.addAll .seq cell terms).2 = 0 := by
  induction terms generalizing cell with
  | nil => simp [AccKind.addAll]
  | cons x xs ih =>
    simp [AccKind.addAll, AccKind.add, wrapSum_step, ih, BitVec.add_assoc]

/-! ## SPLIT4 -/

/-- What the four sums of SPLIT4 hold together. -/
def splitWorth (q : Vector (Option Lane) 4) : Lane := sumWorth q[0] + sumWorth q[1] + (sumWorth q[2] + sumWorth q[3])

theorem splitWorth_set (q : Vector (Option Lane) 4) (w : Lane) {j : Nat} (h : j < 4) :
    splitWorth (q.setIfInBounds j (some (sumWorth (q[j]?).join + w))) = splitWorth q + w := by
  have cases : j = 0 ∨ j = 1 ∨ j = 2 ∨ j = 3 := by omega
  have first (a b c d : Lane) : a + w + b + (c + d) = a + b + (c + d) + w := by ac_rfl
  have second (a b c d : Lane) : a + (b + w) + (c + d) = a + b + (c + d) + w := by ac_rfl
  have third (a b c d : Lane) : a + b + (c + w + d) = a + b + (c + d) + w := by ac_rfl
  have fourth (a b c d : Lane) : a + b + (c + (d + w)) = a + b + (c + d) + w := by ac_rfl
  simp only [splitWorth, Vector.getElem_setIfInBounds, Vector.getElem?_eq_getElem h, Option.join_some]
  rcases cases with rfl | rfl | rfl | rfl
  · exact first _ _ _ _
  · exact second _ _ _ _
  · exact third _ _ _ _
  · exact fourth _ _ _ _

theorem addAll_split4 (terms : List Term) (cell : LaneCell) :
    splitWorth (wrapSum.addAll .split4 cell terms).1.q = splitWorth cell.q + (terms.map Term.worth).sum
      ∧ (wrapSum.addAll .split4 cell terms).2 = 0 := by
  induction terms generalizing cell with
  | nil => simp [AccKind.addAll]
  | cons x xs ih =>
    have hj : cell.k % 4 < 4 := Nat.mod_lt _ (by decide)
    simp [AccKind.addAll, AccKind.add, wrapSum_step, ih, splitWorth_set _ _ hj, BitVec.add_assoc]

/-- Two sums that may be empty join to one. -/
theorem pair_words (x y : Option Lane) :
    ∃ v, wrapSum.pair (x.map .word) (y.map .word) = (v.map .word, 0) ∧ sumWorth v = sumWorth x + sumWorth y := by
  cases x with
  | none => exact ⟨y, rfl, by simp⟩
  | some a =>
    cases y with
    | none => exact ⟨some a, rfl, by simp⟩
    | some b => exact ⟨some (a + b), by simp [AccKind.pair, wrapSum_join], rfl⟩

theorem final_split4 (cell : LaneCell) :
    sumWorth (wrapSum.final .split4 cell).1 = splitWorth cell.q ∧ (wrapSum.final .split4 cell).2 = 0 := by
  obtain ⟨a, ha, wa⟩ := pair_words cell.q[0] cell.q[1]
  obtain ⟨b, hb, wb⟩ := pair_words cell.q[2] cell.q[3]
  obtain ⟨v, hv, wv⟩ := pair_words a b
  have e : wrapSum.final .split4 cell = (v, 0) := by
    simp only [AccKind.final, ha, hb, hv]
    cases v <;> rfl
  simp [e, wv, wa, wb, splitWorth]

/-! ## TREE16 -/

theorem level_worth : ∀ l : List (Option Term),
    ((wrapSum.level l).1.map nodeWorth).sum = (l.map nodeWorth).sum ∧ (wrapSum.level l).2 = 0
  | [] => by simp [AccKind.level]
  | [x] => by simp [AccKind.level]
  | x :: y :: rest => by simp [AccKind.level, wrapSum_pair_worth, wrapSum_pair_flags, level_worth rest, BitVec.add_assoc]

theorem level_length : ∀ l : List (Option Term), (wrapSum.level l).1.length = (l.length + 1) / 2
  | [] => by simp [AccKind.level]
  | [x] => by simp [AccKind.level]
  | x :: y :: rest => by
    simp only [AccKind.level, List.length_cons, level_length rest]
    omega

/-- T of R35 over sixteen lanes adds up the lanes that are there. -/
theorem tree_worth (l : List (Option Term)) (h : l.length = 16) :
    nodeWorth (wrapSum.tree l).1 = (l.map nodeWorth).sum ∧ (wrapSum.tree l).2 = 0 := by
  have top : (wrapSum.level (wrapSum.level (wrapSum.level (wrapSum.level l).1).1).1).1.length = 1 := by simp [level_length, h]
  obtain ⟨v, hv⟩ := List.length_eq_one_iff.mp top
  have sum := (level_worth (wrapSum.level (wrapSum.level (wrapSum.level l).1).1).1).1
  simp only [hv, level_worth, List.map_cons, List.map_nil, List.sum_cons, List.sum_nil] at sum
  simpa [AccKind.tree, hv, level_worth] using sum

/-- Absent lanes add nothing. -/
theorem sum_absent (n : Nat) : ((List.replicate n (none : Option Term)).map nodeWorth).sum = 0 := by
  induction n with
  | zero => rfl
  | succ n ih => rw [List.replicate_succ, List.map_cons, List.sum_cons, ih]; rfl

/-- Present lanes add what their terms add. -/
theorem sum_present (terms : List Term) (l : List (Option Term)) :
    ((terms.map some ++ l).map nodeWorth).sum = (terms.map Term.worth).sum + (l.map nodeWorth).sum := by
  induction terms with
  | nil => exact (BitVec.zero_add _).symm
  | cons x xs ih =>
    simp only [List.map_cons, List.cons_append, List.sum_cons, ih, nodeWorth_some, BitVec.add_assoc]

/-- The lanes of a beat that has no more than sixteen terms, the others absent, add up to what its terms add. -/
theorem nodeWorth_lanes (terms : List Term) (n : Nat) :
    ((terms.map some ++ List.replicate n none).map nodeWorth).sum = (terms.map Term.worth).sum := by
  rw [sum_present, sum_absent]
  exact BitVec.add_zero _

/-- A scalar stage leaves no node pending in its cell, so closing the cell's group adds nothing. -/
theorem close_without_nodes (k : AccKind) (s : Option Lane) (q : Vector (Option Lane) 4) (n : Nat) :
    k.close ⟨s, q, Vector.replicate 4 none, none, n⟩ = (s, 0) := by
  simp [AccKind.close, AccKind.pair]

/-! ## One scalar reduction -/

/-- What an empty cell holds once the terms of a beat have joined it, and the flags that joining them set. -/
def reduced (shape : Shape) (terms : List Term) : CellStep := wrapSum.addScalar shape LaneCell.empty terms

theorem reduced_tree16 (terms : List Term) (h : terms.length ≤ 16) :
    sumWorth (wrapSum.final .tree16 (reduced .tree16 terms).1).1 = (terms.map Term.worth).sum
      ∧ (wrapSum.final .tree16 (reduced .tree16 terms).1).2 = 0 ∧ (reduced .tree16 terms).2 = 0 := by
  obtain ⟨worth, flags⟩ := tree_worth (terms.map some ++ List.replicate (16 - terms.length) none)
    (by rw [List.length_append, List.length_map, List.length_replicate]; omega)
  rw [nodeWorth_lanes] at worth
  simp only [reduced, AccKind.addScalar, if_true, AccKind.final]
  cases hv : (wrapSum.tree (terms.map some ++ List.replicate (16 - terms.length) none)).1 with
  | none =>
    rw [hv] at worth
    simp [close_without_nodes, flags, ← worth, LaneCell.empty]
  | some x =>
    rw [hv] at worth
    simp [close_without_nodes, flags, wrapSum_step, ← worth, LaneCell.empty]

/-- Whichever shape adds them, the terms of a beat come to their sum modulo 2^36, without a flag (R35, R80). -/
theorem reduced_worth (shape : Shape) (terms : List Term) (h : terms.length ≤ 16) :
    sumWorth (wrapSum.final shape (reduced shape terms).1).1 = (terms.map Term.worth).sum
      ∧ (wrapSum.final shape (reduced shape terms).1).2 = 0 ∧ (reduced shape terms).2 = 0 := by
  cases shape with
  | seq =>
    obtain ⟨worth, flags⟩ := addAll_seq terms LaneCell.empty
    exact ⟨worth.trans (BitVec.zero_add _), rfl, flags⟩
  | split4 =>
    obtain ⟨worth, flags⟩ := addAll_split4 terms LaneCell.empty
    obtain ⟨fin, noFlag⟩ := final_split4 (reduced .split4 terms).1
    exact ⟨fin.trans (worth.trans (BitVec.zero_add _)), noFlag, flags⟩
  | tree16 => exact reduced_tree16 terms h

/-- The empty result of a sum is 0 (R83). -/
theorem emptyResult_sum {op : Nat} (h : op ≠ 0x2A) (h' : op ≠ 0x2B) (k : AccKind) : emptyResult op k = 0 := by
  unfold emptyResult
  split
  · exact absurd rfl h
  · exact absurd rfl h'
  · rfl

/-- The result beat of a scalar sum: its value, or 0 for an empty sum, in lane 0 (R82, R83). -/
theorem scalarResult_wrapSum {op : Nat} (h : op ≠ 0x2A) (h' : op ≠ 0x2B) (shape : Shape) (cell : LaneCell) (m : BitVec 3) :
    let r := wrapSum.scalarResult op shape cell m
    r.1.lanes[0] = sumWorth (wrapSum.final shape cell).1 ∧ r.1.count = 1 ∧ r.1.mark = m ∧ r.2 = (wrapSum.final shape cell).2 := by
  cases hv : (wrapSum.final shape cell).1 <;> simp [AccKind.scalarResult, hv, wrapSum_deliver, emptyResult_sum h h']

/-- A scalar stage whose reduction field is 0 reduces with every firing (R81): its value and its flags are those of its cell's result. -/
theorem accumulate_scalar_reduces (x : StageCtx) (op : Nat) (k : AccKind) (m : BitVec 3) (n : Nat) (warn : Lane) (lanes : Nat → Option Term)
    (terms : List Term) (h : bv x.f.aux 0 2 = 0)
    (he : (x.core.dyn[x.fr.slot].sections[x.fr.stage - 1]?).getD AccSection.empty = AccSection.empty) :
    let c := k.addScalar (shapeOf x.f.aux) LaneCell.empty terms
    let b := k.scalarResult op (shapeOf x.f.aux) c.1 m
    let r := x.accumulate op k true m n warn lanes terms
    r.val = b.1 ∧ r.flags = c.2 ||| b.2 := by
  have cell : AccSection.empty.cells[0] = LaneCell.empty := rfl
  simp only [StageCtx.accumulate, he, cell, h, true_or, if_true, Vector.getElem_set_self]
  exact ⟨rfl, rfl⟩

end Sys2Proof.Machine

namespace Sys2Proof.Claims

open Sys2Proof.Machine

/-- Settles O23: the result of the reduction is the sum that `reduced_worth` gives for every shape. -/
theorem everyShapeSumsWrappingIntegers : Obligations.EveryShapeSumsWrappingIntegers := by
  intro x op m n warn lanes terms _ haux hlen hempty hop hop' r
  have hfield : bv x.f.aux 0 2 = 0 := by simpa [bv, bitsOf] using haux
  let shape := shapeOf x.f.aux
  let c := reduced shape terms
  let b := wrapSum.scalarResult op shape c.1 m
  obtain ⟨hval, hflags⟩ : r.val = b.1 ∧ r.flags = c.2 ||| b.2 := accumulate_scalar_reduces x op wrapSum m n warn lanes terms hfield hempty
  obtain ⟨worth, finFlags, addFlags⟩ := reduced_worth shape terms hlen
  obtain ⟨lane, count, mark, flags⟩ := scalarResult_wrapSum hop hop' shape c.1 m
  rw [hval, hflags]
  refine ⟨?_, count, mark, ?_⟩
  · calc b.1.lanes[0] = (terms.map Term.worth).sum := lane.trans worth
      _ = BitVec.ofInt 36 (terms.map (Term.int wrapSum)).sum := (ofInt_sum_int terms).symm
  · calc c.2 ||| b.2 = 0 ||| 0 := by rw [show c.2 = 0 from addFlags, show b.2 = 0 from flags.trans finFlags]
      _ = 0 := rfl

end Sys2Proof.Claims
end

section
/-! PROOFS. Rounding to the FF36 grid (02 R13, R18, R19). -/

namespace Sys2Proof.Claims

open Sys2Proof.Machine

/-- A magnitude that lies on the grid is not rounded. -/
theorem awayFromZero_exact (mode : RMode) (neg : Bool) (q k : Nat) : awayFromZero mode neg q 0 k = false := by
  have hk : 0 ≠ 2 ^ k := Nat.ne_of_lt (Nat.two_pow_pos k)
  cases mode <;> simp [awayFromZero, hk]

/-- The model rounds an exact magnitude away from zero as R18 says. -/
theorem roundsUp_eq_awayFromZero (mode : RMode) (neg : Bool) (q r k : Nat) : roundsUp mode neg q r k false = awayFromZero mode neg q r k := by
  cases mode with
  | rne =>
    rcases Nat.lt_trichotomy (2 * r) (2 ^ k) with below | tie | above
    · have notAbove : ¬ 2 ^ k < 2 * r := by omega
      have notTie : ¬ 2 * r = 2 ^ k := by omega
      simp [roundsUp, awayFromZero, below, notAbove, notTie]
    · have hr : (r != 0) = true := by
        have pos : 0 < 2 ^ k := Nat.two_pow_pos k
        exact bne_iff_ne.mpr (by omega)
      have odd : (q % 2 == 1) = decide (q % 2 = 1) := rfl
      simp [roundsUp, awayFromZero, tie, hr, odd]
    · have notBelow : ¬ 2 * r < 2 ^ k := by omega
      simp [roundsUp, awayFromZero, above, notBelow]
  | rtz => rfl
  | rup => simp [roundsUp, awayFromZero]
  | rdn => simp [roundsUp, awayFromZero]

/-- The step of the grid that a magnitude of q steps and r / 2^k of one is rounded to (R18). -/
def roundedStep (mode : RMode) (neg : Bool) (m k : Nat) : Nat :=
  m / 2 ^ k + if awayFromZero mode neg (m / 2 ^ k) (m % 2 ^ k) k then 1 else 0

theorem roundToGrid_exact (mode : RMode) (neg : Bool) (m k : Nat) (g : Int) :
    roundToGrid mode neg ⟨m, g - k, false⟩ g = roundedStep mode neg m k := by
  rcases Nat.eq_zero_or_pos k with rfl | hk
  · simp [roundToGrid, roundedStep, Nat.mod_one, awayFromZero_exact]
  · have hg : ¬ g ≤ g - k := by omega
    have hs : (g - (g - (k : Int))).toNat = k := by omega
    simp only [roundToGrid, hg, if_false, hs, roundsUp_eq_awayFromZero, roundedStep]
    split <;> rfl

/-- The sign bit of a word. -/
def signPart (neg : Bool) : Nat := if neg then 2 ^ 35 else 0

/-- The word of a result beyond the largest finite one (R19). -/
def beyond (mode : RMode) (neg : Bool) : Nat := signPart neg + if toInfinity mode neg then 1023 * 2 ^ 25 else 1023 * 2 ^ 25 - 1

/-- The word, and OVF, of q steps of 2^g, where q has at most 26 bits and the carry of the rounding (R13, R19). -/
def stepsToWord (mode : RMode) (neg : Bool) (q : Nat) (g : Int) : Nat × Bool :=
  let w := (g + 535).toNat * 2 ^ 25 + q
  if w < 1023 * 2 ^ 25 then (signPart neg + w, false) else (beyond mode neg, true)

@[simp] theorem ff36_low : ff36.low = -535 := rfl
@[simp] theorem ff36_top : ff36.top = 1023 := rfl
@[simp] theorem ff36_fb : ff36.fb = 25 := rfl

theorem ff36_word (neg : Bool) (ex frac : Nat) : ff36.word neg ex frac = signPart neg + (ex * 2 ^ 25 + frac) := Nat.add_assoc _ _ _

/-- The carry of the rounding goes into the exponent field. -/
theorem stepsToWord_carry (mode : RMode) (neg : Bool) {g : Int} (h : -535 ≤ g) :
    stepsToWord mode neg (2 ^ 26) g = stepsToWord mode neg (2 ^ 25) (g + 1) := by
  have e : (g + 535).toNat * 2 ^ 25 + 2 ^ 26 = (g + 1 + 535).toNat * 2 ^ 25 + 2 ^ 25 := by omega
  simp only [stepsToWord, e]

/-- A subnormal word holds its steps of the grid (R13). -/
theorem stepsToWord_subnormal (mode : RMode) (neg : Bool) {q : Nat} (h : q < 2 ^ 25) :
    stepsToWord mode neg q (-535) = (ff36.word neg 0 q, false) := by
  have fits : (-535 + 535 : Int).toNat * 2 ^ 25 + q < 1023 * 2 ^ 25 := by omega
  simp only [stepsToWord, if_pos fits, ff36_word]
  rfl

/-- A normal word holds the exponent field and the steps above the leading bit (R13). -/
theorem stepsToWord_normal (mode : RMode) (neg : Bool) {q : Nat} {g : Int} (hq : 2 ^ 25 ≤ q) (hg : -535 ≤ g) (h : g + 536 < 1023)
    (hq' : q < 2 ^ 26) : stepsToWord mode neg q g = (ff36.word neg (g - -535 + 1).toNat (q - 2 ^ 25), false) := by
  have fits : (g + 535).toNat * 2 ^ 25 + q < 1023 * 2 ^ 25 := by omega
  have e : (g + 535).toNat * 2 ^ 25 + q = (g - -535 + 1).toNat * 2 ^ 25 + (q - 2 ^ 25) := by omega
  simp only [stepsToWord, if_pos fits, ff36_word]
  rw [e]

/-- From the top exponent field on, a result overflows (R19). -/
theorem stepsToWord_overflow (mode : RMode) (neg : Bool) {q : Nat} {g : Int} (hq : 2 ^ 25 ≤ q) (h : 1023 ≤ g + 536) :
    stepsToWord mode neg q g = (beyond mode neg, true) := by
  have exceeds : ¬ (g + 535).toNat * 2 ^ 25 + q < 1023 * 2 ^ 25 := by omega
  simp only [stepsToWord, if_neg exceeds]

/-- Once the carry has gone into the exponent there are fewer than 2^26 steps, and the word is the same. -/
theorem stepsToWord_carried (mode : RMode) (neg : Bool) {q : Nat} {g : Int} (hg : -535 ≤ g) (hlow : g = -535 ∨ 2 ^ 25 ≤ q) (hhigh : q ≤ 2 ^ 26) :
    ∃ q' g', (if q = 2 ^ 26 then (2 ^ 25, g + 1) else (q, g)) = (q', g') ∧ stepsToWord mode neg q g = stepsToWord mode neg q' g'
      ∧ -535 ≤ g' ∧ (g' = -535 ∨ 2 ^ 25 ≤ q') ∧ q' < 2 ^ 26 := by
  by_cases carry : q = 2 ^ 26
  · exact ⟨2 ^ 25, g + 1, if_pos carry, by rw [carry, stepsToWord_carry mode neg hg], by omega, .inr (by decide), by decide⟩
  · exact ⟨q, g, if_neg carry, rfl, hg, hlow, by omega⟩

/-- A magnitude that is not far below the least subnormal is rounded to the grid of its binade, no finer than the subnormals' (R19). -/
theorem round_eq {mode : RMode} {neg : Bool} {x : Mag} {q : Nat} {g : Int} (hb : -538 ≤ x.binade) (hg : g = max (x.binade - 25) (-535))
    (hq : roundToGrid mode neg x g = q) (hlow : g = -535 ∨ 2 ^ 25 ≤ q) (hhigh : q ≤ 2 ^ 26) :
    ff36.round mode neg x = stepsToWord mode neg q g := by
  have hb' : ¬ x.binade < -535 - 3 := by omega
  obtain ⟨q', g', hcarry, hword, hg', hlow', hhigh'⟩ := stepsToWord_carried mode neg (by omega) hlow hhigh
  have fb : ((25 : Nat) : Int) = 25 := rfl
  have top : ((1023 : Nat) : Int) = 1023 := rfl
  simp only [FFormat.round, ff36_low, ff36_fb, ff36_top, hb', if_false, fb, top, ← hg, hq]
  rw [hcarry, hword]
  by_cases zero : q = 0
  · obtain ⟨rfl, rfl⟩ : q' = 0 ∧ g' = -535 := by
      rw [if_neg (by omega)] at hcarry
      simp only [Prod.mk.injEq] at hcarry
      omega
    rw [if_pos zero, stepsToWord_subnormal mode neg (by decide)]
    rfl
  rw [if_neg zero]
  dsimp only
  by_cases sub : q' < 2 ^ 25
  · obtain rfl : g' = -535 := by omega
    rw [if_pos sub, stepsToWord_subnormal mode neg sub]
  rw [if_neg sub]
  by_cases large : (1023 : Int) ≤ g' - -535 + 1
  · rw [if_pos large, stepsToWord_overflow mode neg (by omega) (by omega)]
    cases mode <;> cases neg <;> rfl
  · rw [if_neg large, stepsToWord_normal mode neg (by omega) hg' (by omega) hhigh']

/-- All magnitudes below half a step round alike (R18). -/
theorem awayFromZero_tiny (mode : RMode) (neg : Bool) {r k : Nat} (hr : 0 < r) (hk : 2 * r < 2 ^ k) :
    awayFromZero mode neg 0 r k = awayFromZero mode neg 0 1 3 := by
  have inexact : (r != 0) = true := bne_iff_ne.mpr (Nat.ne_of_gt hr)
  cases mode with
  | rne => simp [awayFromZero, Nat.le_of_lt hk]
  | rtz => rfl
  | rup => simp only [awayFromZero, inexact]; rfl
  | rdn => simp only [awayFromZero, inexact]; rfl

/-- A magnitude far below the least subnormal rounds as any other such one does (R19). -/
theorem round_tiny {mode : RMode} {neg : Bool} {x : Mag} (hb : x.binade < -538) :
    ff36.round mode neg x = stepsToWord mode neg (if awayFromZero mode neg 0 1 3 then 1 else 0) (-535) := by
  have hb' : x.binade < -535 - 3 := by omega
  simp only [FFormat.round, ff36_low, ff36_fb, ff36_top, hb', if_true]
  cases mode <;> cases neg <;> rfl

/-! ## Where the leading bit stands -/

theorem log2_of_binade {m k : Nat} (h : 2 ^ (25 + k) ≤ m) (h' : m < 2 ^ (26 + k)) : Nat.log2 m = 25 + k := by
  have hm : m ≠ 0 := by
    have := Nat.two_pow_pos (25 + k)
    omega
  exact (Nat.log2_eq_iff hm).mpr ⟨h, by rwa [show 25 + k + 1 = 26 + k by omega]⟩

theorem steps_lt {m k : Nat} (h : m < 2 ^ (26 + k)) : m / 2 ^ k < 2 ^ 26 :=
  Nat.div_lt_of_lt_mul (by rwa [Nat.mul_comm, ← Nat.pow_add])

theorem le_steps {m k : Nat} (h : 2 ^ (25 + k) ≤ m) : 2 ^ 25 ≤ m / 2 ^ k :=
  (Nat.le_div_iff_mul_le (Nat.two_pow_pos k)).mpr (by rwa [← Nat.pow_add])

/-- A magnitude with at most 26 bits above the grid of 2^g, and k bits below it, rounds to that grid, where it has all 26 or the grid is that of
the subnormals (R18, R19). -/
theorem rndFin_on_grid (mode : RMode) (neg : Bool) {m k : Nat} {g : Int} (hm : 0 < m) (hm' : m < 2 ^ (26 + k))
    (hg : g = -535 ∨ -535 ≤ g ∧ 2 ^ (25 + k) ≤ m) :
    rndFin mode neg m (g - k) =
      ⟨BitVec.ofNat 36 (stepsToWord mode neg (roundedStep mode neg m k) g).1,
        if (stepsToWord mode neg (roundedStep mode neg m k) g).2 then 1 else 0⟩ := by
  suffices e : ff36.round mode neg ⟨m, g - k, false⟩ = stepsToWord mode neg (roundedStep mode neg m k) g by
    simp only [rndFin, rnd36, if_neg (Nat.ne_of_gt hm), e]
    rfl
  by_cases tiny : Mag.binade ⟨m, g - k, false⟩ < -538
  · have hlog : Nat.log2 m + 3 < k ∧ g = -535 := by
      simp only [Mag.binade] at tiny
      rcases hg with hg | ⟨_, h⟩
      · omega
      · have := log2_of_binade h hm'
        omega
    have hsmall : 2 * m < 2 ^ k := by
      have : m < 2 ^ (k - 1) := (Nat.log2_lt (Nat.ne_of_gt hm)).mp (by omega)
      calc 2 * m < 2 * 2 ^ (k - 1) := by omega
        _ = 2 ^ k := by rw [← Nat.pow_succ']; congr 1; omega
    have step : roundedStep mode neg m k = if awayFromZero mode neg 0 1 3 then 1 else 0 := by
      rw [roundedStep, Nat.div_eq_of_lt (by omega), Nat.mod_eq_of_lt (by omega), awayFromZero_tiny mode neg hm hsmall, Nat.zero_add]
    rw [round_tiny tiny, step, hlog.2]
  · have hq := steps_lt hm'
    have up : roundedStep mode neg m k ≤ m / 2 ^ k + 1 := by
      unfold roundedStep
      split <;> omega
    refine round_eq (Int.not_lt.mp tiny) ?_ (roundToGrid_exact mode neg m k g) ?_ (by omega)
    · simp only [Mag.binade]
      by_cases normal : 2 ^ (25 + k) ≤ m
      · have := log2_of_binade normal hm'
        omega
      · have : Nat.log2 m < 25 + k := (Nat.log2_lt (Nat.ne_of_gt hm)).mpr (Nat.not_le.mp normal)
        omega
    · refine hg.imp_right fun h => ?_
      have := le_steps h.2
      unfold roundedStep
      omega

/-- A result up to the largest finite word keeps its steps, without a flag (R19). -/
theorem stepsToWord_fits {mode : RMode} {neg : Bool} {q w : Nat} {g : Int} (hw : (g + 535).toNat * 2 ^ 25 + q = w) (h : w < 1023 * 2 ^ 25) :
    stepsToWord mode neg q g = (signPart neg + w, false) := by
  subst hw
  exact if_pos h

/-- A result above the largest finite word overflows (R19). -/
theorem stepsToWord_exceeds {mode : RMode} {neg : Bool} {q w : Nat} {g : Int} (hw : (g + 535).toNat * 2 ^ 25 + q = w) (h : 1023 * 2 ^ 25 ≤ w) :
    stepsToWord mode neg q g = (beyond mode neg, true) := by
  subst hw
  exact if_neg (Nat.not_lt.mpr h)

/-- Normal and subnormal magnitudes alike are steps of a grid that `rndFin_on_grid` rounds to. -/
theorem roundsToTheGrid : RoundsToTheGrid := by
  intro mode neg m k q up sign
  constructor
  · intro E hE hm hm' w e
    have pos : 0 < m := Nat.lt_of_lt_of_le (Nat.two_pow_pos _) hm
    have he : e = ((E : Int) - 536) - k := by omega
    have hw : ((E : Int) - 536 + 535).toNat * 2 ^ 25 + roundedStep mode neg m k = w := by
      have step : roundedStep mode neg m k = q + up := rfl
      omega
    rw [he, rndFin_on_grid mode neg pos hm' (.inr ⟨by omega, hm⟩)]
    constructor
    · intro h
      rw [stepsToWord_fits hw h]
      rfl
    · intro h
      rw [stepsToWord_exceeds hw h]
      rfl
  · intro pos hm
    have hm' : m < 2 ^ (26 + k) := Nat.lt_trans hm (Nat.pow_lt_pow_right (by decide) (by omega))
    have bound : roundedStep mode neg m k < 1023 * 2 ^ 25 := by
      have := steps_lt hm'
      unfold roundedStep
      split <;> omega
    rw [rndFin_on_grid mode neg pos hm' (.inl rfl), stepsToWord_fits (by simp) bound]
    rfl

end Sys2Proof.Claims
end

section
/-! PROOFS. FF36 sums and products (02 R14, R19 to R21; 04 R62). -/

namespace Sys2Proof.Machine

/-! ## Sums of values -/

/-- The model scales a signed magnitude to a grid by an exact power of two. -/
theorem scaledTo_eq (neg : Bool) (m : Nat) (e g : Int) : scaledTo neg m e g = Claims.signedMag neg m * 2 ^ (e - g).toNat := by
  have two : ((2 : Nat) : Int) = 2 := rfl
  have cast : ((m * 2 ^ (e - g).toNat : Nat) : Int) = m * 2 ^ (e - g).toNat := by rw [Int.natCast_mul, Int.natCast_pow, two]
  cases neg with
  | false => exact cast
  | true => exact (congrArg (- ·) cast).trans (Int.neg_mul _ _).symm

/-- The model's sum of two finite values, in steps of the smaller exponent, is exact. -/
theorem scaledTo_add (s : Bool) (m : Nat) (e : Int) (t : Bool) (n : Nat) (d : Int) :
    scaledTo s m e (min e d) + scaledTo t n d (min e d) = Claims.exactSum s m e t n d := by
  rw [scaledTo_eq, scaledTo_eq, Claims.exactSum]

/-- A sum of finite values that is not 0 is rounded once (R19, R62). -/
theorem sumVal_fin (mode : RMode) {s t : Bool} {m n : Nat} {e d : Int} (h : Claims.exactSum s m e t n d ≠ 0) :
    sumVal mode (.fin s m e) (.fin t n d) =
      rndFin mode (decide (Claims.exactSum s m e t n d < 0)) (Claims.exactSum s m e t n d).natAbs (min e d) := by
  simp only [sumVal, FFormat.sum, scaledTo_add, if_neg h, rndFin, rnd36, Int.natAbs_eq_zero]
  simp

/-- A sum of finite values that is 0 is a zero, with the sign that R19 gives. -/
theorem sumVal_fin_zero (mode : RMode) {s t : Bool} {m n : Nat} {e d : Int} (h : Claims.exactSum s m e t n d = 0) :
    sumVal mode (.fin s m e) (.fin t n d) = ⟨zero36 (if m = 0 ∧ n = 0 ∧ s = t then s else mode == .rdn), 0⟩ := by
  simp only [sumVal, FFormat.sum, scaledTo_add, if_pos h, zero36]
  split <;> rfl

theorem exactSum_comm (s : Bool) (m : Nat) (e : Int) (t : Bool) (n : Nat) (d : Int) :
    Claims.exactSum s m e t n d = Claims.exactSum t n d s m e := by
  rw [Claims.exactSum, Claims.exactSum, Int.min_comm d e, Int.add_comm]

/-- The sum of two values does not depend on their order. -/
theorem sumVal_comm (mode : RMode) (x y : FVal) : sumVal mode x y = sumVal mode y x := by
  cases x with
  | nan => cases y <;> rfl
  | inf s =>
    cases y with
    | nan => rfl
    | inf t => cases s <;> cases t <;> rfl
    | fin t n d => rfl
  | fin s m e =>
    cases y with
    | nan => rfl
    | inf t => rfl
    | fin t n d =>
      by_cases h : Claims.exactSum s m e t n d = 0
      · have h' := (exactSum_comm t n d s m e).trans h
        have sign : (if m = 0 ∧ n = 0 ∧ s = t then s else mode == .rdn) = if n = 0 ∧ m = 0 ∧ t = s then t else mode == .rdn := by
          by_cases both : m = 0 ∧ n = 0 ∧ s = t
          · obtain ⟨hm, hn, rfl⟩ := both
            simp [hm, hn]
          · rw [if_neg both, if_neg fun ⟨hn, hm, hs⟩ => both ⟨hm, hn, hs.symm⟩]
        rw [sumVal_fin_zero mode h, sumVal_fin_zero mode h', sign]
      · have h' : Claims.exactSum t n d s m e ≠ 0 := fun e0 => h ((exactSum_comm s m e t n d).trans e0)
        rw [sumVal_fin mode h, sumVal_fin mode h', exactSum_comm s m e t n d, Int.min_comm e d]

/-! ## Products of values -/

/-- The exact product of two values does not depend on their order. -/
theorem mulVal_comm (x y : FVal) : mulVal x y = mulVal y x := by
  cases x with
  | nan => cases y <;> rfl
  | inf s =>
    cases y with
    | nan => rfl
    | inf t => simp [mulVal, Bool.xor_comm s t]
    | fin t n d => simp [mulVal, Bool.xor_comm s t]
  | fin s m e =>
    cases y with
    | nan => rfl
    | inf t => simp [mulVal, Bool.xor_comm s t]
    | fin t n d => simp [mulVal, Bool.xor_comm s t, Nat.mul_comm m n, Int.add_comm e d]

/-- A product of finite values is rounded once (R62). -/
theorem mulRound_fin (mode : RMode) (s t : Bool) (m n : Nat) (e d : Int) :
    mulRound mode (.fin s m e) (.fin t n d) = rndFin mode (s != t) (m * n) (e + d) := by
  simp [mulRound, mulVal, roundVal]

/-- A fused sum of finite values adds the exact product (R20, R62). -/
theorem fusedVal_fin (mode : RMode) (s t u : Bool) (m n k : Nat) (e d f : Int) :
    fusedVal mode (.fin s m e) (.fin t n d) (.fin u k f) = sumVal mode (.fin (s != t) (m * n) (e + d)) (.fin u k f) := by
  simp [fusedVal, mulVal]

/-! ## NaN and undefined results -/

theorem ff_of_isNan {a : Lane} (h : isNan a = true) : ff a = .nan := by simpa [isNan] using h

theorem sumVal_nan (mode : RMode) (y : FVal) : sumVal mode .nan y = ⟨0x7FF000000, 0⟩ := rfl

theorem mulRound_nan (mode : RMode) (y : FVal) : mulRound mode .nan y = ⟨0x7FF000000, 0⟩ := by
  simp [mulRound, mulVal, roundVal, qnan]

/-- Opposite infinities have no sum (R21). -/
theorem sumVal_inf_opposite (mode : RMode) (neg : Bool) : sumVal mode (.inf neg) (.inf (!neg)) = ⟨0x7FF000000, 4⟩ := by
  cases neg <;> rfl

/-- Zero and infinity have no product (R21). -/
theorem mulRound_zero_inf (mode : RMode) (s t : Bool) (e : Int) : mulRound mode (.fin s 0 e) (.inf t) = ⟨0x7FF000000, 4⟩ := by
  simp [mulRound, mulVal, roundVal, qnan, flagINV]

@[simp] theorem ff_inf36 (neg : Bool) : ff (inf36 neg) = .inf neg := by cases neg <;> decide
@[simp] theorem ff_zero36 (neg : Bool) : ff (zero36 neg) = .fin neg 0 (-535) := by cases neg <;> decide

end Sys2Proof.Machine

namespace Sys2Proof.Claims

open Sys2Proof.Machine

theorem finiteResultsAreRoundedOnce : FiniteResultsAreRoundedOnce := by
  intro mode a b s m e t n d ha hb
  have prod : fmulOp mode a b = rndFin mode (s != t) (m * n) (e + d) := by rw [fmulOp, ha, hb, mulRound_fin]
  have sum : faddOp mode a b = sumVal mode (.fin s m e) (.fin t n d) := by rw [faddOp, ha, hb]
  refine ⟨fun _ => prod, ⟨fun h => ?_, fun h => ?_⟩, ?_⟩
  · rw [sum, sumVal_fin mode h]
  · rw [sum, sumVal_fin_zero mode h]
  · intro c u k f hc z hz
    rw [fmaOp, ha, hb, hc, fusedVal_fin, sumVal_fin mode hz]

/-- A NaN operand gives the canonical NaN without a flag (R14, R21). -/
theorem nan_operand (mode : RMode) {a : Lane} (b : Lane) (h : isNan a = true) :
    faddOp mode a b = ⟨0x7FF000000, 0⟩ ∧ fmulOp mode a b = ⟨0x7FF000000, 0⟩ ∧ fsubOp mode b a = ⟨0x7FF000000, 0⟩ := by
  have ha := ff_of_isNan h
  refine ⟨?_, ?_, ?_⟩
  · rw [faddOp, ha, sumVal_nan]
  · rw [fmulOp, ha, mulRound_nan]
  · rw [fsubOp, ha, sumVal_comm]
    exact sumVal_nan mode (ff b)

/-- The difference of two infinities and zero times infinity are undefined (R21). -/
theorem undefined_results (mode : RMode) (neg : Bool) :
    faddOp mode (inf36 neg) (inf36 (!neg)) = ⟨0x7FF000000, 4⟩ ∧ fmulOp mode (zero36 neg) (inf36 neg) = ⟨0x7FF000000, 4⟩ := by
  constructor
  · rw [faddOp, ff_inf36, ff_inf36, sumVal_inf_opposite]
  · rw [fmulOp, ff_zero36, ff_inf36, mulRound_zero_inf]

/-- Settles O60: rounding to the grid and the finite results, then the order of operands, NaN operands and the undefined results. -/
theorem floatSumsAndProducts : Obligations.FloatSumsAndProducts := by
  refine ⟨roundsToTheGrid, finiteResultsAreRoundedOnce, fun m a b => ⟨sumVal_comm m _ _, ?_⟩, fun m a b => nan_operand m b, undefined_results⟩
  simp only [fmulOp, mulRound, mulVal_comm (ff a)]

end Sys2Proof.Claims
end

section
/-! PROOFS. The accumulating stages (04 R79 to R87): each is one `accumulate` with the sum, the marker, the COUNT and the terms of its own rule. -/

namespace Sys2Proof.Claims

open Sys2Proof.Machine

/-- A stage that runs a body which always forms a result leaves that result. -/
theorem leaves_of_runStage {op : BitVec 6} {i : StageFields → Instr} {r : StageCtx → StageFields → Operands → StageOut}
    (hx : ∀ f s, exec (i f) s = s.runStage op.toNat f fun x o => .out (r x f o)) : Leaves op i r :=
  fun s _ _ _ f _ h => h.gives (hx f s) rfl

/-- The model picks the lane of an `fmab` firing by the low four bits of lane 0 of C, the rule by its value modulo 16 (R86). -/
theorem fmabLane_eq (x : StageCtx) (o : Operands) :
    (if o.c.present then bv (o.c.lane 0) 0 4 else x.fr.iter % 16) = fmabLane x o := by
  simp [fmabLane, bv, bitsOf]

/-- `fmab` is one `accumulate` over the exact products of lane `fmabLane` of A with the lanes of B; its marker is A's at A's last lane, and its
COUNT is 1 while that lane is below COUNT of A (R86). -/
theorem exec_fmab (f : StageFields) (s : State) :
    exec (.fmab f) s = s.runStage 0x28 f fun x o =>
      .out (x.accumulate 0x28 (accKind .sum f.mod.toNat) false (if fmabLane x o = o.a.count - 1 then o.a.mark else markNone)
        (if fmabLane x o < o.a.count then 1 else 0) 0
        (fun l => if fmabLane x o < o.a.count ∧ l < o.b.count then some (.prod (o.a.lane (fmabLane x o)) (o.b.lane l)) else none) []) := by
  simp only [← fmabLane_eq]
  rfl

/-- Settles O22: what each accumulating stage runs is `accumulate` with the parts that its rule gives, so `leaves_of_runStage` settles each by
unfolding `exec` at one instruction; for `fmab`, which picks its lane of A by bits, `exec_fmab` says what it runs. -/
theorem accumulatingStagesAccumulate : Obligations.AccumulatingStagesAccumulate := by
  refine ⟨?acc, ?fmab, ?dot, ?rmax, ?rmin, ?ramax⟩
  case fmab => exact leaves_of_runStage exec_fmab
  all_goals exact leaves_of_runStage fun _ _ => rfl

end Sys2Proof.Claims
end

section
/-! PROOFS. The flow stages that look at no window (05 R97, R104 to R108, R115): each forms one value from the lanes of its operands. -/

namespace Sys2Proof.Claims

open Sys2Proof.Machine

/-- A stage leaves what its body comes to, for all that it sees and whatever its operands. -/
theorem leaves_of_body {op : BitVec 6} {i : StageFields → Instr} {body : StageFields → StageCtx → Operands → StageRes}
    {r : StageCtx → StageFields → Operands → StageOut} (hx : ∀ f s, exec (i f) s = s.runStage op.toNat f (body f))
    (hb : ∀ f x o, body f x o = .out (r x f o)) : Leaves op i r :=
  fun _ _ _ _ f _ h => h.gives (hx f _) (hb f _ _)

/-- The low n bits of a word are its value modulo 2^n (R2). -/
theorem bv_low {w : Nat} (x : BitVec w) (n : Nat) : bv x 0 n = x.toNat % 2 ^ n := by
  rw [bv, bitsOf, Nat.pow_zero, Nat.div_one]

/-- The model's test of an open gate is the one that R106 and R115 give. -/
theorem holds_eq_lets (o : Operand) : o.holds = lets o := rfl

/-- `gate` lets the beat of A through, or leaves no lanes, with A's marker where AUX bit 0 keeps it (R106). -/
theorem leaves_gate :
    Leaves 0x34 .gate (fun x f o =>
      x.value (if lets o.b then result o.a.count o.a.mark o.a.lane else Beat.blank 0 (if f.aux.getLsbD 0 then o.a.mark else markNone)) 0
        (modZero f ||| auxAbove f 1)) := by
  refine leaves_of_body (fun _ _ => rfl) fun f x o => ?_
  cases pass : lets o.b with
  | true =>
    simp only [holds_eq_lets, pass]
    rfl
  | false =>
    simp only [holds_eq_lets, pass]
    rfl

/-- `cnt` counts the true lanes of A, the true lanes below each lane, or, with any other code, the lanes (R107). -/
theorem leaves_cnt :
    Leaves 0x35 .cnt (fun x f o =>
      x.value (if f.mod = 1 then result 1 o.a.mark (fun _ => BitVec.ofNat 36 (trues o.a o.a.count))
        else if f.mod = 2 then result o.a.count o.a.mark (fun l => BitVec.ofNat 36 (trues o.a l))
        else result 1 o.a.mark (fun _ => BitVec.ofNat 36 o.a.count)) 0 (modFrom f 3 ||| auxZero f)) := by
  refine leaves_of_body (fun _ _ => rfl) fun f x o => ?_
  by_cases total : f.mod = 1
  · simp only [total]
    rfl
  by_cases below : f.mod = 2
  · simp only [below]
    rfl
  have total' : f.mod.toNat ≠ 1 := BitVec.toNat_ne_iff_ne.mpr total
  have below' : f.mod.toNat ≠ 2 := BitVec.toNat_ne_iff_ne.mpr below
  simp only [if_neg total, if_neg below]
  rfl

/-- `shuf` rotates, exchanges or reverses the lanes of A, or takes for each lane the one that B names (R108). -/
theorem leaves_shuf :
    Leaves 0x37 .shuf (fun x f o =>
      let from_ (l : Nat) : Nat := if f.mod = 1 then (l + f.aux.toNat) % 16 else if f.mod = 2 then l ^^^ f.aux.toNat else if f.mod = 3 then 15 - l
        else if l < o.b.count then (o.b.lane l).toNat % 16 else 0
      x.value (result o.a.count o.a.mark fun l => laneOr0 o.a (from_ l)) 0 (modFrom f 4)) := by
  refine leaves_of_body (fun _ _ => rfl) fun f x o => ?_
  by_cases rotate : f.mod = 1
  · simp only [rotate]
    rfl
  by_cases exchange : f.mod = 2
  · simp only [exchange]
    rfl
  by_cases reverse : f.mod = 3
  · simp only [reverse]
    rfl
  have rotate' : f.mod.toNat ≠ 1 := BitVec.toNat_ne_iff_ne.mpr rotate
  have exchange' : f.mod.toNat ≠ 2 := BitVec.toNat_ne_iff_ne.mpr exchange
  have reverse' : f.mod.toNat ≠ 3 := BitVec.toNat_ne_iff_ne.mpr reverse
  simp only [if_neg rotate, if_neg exchange, if_neg reverse, bv_low]
  rfl

/-- Settles O24: a stage that reads no field by bits and picks no case runs what its rule says, so `leaves_of_runStage` settles it by unfolding
`exec` at one instruction; where a field is read by its low bits, `bv_low` gives the value that the rule names; `gate`, `cnt` and `shuf` are split by
the cases of their rules. -/
theorem flowStagesMoveLanes : Obligations.FlowStagesMoveLanes := by
  refine ⟨?stop, ?steer, ?cmpx, ?cpr, ?mark, ?strip, leaves_gate, leaves_cnt, ?bcast, leaves_shuf, ?pack, ?unpack⟩
  case stop | cpr | mark | pack | unpack => exact leaves_of_runStage fun _ _ => rfl
  case steer | cmpx | strip | bcast =>
    refine leaves_of_body (fun _ _ => rfl) fun f x o => ?_
    simp only [bv_low]
    rfl

end Sys2Proof.Claims
end

section
/-! PROOFS. Memory words of the sequencer (08 R198 to R206): what keeps an access from its address, and what a word that queues an access leaves. -/

namespace Sys2Proof.Claims

open Sys2Proof.Machine

variable {s s' : State} {q : Nat} {b b' : Block} {reads : List Reg} {u : Word} {va n : Nat} {write : Bool} {fo : Found}

/-! ## A word that can issue -/

/-- No reply to an earlier block is still to write a register that the word reads. -/
theorem WordReady.awaits (h : WordReady s q b reads) : WordCtx.awaits ⟨q, s.seq q, b⟩ reads = false :=
  WordCtx.awaits_eq_false h.there

/-- A word whose body issues leaves its block one word further. -/
theorem WordReady.issues (h : WordReady s q b reads) {body : State → WordCtx → WordRes × State}
    (hb : body s ⟨q, s.seq q, b⟩ = (.issue b', s')) : s.runWord body = .next (issued s' q b b') := by
  rw [State.runWord_next h.focus h.block, hb]
  rfl

/-- SWARN as a word leaves it, with the warnings in the order in which the model joins them. -/
theorem warned_eq (b : Block) (q : Nat) (v : Seq) (reads : List Reg) (mbz : Bool) (more : Word) :
    warned b reads mbz more = b.swarn ||| (WordCtx.crd ⟨q, v, b⟩ reads ||| warnIf mbz swMBZ ||| more) := by
  have parts : warned b reads mbz more = b.swarn ||| more ||| WordCtx.crd ⟨q, v, b⟩ reads ||| warnIf mbz swMBZ := rfl
  rw [parts]
  ac_rfl

/-- SWARN of a word that has no field to be 0. -/
theorem warned_without_mbz (b : Block) (q : Nat) (v : Seq) (reads : List Reg) (more : Word) :
    warned b reads false more = b.swarn ||| (WordCtx.crd ⟨q, v, b⟩ reads ||| more) := by
  simp [warned_eq b q v, warnIf]

/-- SWARN of a word that sets no warning of its own. -/
theorem warned_without_more (b : Block) (q : Nat) (v : Seq) (reads : List Reg) (mbz : Bool) :
    warned b reads mbz 0 = b.swarn ||| (WordCtx.crd ⟨q, v, b⟩ reads ||| warnIf mbz swMBZ) := by simp [warned_eq b q v]

/-! ## An access that goes through -/

/-- The checks before translation pass where each of their conditions holds (R198). -/
theorem addrCheck_passes (high : u.toNat < 2 ^ 56) (plain : isControl va = false) (aligned : va % n = 0) : addrCheck u va n = none := by
  rw [Machine.addrCheck, if_neg (Nat.not_le.mpr high), if_neg (by simp [plain]), if_neg (fun unaligned => unaligned aligned)]

/-- The checks before translation do not stop an access that goes through. -/
theorem Reaches.addrCheck (h : Reaches s q u va n write fo s') : addrCheck u va n = none :=
  addrCheck_passes h.high h.plain h.aligned

/-- The translation of a word's access is that of the sequencer's region, read for the block in issue (R298). -/
theorem Reaches.reach (h : Reaches s q u va n write fo s') (b : Block) : s.reach ⟨q, s.seq q, b⟩ va write = (.ok fo, s') := by
  obtain ⟨r, hr, ht⟩ := h.found
  have may : (write && !fo.tr.writable) = false := by
    cases write
    · rfl
    · simp [h.may rfl]
  have reader : WordCtx.reader ⟨q, s.seq q, b⟩ = s.blockReader q := rfl
  simp [State.reach, State.regionOf, hr, reader, ht, may]

/-- A translation changes what is read, not who reads it. -/
theorem Reaches.readsTo (h : Reaches s q u va n write fo s') : s.ReadsTo s' := by
  obtain ⟨r, -, ht⟩ := h.found
  have reads := s.translate_reads q r.ctx va true (s.blockReader q)
  rwa [ht] at reads

/-- A translation gives out no identity. -/
theorem Reaches.nextId (h : Reaches s q u va n write fo s') : s'.nextId = s.nextId := by rw [h.readsTo]

/-- The limit of R198 does not hold the word. -/
theorem HasRoom.full (h : HasRoom s q b) : WordCtx.itemsFull ⟨q, s.seq q, b⟩ = false := h

/-! ## Words that queue an access -/

/-- Queueing an access takes one identity, and leaves the access in the block. -/
theorem queueAccess_eq (hid : s'.nextId = s.nextId) (op : AccessOp) (va : Nat) (fo : Found) (n : Nat) (data : List Byte) (aq rl : Bool) (code : Code)
    (regs : List Reg) (warn : Word) :
    queueAccess s' ⟨q, s.seq q, b⟩ op va fo.place n data aq rl code regs warn =
      (.issue (queued s q b (.access (accessOf s q op va fo n data aq rl code)) regs (b.swarn ||| warn)), oneId s') := by
  simp only [queueAccess, State.fresh, oneId, hid]
  rfl

/-- The registers and the address of a word, as the model and as the statements name them. -/
theorem reg_eq (r : Reg) (v : Seq) : WordCtx.reg ⟨q, v, b⟩ r = readReg b.regs r := rfl
theorem wordAddr_eq (u : Word) (off : Int) : wordAddr u off = address u off := rfl

/-- An address that is no control address is not taken as one. -/
theorem not_control (plain : isControl va = false) (p r : Prop) : ¬ (p ∧ isControl va = true ∧ r) := by simp [plain]

/-- A store whose address goes through queues its access (R199). -/
theorem stIssue_queues {d a : Reg} {w : BitVec 2} {off : BitVec 10} {u : BitVec 1} (h : WordReady s q b [a, d]) (room : HasRoom s q b)
    (hva : address (readReg b.regs a) (off.toInt * (2 ^ w.toNat : Nat)) = va)
    (goes : Reaches s q (readReg b.regs a) va (2 ^ w.toNat) true fo s') (g : Pred) :
    stIssue d a w u off g s ⟨q, s.seq q, b⟩ =
      (.issue (queued s q b (.access (accessOf s q .store va fo (2 ^ w.toNat) (leBytes (2 ^ w.toNat) (readReg b.regs d).toNat) false false
        (codeOf (.st d a w u off g)))) [] (warned b [a, d] false (unsg (u == 1)))), oneId s') := by
  simp only [stIssue, reg_eq, wordAddr_eq, hva, h.awaits, room.full, Bool.or_false, if_neg Bool.false_ne_true, if_neg (not_control goes.plain _ _),
    goes.addrCheck, goes.reach, queueAccess_eq goes.nextId, warned_without_mbz b q (s.seq q)]
  rfl

/-- An erase of a vug page that may be written queues its access (R202). -/
theorem verase_queues {a : Reg} (h : WordReady s q b [a]) (room : HasRoom s q b)
    (goes : Reaches s q (readReg b.regs a) (readReg b.regs a).toNat 1 false fo s') (vug : fo.tr.vug = true) (writable : fo.tr.writable = true)
    (x : Bool) (g : Pred) :
    exec (.verase a x g) s =
      .next (issued (oneId s') q b (queued s q b
        (.access (accessOf s q .erase (readReg b.regs a).toNat fo 1 [] false false (codeOf (.verase a x g)))) [] (warned b [a] x 0))) := by
  show execVerase a x g s = _
  refine h.issues ?_
  simp only [reg_eq, h.awaits, room.full, Bool.or_false, if_neg Bool.false_ne_true, goes.addrCheck, goes.reach, vug, writable, Bool.not_true,
    queueAccess_eq goes.nextId, warned_without_more b q (s.seq q)]

/-- An erase of another page is VERX and erases nothing (R202, R214). -/
theorem verase_warns {a : Reg} (h : WordReady s q b [a]) (room : HasRoom s q b)
    (goes : Reaches s q (readReg b.regs a) (readReg b.regs a).toNat 1 false fo s') (plain : fo.tr.vug = false) (x : Bool) (g : Pred) :
    exec (.verase a x g) s = .next (issued s' q b { b with swarn := warned b [a] x 0x400 }) := by
  show execVerase a x g s = _
  refine h.issues ?_
  simp only [reg_eq, h.awaits, room.full, Bool.or_false, if_neg Bool.false_ne_true, goes.addrCheck, goes.reach, plain, Bool.not_false, if_true,
    warned_eq b q (s.seq q)]
  rfl

/-- A read-modify-write whose address goes through queues its access (R204, R205). -/
theorem atomicWord_queues {d a c : Reg} {f : AmoFields} (h : WordReady s q b reads) (room : HasRoom s q b)
    (goes : Reaches s q (readReg b.regs a) (readReg b.regs a).toNat (if f.sz = 1 then 8 else 4) true fo s') (x : Bool) (op : WordCtx → AccessOp)
    (code : Code) :
    let n := if f.sz = 1 then 8 else 4
    s.atomicWord d a c f x reads op code =
      .next (issued (oneId s') q b (queued s q b
        (.access (accessOf s q (op ⟨q, s.seq q, b⟩) (readReg b.regs a).toNat fo n (leBytes n (readReg b.regs c).toNat) (f.aq == 1) (f.rl == 1) code))
        [d] (warned b reads x (if f.aq = 1 ∨ f.rl = 1 then scopex f.scope else 0)))) := by
  have scope : scopeWarn f.scope = scopex f.scope := by simp [scopeWarn, scopex, warnIf, swSCOPEX, bit64]
  refine h.issues ?_
  simp only [reg_eq, h.awaits, room.full, Bool.or_false, if_neg Bool.false_ne_true, goes.addrCheck, goes.reach, queueAccess_eq goes.nextId,
    warned_eq b q (s.seq q), scope]

/-- A word that is the model's read-modify-write with its own operation queues that access. -/
theorem atomicWord_of_exec {i : Reg → Reg → Reg → AmoFields → Bool → Pred → Instr} {op : BitVec 6}
    (hx : ∀ d a c f x g s, exec (i d a c f x g) s = s.atomicWord d a c f x [a, c] (fun _ => .amo op) (codeOf (i d a c f x g))) : AtomicWord i op :=
  fun _ _ _ _ _ _ _ _ _ _ _ h room goes => (hx ..).trans (atomicWord_queues h room goes _ _ _)

/-- R204, R205: every atomic is one read-modify-write with its own operation; `cas` compares with sd as it stands before the word. -/
theorem atomicsAreQueued : AtomicsAreQueued := by
  refine ⟨?_, ?_, ?_, ?_, ?_, ?_, ?_, ?_, ?_, ?cas⟩
  case cas =>
    intro s q b d a c f x g fo s' n u h room goes
    show execCas d a c f x g s = _
    exact atomicWord_queues h room goes x _ _
  all_goals exact atomicWord_of_exec fun _ _ _ _ _ _ _ => rfl

/-- R183, R198, R199, R202: a store, an erase of a vug page, and one of another page. -/
theorem storesAndErasesAreQueued : StoresAndErasesAreQueued := by
  refine ⟨?store, ?erase, ?elsewhere⟩
  case store =>
    intro s q b d a w u off g fo s' n va h room goes
    exact (State.commandWord_issues h.focus _ _).trans (h.issues (stIssue_queues h room rfl goes g))
  case erase => exact fun s q b a x g fo s' h room goes vug writable => verase_queues h room goes vug writable x g
  case elsewhere => exact fun s q b a x g fo s' h room goes plain => verase_warns h room goes plain x g

/-! ## Stores to control addresses -/

/-- Sending a command takes one identity, and leaves the command in the block. -/
theorem sendCmd_eq (s : State) (q : Nat) (b : Block) (unit : UnitId) (i : Instr) (u v w : Word) (regs : List Reg) (warn : Word) :
    sendCmd s ⟨q, s.seq q, b⟩ unit i u v w regs warn =
      (.issue (queued s q b
        (.cmd { id := s.nextId, seq := q, unit := unit, instr := i, a := u, b := v, d := w, tag := (s.seq q).blocks.toNat, begun := false } unit .cmd)
        regs (b.swarn ||| warn)), oneId s) := rfl

/-- A store of a doubleword to a control address is one of `storeControl` (R138, R305). -/
theorem stIssue_control {d a : Reg} {u : BitVec 1} {off : BitVec 10} (h : WordReady s q b [a, d]) (room : HasRoom s q b)
    (high : (readReg b.regs a).toNat < 2 ^ 56) (control : isControl (address (readReg b.regs a) (off.toInt * 8)) = true) (g : Pred) :
    stIssue d a 3 u off g s ⟨q, s.seq q, b⟩ =
      storeControl s ⟨q, s.seq q, b⟩ (address (readReg b.regs a) (off.toInt * 8)) (.st d a 3 u off g) (readReg b.regs d)
        (WordCtx.crd ⟨q, s.seq q, b⟩ [a, d] ||| unsg (u == 1)) := by
  rw [stIssue]
  simp only [h.awaits, room.full, Bool.or_false, if_neg Bool.false_ne_true]
  exact if_pos ⟨high, control, rfl⟩

/-- R138, R139, R305: the store is a command for the die, or for the core, that its control address names. -/
theorem storesToRegistersAreQueued : StoresToRegistersAreQueued := by
  intro s q b d a u off g va h room high writes
  have issue (control : isControl va = true) {unit : UnitId} {more : Word}
      (sent : storeControl s ⟨q, s.seq q, b⟩ va (.st d a 3 u off g) (readReg b.regs d) (WordCtx.crd ⟨q, s.seq q, b⟩ [a, d] ||| unsg (u == 1)) =
        sendCmd s ⟨q, s.seq q, b⟩ unit (.st d a 3 u off g) (BitVec.ofNat 64 va) 0 (readReg b.regs d) []
          (WordCtx.crd ⟨q, s.seq q, b⟩ [a, d] ||| (unsg (u == 1) ||| more))) : writes unit more := by
    refine (State.commandWord_issues h.focus _ _).trans (h.issues ?_)
    rw [stIssue_control h room high control, sent, sendCmd_eq, warned_without_mbz b q (s.seq q)]
  constructor
  · intro k die reg
    refine issue (by simp [isControl, die]) ?_
    have readOnly : warnIf (!dieWritable k) swMBZ = if k = 8 ∨ k = 16 then 0 else 0x10 := by
      by_cases k8 : k = 8 <;> by_cases k16 : k = 16 <;> simp [warnIf, dieWritable, swMBZ, bit64, k8, k16]
    simp only [storeControl, die, reg, if_true, readOnly, BitVec.or_assoc]
    rfl
  · intro r n k control core region named
    refine issue control ?_
    simp [storeControl, core, State.regionOf, region, named]

/-- Settles O11: a store, an erase or an atomic whose address goes through leaves its access in the block, a store to a control address a command. -/
theorem storesAndAtomicsAreQueued : Obligations.StoresAndAtomicsAreQueued :=
  ⟨storesAndErasesAreQueued, atomicsAreQueued, storesToRegistersAreQueued⟩

end Sys2Proof.Claims
end

section
/-! PROOFS. Loads of the sequencer (08 R199 to R201, R208; 06 R138; 14 R305): what a load of a block sees, and what `ld` and `ldx` leave. -/

namespace Sys2Proof.Claims

open Sys2Proof.Machine

variable {s s' : State} {q : Nat} {b : Block} {va n : Nat} {fo : Found}

/-! ## What a block's earlier effects do to a load (R183, R200) -/

/-- An access covers a byte that lies in its span. -/
theorem covers_iff (x : Access) (a : Nat) : covers x a = true ↔ x.span.1 ≤ a ∧ a < x.span.1 + x.span.2 := by simp [covers]

/-- The model follows the effects from the first to the last; the statement looks for the latest that covers the byte. So the induction takes the
effects from the last. -/
theorem seenByte_reverse (late : List Queued) (a : Nat) : seenByte late.reverse a = (ownStore late.reverse a, ownAtomic late.reverse a) := by
  induction late with
  | nil => rfl
  | cons e late ih =>
    simp only [seenByte, ownStore, ownAtomic, List.reverse_reverse, ← covers_iff] at ih
    simp only [seenByte, ownStore, ownAtomic, List.reverse_cons, List.foldl_append, List.foldl_cons, List.foldl_nil, List.reverse_append,
      List.reverse_nil, List.reverse_reverse, List.nil_append, List.cons_append, List.findSome?_cons, ← covers_iff]
    cases e.eff with
    | access x =>
      cases hc : covers x a with
      | false => simpa only [hc, Bool.false_eq_true, if_false, and_false] using ih
      | true =>
        cases hop : x.op with
        | store => simp only [hc, hop, if_true, and_self, Option.join_some, bne_self_eq_false, Option.getD_some]
        | _ =>
          simp only [hc, hop, ih, if_true, if_false, reduceCtorEq, and_true, Option.getD_some, Prod.mk.injEq, Bool.true_eq, bne_iff_ne, ne_eq,
            not_false_eq_true]
    | _ => exact ih

theorem seenByte_eq (effs : List Queued) (a : Nat) : seenByte effs a = (ownStore effs a, ownAtomic effs a) := by
  have h := seenByte_reverse effs.reverse a
  rwa [List.reverse_reverse] at h

/-- A load sees the bytes that `blockSees` puts together, with CRD where `loadCrd` says (R183, R200). -/
theorem seenValue_eq (b : Block) (va n m : Nat) :
    (seenValue b.effects va n m).1 = blockSees b va n m ∧ warnIf (seenValue b.effects va n m).2 swCRD = loadCrd b va n := by
  have indexed (f : Nat → Option Byte × Bool) : ((List.range n).map f).zipIdx = (List.range n).map fun k => (f k, k) := by
    refine List.ext_getElem (by simp) fun k h₁ h₂ => ?_
    simp
  constructor
  · simp only [seenValue, indexed, List.map_map, blockSees, seenByte_eq]
    rfl
  · simp only [seenValue, loadCrd, List.any_map, seenByte_eq]
    rfl

/-- The value of some bytes fits in them. -/
theorem leValue_lt (l : List Byte) : leValue l < 2 ^ (8 * l.length) := by
  induction l with
  | nil => exact Nat.one_pos
  | cons x l ih =>
    have byte : x.toNat < 256 := x.isLt
    rw [leValue, List.length_cons, Nat.mul_succ, Nat.pow_add]
    omega

/-- What a load of n bytes sees fits in n bytes. -/
theorem blockSees_lt (b : Block) (va n m : Nat) : blockSees b va n m < 2 ^ (8 * n) := by
  simpa [blockSees] using leValue_lt ((List.range n).map fun k => (ownStore b.effects (va + k)).getD (BitVec.ofNat 8 (m / 2 ^ (8 * k))))

/-- A value of n bytes, extended as R199 says. -/
theorem extended_eq_loaded {n v : Nat} (u : BitVec 1) (bytes : 0 < n) (fits : v < 2 ^ (8 * n)) : extended n (u == 1) v = loaded n u v := by
  by_cases unsigned : u = 1
  · simp [extended, loaded, unsigned]
  · have half : 2 ^ (8 * n) = 2 * 2 ^ (8 * n - 1) := by rw [← Nat.pow_succ']; congr 1; omega
    have sign : (BitVec.ofNat (8 * n) v).toInt = signedOf (8 * n) v := by
      rw [BitVec.toInt_eq_toNat_cond, BitVec.toNat_ofNat, Nat.mod_eq_of_lt fits, signedOf]
      by_cases low : v < 2 ^ (8 * n - 1)
      · rw [if_pos low, if_pos (by omega)]
      · rw [if_neg low, if_neg (by omega)]; push_cast; rfl
    simp only [extended, loaded, beq_iff_eq, if_neg unsigned, BitVec.signExtend, sign]

/-! ## Loads from memory -/

/-- A load that nothing holds is sent to the unit that holds its bytes, and the block stays at its word (R198). -/
theorem loadMemory_sends (ready : LoadReady s q b va n) {u : Word} (goes : Reaches s q u va n false fo s')
    (f : Block → Nat → Bool → Block) (warn : Word) :
    loadMemory s ⟨q, s.seq q, b⟩ va n f warn =
      (.hold { b with loads := ⟨b.idx, [⟨s'.nextId, va, n, []⟩]⟩ :: b.loads, waiting := false },
       { s' with nextId := s'.nextId + 1,
                 net := s'.net ++ [⟨.req, .seq q, accessUnit fo.place,
                   .access { id := s'.nextId, source := .seq q, op := .load, va := va, place := fo.place, size := n, data := [], aq := false,
                             rl := false, tag := 0, code := 0 }⟩] }) := by
  have unsent : b.loadOf b.idx = none := by simpa [Block.loadOf, List.find?_eq_none] using ready.fresh
  simp only [loadMemory, unsent, WordCtx.loadHeld, ready.held, ready.fenced, Bool.or_false, if_neg Bool.false_ne_true, goes.reach]
  rfl

/-- A load whose parts have all performed issues with the value that its block sees (R199, R200). -/
theorem loadMemory_finishes {l : BlockLoad} {m : Nat} {there : Bool} (back : LoadBack b l (.value m there)) (f : Block → Nat → Bool → Block)
    (warn : Word) :
    loadMemory s ⟨q, s.seq q, b⟩ va n f warn =
      (.issue ((f (loadEnded b) (blockSees b va n m) there).warn (warn ||| loadCrd b va n)), s) := by
  have sent : b.loadOf b.idx = some l := back.sent
  obtain ⟨value, crd⟩ := seenValue_eq b va n m
  simp only [loadMemory, sent, finishLoad, back.back, value, crd]
  rfl

/-- A load is of a doubleword where its width says so (R199). -/
theorem doubleword_iff (w : BitVec 2) : (2 ^ w.toNat == 8) = (w == 3) := by revert w; decide

section
variable {d a : Reg} {w : BitVec 2} {u : BitVec 1} {r : WordRes}

/-- Where nothing keeps an `ld` from its address, it ends as its load does (R199). -/
theorem ld_ends {off : BitVec 10} (h : WordReady s q b [a]) (hva : address (readReg b.regs a) (off.toInt * (2 ^ w.toNat : Nat)) = va)
    (plain : isControl va = false) (check : addrCheck (readReg b.regs a) va (2 ^ w.toNat) = none)
    (load : loadMemory s ⟨q, s.seq q, b⟩ va (2 ^ w.toNat) (fun b v _ => b.write d (extended (2 ^ w.toNat) (u == 1) v))
      (WordCtx.crd ⟨q, s.seq q, b⟩ [a] ||| unsg (u == 1 && w == 3)) = (r, s')) (g : Pred) :
    exec (.ld d a w u off g) s = .next (s'.endWord q b r) := by
  show execLd d a w u off g s = _
  refine (State.runWord_next h.focus h.block _).trans ?_
  simp only [reg_eq, wordAddr_eq, hva, h.awaits, if_neg Bool.false_ne_true, if_neg (not_control plain _ _), check, doubleword_iff]
  exact congrArg (fun e => Host.Outcome.next (State.endWord e.2 q b e.1)) load

/-- So does an `ldx` (R201). -/
theorem ldx_ends {off : BitVec 7} {p : Pred} (h : WordReady s q b [a])
    (hva : address (readReg b.regs a) (off.toInt * (2 ^ w.toNat : Nat)) = va) (check : addrCheck (readReg b.regs a) va (2 ^ w.toNat) = none)
    (load : loadMemory s ⟨q, s.seq q, b⟩ va (2 ^ w.toNat)
      (fun b v there => (b.write d (extended (2 ^ w.toNat) (u == 1) v)).writePred p there)
      (WordCtx.crd ⟨q, s.seq q, b⟩ [a] ||| unsg (u == 1 && w == 3)) = (r, s')) (g : Pred) :
    exec (.ldx d a w u p off g) s = .next (s'.endWord q b r) := by
  show execLdx d a w u p off g s = _
  refine (State.runWord_next h.focus h.block _).trans ?_
  simp only [reg_eq, wordAddr_eq, hva, h.awaits, if_neg Bool.false_ne_true, check, doubleword_iff]
  exact congrArg (fun e => Host.Outcome.next (State.endWord e.2 q b e.1)) load

end

/-- R198 to R201, R208: `ld` and `ldx` end as their load does, which is sent, or finishes with what the block sees. -/
theorem ld_and_ldx_readTheFloor : LoadsReadTheFloor := by
  intro s q b d a w u g n
  have bytes : 0 < n := Nat.two_pow_pos _
  refine ⟨fun off h => ⟨?ldSent, ?ldBack⟩, fun p off h => ⟨?ldxSent, ?ldxBack⟩⟩
  case ldSent =>
    intro fo s1 ready goes
    exact ld_ends h rfl goes.plain goes.addrCheck (loadMemory_sends ready goes _ _) g
  case ldxSent =>
    intro fo s1 ready goes
    exact ldx_ends h rfl goes.addrCheck (loadMemory_sends ready goes _ _) g
  case ldBack =>
    intro l m there high plain aligned back
    refine (ld_ends h rfl plain (addrCheck_passes high plain aligned) (loadMemory_finishes back _ _) g).trans ?_
    rw [extended_eq_loaded u bytes (blockSees_lt ..), BitVec.or_assoc, warned_without_mbz b q (s.seq q)]
    rfl
  case ldxBack =>
    intro l m there high plain aligned back
    refine (ldx_ends h rfl (addrCheck_passes high plain aligned) (loadMemory_finishes back _ _) g).trans ?_
    rw [extended_eq_loaded u bytes (blockSees_lt ..), BitVec.or_assoc, warned_without_mbz b q (s.seq q)]
    rfl

/-! ## Loads of registers -/

/-- A control address of a die names a register of the sequencer's own die (R305). -/
theorem controlRead_die {k : Nat} (die : isDieControl va = true) (listed : dieControl va = some k) :
    s.controlRead ⟨q, s.seq q, b⟩ va = some (.die (q / 256), s.readDie (s.regionOfSeq q) (q / 256) k) := by
  simp [State.controlRead, die, listed, seqDie, State.regionOf]

/-- Another names a register of a core of the sequencer's region (R138). -/
theorem controlRead_core {r : Region} {c k : Nat} (core : isDieControl va = false) (region : s.regionOfSeq q = some r)
    (named : s.coreControl r va = some (c, k)) : s.controlRead ⟨q, s.seq q, b⟩ va = some (.core c, s.readCore c k) := by
  simp [State.controlRead, core, State.regionOf, region, named]

/-- `ld.d` of a control address reads the register that it names, behind the acquires of earlier blocks, the sequencer's own writes to that unit, and
the accesses before a fence of its block (R138, R208 to R210, R305). -/
theorem ld_reads_control {d a : Reg} {u : BitVec 1} {off : BitVec 10} {unit : UnitId} {x : Word} (h : WordReady s q b [a])
    (high : (readReg b.regs a).toNat < 2 ^ 56) (control : isControl (address (readReg b.regs a) (off.toInt * 8)) = true)
    (register : s.controlRead ⟨q, s.seq q, b⟩ (address (readReg b.regs a) (off.toInt * 8)) = some (unit, x))
    (acquired : (s.seq q).acquiring = false) (fenced : WordCtx.fenceHolds ⟨q, s.seq q, b⟩ b.idx = false)
    (written : (s.seq q).writesRegister unit = false) (g : Pred) :
    exec (.ld d a 3 u off g) s = .next (issued s q b (wrote b d (seesAhead b x) (warned b [a] false (unsg (u == 1))))) := by
  show execLd d a 3 u off g s = _
  refine h.issues ?_
  simp only [h.awaits, if_neg Bool.false_ne_true]
  refine (if_pos ⟨high, control, rfl⟩).trans ?_
  refine Eq.trans (b := loadControl s ⟨q, s.seq q, b⟩ (address (readReg b.regs a) (off.toInt * 8)) d
    (WordCtx.crd ⟨q, s.seq q, b⟩ [a] ||| warnIf (u == 1 && true) swUNSG)) rfl ?_
  simp only [loadControl, register, Seq.registerWaits, acquired, fenced, written, Bool.or_false, if_neg Bool.false_ne_true, Bool.and_true,
    warned_without_mbz b q (s.seq q)]
  rfl

/-- R138, R208 to R210, R305: the address names a register of a die, or of a core. -/
theorem loadsReadRegisters : LoadsReadRegisters := by
  intro s q b d a u off g va h high acquired fenced reads
  constructor
  · intro k die reg written
    refine ld_reads_control h high ?_ ?_ acquired fenced written g
    · rw [isControl, die, Bool.or_true]
    · exact controlRead_die die reg
  · intro r n k control core region named written
    refine ld_reads_control h high control ?_ acquired fenced written g
    exact controlRead_core core region named

/-- Settles O6: a load of memory ends as `loadMemory` does, and a load of a control address reads the register that `controlRead` finds. -/
theorem loadsReadTheFloor : Obligations.LoadsReadTheFloor := ⟨ld_and_ldx_readTheFloor, loadsReadRegisters⟩

end Sys2Proof.Claims
end

section
/-! PROOFS. Commands that a core or a die applies (06 R137, R139, R141; 09 R223, R224; 10 R266; 14 R305): window commands and register writes, where
their command stands at its unit, and as events of that unit. -/

namespace Sys2Proof.Claims

open Sys2Proof.Machine

variable {s : State} {k n q : Nat} {c : Cmd} {unit : UnitId} {u : Core}

/-! ## A command at its unit -/

/-- A command word whose command stands at its unit is applied there. -/
theorem CmdAt.applies (h : CmdAt s k c unit) (issue : State → WordCtx → WordRes × State) (apply : State → Nat → Cmd → State) :
    s.commandWord issue apply = .next (apply s k c) :=
  State.commandWord_applies h.focus h.there issue apply

/-- A command that has been applied is answered. -/
theorem finishCmd_eq_answered {t : State} (there : t.cmds[k]? = some c) (vals : List Word) : t.finishCmd k vals = answered t k c vals :=
  State.finishCmd_eq there vals

/-- A core whose region lets commands through takes every command. -/
theorem CoreOpen.takes (h : CoreOpen s n) (isWfl : Bool) : s.coreTakes n isWfl = true := by
  simp only [State.coreTakes, h.runs, Bool.not_false, Bool.true_and]
  cases hr : s.regionOfCore n with
  | none => rfl
  | some r =>
    obtain ⟨freezing, frozen, -, -⟩ := h.open_ r hr
    simp [freezing, frozen]

/-- No drain and no checkpoint refuses a `wfl` there (R238, R269). -/
theorem CoreOpen.wflBarred (h : CoreOpen s n) (q : Nat) : s.wflBarred n q = false := by
  rw [State.wflBarred]
  cases hr : s.regionOfCore n with
  | none => rfl
  | some r =>
    obtain ⟨-, -, checkpoint, drain⟩ := h.open_ r hr
    simp [checkpoint, drain]

/-- A free issue slot, as the model tests it. -/
theorem SlotFree.slotFree (h : SlotFree s n) : (s.core n).slotFree s.now = true := bne_iff_ne.mpr h

/-! ## Window commands -/

/-- What a core makes of a window command is what it leaves, with the issue slot of the cycle taken, and the value goes back (R137). -/
theorem applyWindow_done {isWfl : Bool} {f : Core → Cmd → CoreRes} {u' : Core} {v : Word} (there : s.cmds[k]? = some c) (at_ : c.unit = .core n)
    (opens : CoreOpen s n) (free : SlotFree s n) (does : f (s.core n) c = .done u' v) :
    s.applyWindow isWfl f k c = answered (s.setCore n (slotTaken s u')) k c [v] := by
  simp only [State.applyWindow, at_, opens.takes, free.slotFree, Bool.not_true, Bool.or_false, if_neg Bool.false_ne_true, does]
  exact finishCmd_eq_answered (t := s.setCore n (slotTaken s u')) there [v]

/-- No firing is in flight that would still read or change a window. -/
theorem Idle.willTouch (h : Idle u) (f : HandlerRec → Code → List Win) (w : Win) : u.willTouch f w = false := by
  simp only [Core.willTouch, show u.pipe = [] from h, List.any_nil]

/-- Nor one that would change it in a way not counted at issue (R40, R42). -/
theorem Idle.willChange (h : Idle u) (w : Win) : u.willChange w = false := by
  simp only [Core.willChange, h.willTouch, Core.lateShrink, show u.pipe = [] from h, List.any_nil, Bool.or_false]

/-- The window and the offset of a reference, as the model and as the statements name them. -/
theorem refOff_eq (a : Word) : refOff a = refOffset a := rfl
theorem refWin_eq (a : Word) : refWin a = refWindow a := rfl

/-- With no firing in flight, a window command that its core does not refuse acts where its wait condition holds (R137, R223, R224). -/
theorem Idle.applyWrd (h : Idle u) {a : Word} (takes : u.refuses 0 a = false) (stands : u.settled (refWindow a) (refOffset a) = true)
    (good : u.badStore.contains (u.refAddr a) = false) :
    u.applyWrd a = .done (u.correctStore [(u.refAddr a, refWindow a)]) ((u.refWord a (u.refAddr a)).setWidth 64) := by
  simp only [Core.applyWrd, refOff_eq, refWin_eq, takes, stands, h.willChange, good, Bool.not_true, Bool.or_false, if_neg Bool.false_ne_true]

theorem applyWfl_fills {a b : Word} {u' : Core} (takes : u.refuses 1 a = false) (room : u.fillCommand (refWindow a) (fillOf b) = some u') :
    u.applyWfl false a b = .done u' 0 := by
  simp only [Core.applyWfl, refWin_eq, takes, room, Bool.or_false, if_neg Bool.false_ne_true]
  rfl

theorem Idle.applyWshr (h : Idle u) {a : Word} (takes : u.refuses 2 a = false) (there : refOffset a ≤ u.visible (refWindow a)) :
    u.applyWshr a = .done (u.shrinkWin (refWindow a) (refOffset a) false) 0 := by
  simp only [Core.applyWshr, refOff_eq, refWin_eq, takes, h.willChange, h.willTouch, Nat.not_lt.mpr there, decide_false, Bool.or_false,
    if_neg Bool.false_ne_true]
  rfl

theorem Idle.applyWst (h : Idle u) {a b : Word} (takes : u.refuses 3 a = false) (stands : u.settled (refWindow a) (refOffset a) = true) :
    u.applyWst a b = .done (u.storeWord (u.refAddr a) (b.setWidth 36)) 0 := by
  simp only [Core.applyWst, refOff_eq, refWin_eq, takes, stands, h.willChange, h.willTouch, Bool.not_true, Bool.or_false,
    if_neg Bool.false_ne_true]
  rfl

/-- A refused command changes nothing of its core, and answers REFUSED, or all ones for a `wrd` (R223). -/
theorem applyWrd_refused {a : Word} (refuses : u.refuses 0 a = true) : u.applyWrd a = .done u (BitVec.allOnes 64) := if_pos refuses
theorem applyWfl_refused {a b : Word} {barred : Bool} (refuses : u.refuses 1 a = true) : u.applyWfl barred a b = .done u 1 :=
  if_pos (by simp [refuses])
theorem applyWshr_refused {a : Word} (refuses : u.refuses 2 a = true) : u.applyWshr a = .done u 1 := if_pos refuses
theorem applyWst_refused {a b : Word} (refuses : u.refuses 3 a = true) : u.applyWst a b = .done u 1 := if_pos refuses

/-- A window command, as the word whose command stands at its core: it is applied there (R223). -/
theorem CmdAt.exec_wrdCore (h : CmdAt s k c unit) (d a e : Reg) (x : Bool) (g : Pred) :
    exec (.wrdCore d a e x g) s = .next (s.applyWindow false (fun u c => u.applyWrd c.a) k c) := by
  show execWrdCore d a e x g s = _
  exact h.applies _ _
theorem CmdAt.exec_wflCore (h : CmdAt s k c (.core n)) (d a e : Reg) (x : Bool) (g : Pred) :
    exec (.wflCore d a e x g) s = .next (s.applyWindow true (fun u c => u.applyWfl (s.wflBarred n c.seq) c.a c.b) k c) := by
  show execWflCore d a e x g s = _
  refine (h.applies _ _).trans (congrArg _ ?_)
  simp only [State.applyWindow, h.at_]
theorem CmdAt.exec_wshrCore (h : CmdAt s k c unit) (d a e : Reg) (x : Bool) (g : Pred) :
    exec (.wshrCore d a e x g) s = .next (s.applyWindow false (fun u c => u.applyWshr c.a) k c) := by
  show execWshrCore d a e x g s = _
  exact h.applies _ _
theorem CmdAt.exec_wstCore (h : CmdAt s k c unit) (d a e : Reg) (x : Bool) (g : Pred) :
    exec (.wstCore d a e x g) s = .next (s.applyWindow false (fun u c => u.applyWst c.a c.b) k c) := by
  show execWstCore d a e x g s = _
  exact h.applies _ _

/-- Settles O13: each window command leaves what its core makes of it, by `applyWindow_done`. -/
theorem windowCommandsAct : Obligations.WindowCommandsAct := by
  intro s k c n at_ opens free idle u w i
  have leaves {isWfl : Bool} {f : Core → Cmd → CoreRes} {u' : Core} {v : Word} (does : f u c = .done u' v) :
      Host.Outcome.next (φ := Fault) (ρ := Refusal) (s.applyWindow isWfl f k c) = .next (answered (s.setCore n (slotTaken s u')) k c [v]) :=
    congrArg _ (applyWindow_done at_.there at_.at_ opens free does)
  refine ⟨?wrd, ?wfl, ?wshr, ?wst, ?refused⟩
  case wrd =>
    intro d a e x g takes stands good
    exact (at_.exec_wrdCore ..).trans (leaves (idle.applyWrd takes stands good))
  case wfl =>
    intro d a e x g u' takes room
    refine (at_.exec_wflCore ..).trans (leaves ?_)
    rw [opens.wflBarred]
    exact applyWfl_fills takes room
  case wshr =>
    intro d a e x g takes there
    exact (at_.exec_wshrCore ..).trans (leaves (idle.applyWshr takes there))
  case wst =>
    intro d a e x g takes stands
    exact (at_.exec_wstCore ..).trans (leaves (idle.applyWst takes stands))
  case refused =>
    intro d a e x g refused
    exact ⟨fun h => (at_.exec_wrdCore ..).trans (leaves (applyWrd_refused h)), fun h => (at_.exec_wflCore ..).trans (leaves (applyWfl_refused h)),
      fun h => (at_.exec_wshrCore ..).trans (leaves (applyWshr_refused h)), fun h => (at_.exec_wstCore ..).trans (leaves (applyWst_refused h))⟩

/-! ## Register writes -/

/-- No firing is in flight that would change what a register write writes. -/
theorem Idle.regWaits (h : Idle u) (off : Nat) (v : Word) : u.regWaits off v = false := by
  simp only [Core.regWaits, show u.pipe = [] from h, List.any_nil, ite_self]

/-- The offset of a register write. -/
theorem cmdOff_eq (c : Cmd) : cmdOff c = c.a.toNat % 65536 := bv_low c.a 16

/-- A core with no firing in flight applies a register write outside the issue slots at once (R137, R139). -/
theorem applyRegister_core (there : s.cmds[k]? = some c) (at_ : c.unit = .core n) (opens : CoreOpen s n) (idle : Idle (s.core n))
    (plain : isMaskOff (cmdOff c) = false) :
    s.applyRegister k c = answered (s.setCore n (active s ((s.core n).writeReg (cmdOff c) c.d))) k c [] := by
  simp only [State.applyRegister, at_, opens.takes, idle.regWaits, plain, Bool.not_true, Bool.false_and, Bool.or_false,
    if_neg Bool.false_ne_true]
  exact finishCmd_eq_answered (t := s.setCore n _) there []

/-- A write of MASK takes the issue slot of its cycle (R137, R141). -/
theorem applyRegister_mask (there : s.cmds[k]? = some c) (at_ : c.unit = .core n) (opens : CoreOpen s n) (idle : Idle (s.core n))
    (mask : isMaskOff (cmdOff c) = true) (free : SlotFree s n) :
    s.applyRegister k c = answered (s.setCore n (slotTaken s ((s.core n).writeReg (cmdOff c) c.d))) k c [] := by
  simp only [State.applyRegister, at_, opens.takes, idle.regWaits, mask, free.slotFree, Bool.not_true, Bool.and_false, Bool.or_false,
    if_neg Bool.false_ne_true, if_true]
  exact finishCmd_eq_answered (t := s.setCore n _) there []

/-- An instruction that has a core apply a register write leaves what `Core.writeReg` says of its offset (R139). -/
theorem exec_of_writeReg (there : s.cmds[k]? = some c) (at_ : c.unit = .core n) (opens : CoreOpen s n) (idle : Idle (s.core n)) {i : Instr}
    (applies : exec i s = .next (s.applyRegister k c)) {off : Nat} (offset : c.a.toNat % 65536 = off) (plain : isMaskOff off = false) {u' : Core}
    (write : (s.core n).writeReg off c.d = u') : exec i s = .next (answered (s.setCore n (active s u')) k c []) := by
  have here : cmdOff c = off := (cmdOff_eq c).trans offset
  rw [applies, applyRegister_core there at_ opens idle (here ▸ plain), here, write]

/-- So does a write of MASK, which takes the issue slot of the cycle (R137, R141). -/
theorem exec_of_writeMask (there : s.cmds[k]? = some c) (at_ : c.unit = .core n) (opens : CoreOpen s n) (idle : Idle (s.core n)) {i : Instr}
    (applies : exec i s = .next (s.applyRegister k c)) {off : Nat} (offset : c.a.toNat % 65536 = off) (mask : isMaskOff off = true) {u' : Core}
    (write : (s.core n).writeReg off c.d = u') (free : SlotFree s n) : exec i s = .next (answered (s.setCore n (slotTaken s u')) k c []) := by
  have here : cmdOff c = off := (cmdOff_eq c).trans offset
  rw [applies, applyRegister_mask there at_ opens idle (here ▸ mask) free, here, write]

/-- A die applies a register write (R305). -/
theorem applyRegister_die {die : Nat} (there : s.cmds[k]? = some c) (at_ : c.unit = .die die) :
    s.applyRegister k c = answered (s.writeDie die (cmdOff c)) k c [] := by
  have kept : (s.writeDie die (cmdOff c)).cmds = s.cmds := by
    rw [State.writeDie]
    split
    · rfl
    · split <;> rfl
  simp only [State.applyRegister, at_]
  exact finishCmd_eq_answered (kept ▸ there) []

/-- HMSET and HMCLR set and clear MASK by the low eight bits (R141). -/
theorem writeReg_hmset (u : Core) (v : Word) : u.writeReg 0x0040 v = u.writeMask (v.toNat % 256) true :=
  congrArg (u.writeMask · true) (bv_low v 8)
theorem writeReg_hmclr (u : Core) (v : Word) : u.writeReg 0x0048 v = u.writeMask (v.toNat % 256) false :=
  congrArg (u.writeMask · false) (bv_low v 8)

/-- Within bounds, the checked write of a vector is the plain one. -/
theorem setIfInBounds_eq_set {α : Type} {m : Nat} (l : Vector α m) {j : Nat} (h : j < m) (x : α) : l.setIfInBounds j x = l.set j x := by
  ext i hi
  simp [Vector.getElem_setIfInBounds, Vector.getElem_set]

/-- A loop guard is written but for its UND, which a 1 clears (R266). -/
theorem writeReg_guard (u : Core) (j : Fin 4) (w : Word) :
    let v : Lane := w.setWidth 36
    u.writeReg (0x0500 + 8 * j.val) w =
      { u with guards := u.guards.set j ((v &&& 0xFFFFFFFE0) ||| (if u.guards[j].getLsbD 4 ∧ v.getLsbD 4 = false then 0x10 else 0)) } := by
  intro v
  have j4 : j.val < 4 := j.isLt
  have index : (0x0500 + 8 * j.val - 0x0500) / 8 = j.val := by omega
  have old : u.guards[j.val]?.getD 0 = u.guards[j] := by simp
  have written : lgWritten u.guards[j] v = (v &&& 0xFFFFFFFE0) ||| (if u.guards[j].getLsbD 4 ∧ v.getLsbD 4 = false then 0x10 else 0) := by
    simp [lgWritten, bitAt]
  rw [Core.writeReg]
  iterate 9 rw [if_neg (by omega)]
  rw [if_pos (by omega), index, old, setIfInBounds_eq_set _ j4, written]

/-- No loop guard lies at an offset of MASK. -/
theorem guard_not_mask (j : Fin 4) : isMaskOff (0x0500 + 8 * j.val) = false := by simp [isMaskOff]; omega

/-- A register write, as the store whose command stands at its unit: it is applied there (R139, R305). -/
theorem CmdAt.exec_st (h : CmdAt s k c unit) (d a : Reg) (w : BitVec 2) (u : BitVec 1) (off : BitVec 10) (g : Pred) :
    exec (.st d a w u off g) s = .next (s.applyRegister k c) := by
  show execSt d a w u off g s = _
  exact h.applies _ _

/-- Settles O16: a die applies a register write as `applyRegister_die` says, a core as `exec_of_writeReg` and `exec_of_writeMask` do, and what the
write is stands in `Core.writeReg` for each offset. -/
theorem registerWritesAct : Obligations.RegisterWritesAct := by
  constructor
  · intro s k c die at_ d a w u off g o
    rw [at_.exec_st, applyRegister_die at_.there at_.at_, cmdOff_eq]
    rfl
  · intro s k c n at_ opens idle d a w u off g v o does takes
    have plain {o' : Nat} := exec_of_writeReg (off := o') at_.there at_.at_ opens idle (at_.exec_st d a w u off g)
    have mask {o' : Nat} := exec_of_writeMask (off := o') at_.there at_.at_ opens idle (at_.exec_st d a w u off g)
    refine ⟨?aflg, ?cwarn, ?rwarn, ?cfault, ?ecnt, ?hmset, ?hmclr, ?guard, ?ewarn, ?efault, ?readOnly⟩
    case hmset => exact fun at40 => mask at40 rfl (writeReg_hmset _ _)
    case hmclr => exact fun at48 => mask at48 rfl (writeReg_hmclr _ _)
    case guard => exact fun j atGuard => plain atGuard (guard_not_mask j) (writeReg_guard _ j _)
    case readOnly => exact fun readOnly => readOnly.elim (fun at0 => plain at0 rfl rfl) (fun at8 => plain at8 rfl rfl)
    all_goals exact fun offset => plain offset rfl rfl

/-! ## Commands as events -/

/-- The command that is next for a unit is found there, stands among the commands, and names the unit. -/
theorem Next.found (next : Next s unit q k c) : s.cmdFor unit q = some (k, c) := next.1
theorem Next.there (next : Next s unit q k c) : s.cmds[k]? = some c := next.2.1
theorem Next.at_ (next : Next s unit q k c) : c.unit = unit := next.2.2

/-- A window command, as the one that is next for its core: the event applies it (R137). -/
theorem Next.exec_wrdCore (next : Next s (.core n) q k c) {d a b : Reg} {x : Bool} {g : Pred} (word : c.instr = .wrdCore d a b x g) :
    exec (.coreWindowCommandApply n q) s = .next (s.applyWindow false (fun u c => u.applyWrd c.a) k c) := by
  show execCoreWindowCommandApply n q s = _
  simp only [execCoreWindowCommandApply, next.found, word]
theorem Next.exec_wflCore (next : Next s (.core n) q k c) {d a b : Reg} {x : Bool} {g : Pred} (word : c.instr = .wflCore d a b x g) :
    exec (.coreWindowCommandApply n q) s = .next (s.applyWindow true (fun u c => u.applyWfl (s.wflBarred n c.seq) c.a c.b) k c) := by
  show execCoreWindowCommandApply n q s = _
  simp only [execCoreWindowCommandApply, next.found, word]
theorem Next.exec_wshrCore (next : Next s (.core n) q k c) {d a b : Reg} {x : Bool} {g : Pred} (word : c.instr = .wshrCore d a b x g) :
    exec (.coreWindowCommandApply n q) s = .next (s.applyWindow false (fun u c => u.applyWshr c.a) k c) := by
  show execCoreWindowCommandApply n q s = _
  simp only [execCoreWindowCommandApply, next.found, word]
theorem Next.exec_wstCore (next : Next s (.core n) q k c) {d a b : Reg} {x : Bool} {g : Pred} (word : c.instr = .wstCore d a b x g) :
    exec (.coreWindowCommandApply n q) s = .next (s.applyWindow false (fun u c => u.applyWst c.a c.b) k c) := by
  show execCoreWindowCommandApply n q s = _
  simp only [execCoreWindowCommandApply, next.found, word]

/-- An event that writes a register applies the write that is next for its unit, where the event is of its offset. -/
theorem Next.registerEvent (next : Next s unit q k c) (store : IsStore c) {p : Nat → Bool} {off : Nat} (offset : c.a.toNat % 65536 = off)
    (event : p off = true) : s.registerEvent unit q p = s.applyRegister k c := by
  obtain ⟨found, -, -⟩ := next
  obtain ⟨d, a, w, u, o, g, word⟩ := store
  have write : isRegisterWrite c = true := by simp only [isRegisterWrite, word]
  simp only [State.registerEvent, found, write, (cmdOff_eq c).trans offset, event, Bool.and_true, if_true]

/-- The events of register writes, each with the offsets that it is of. -/
theorem Next.exec_hmsetWrite (next : Next s (.core n) q k c) (store : IsStore c) (at40 : c.a.toNat % 65536 = 0x0040) :
    exec (.hmsetWrite n q) s = .next (s.applyRegister k c) := congrArg _ (next.registerEvent store at40 rfl)
theorem Next.exec_hmclrWrite (next : Next s (.core n) q k c) (store : IsStore c) (at48 : c.a.toNat % 65536 = 0x0048) :
    exec (.hmclrWrite n q) s = .next (s.applyRegister k c) := congrArg _ (next.registerEvent store at48 rfl)
theorem Next.exec_loopGuardWrite (next : Next s (.core n) q k c) (store : IsStore c) {off : Nat} (offset : c.a.toNat % 65536 = off)
    (guard : isGuardOff off = true) : exec (.loopGuardWrite n q) s = .next (s.applyRegister k c) :=
  congrArg _ (next.registerEvent store offset guard)
theorem Next.exec_coreRegisterWrite (next : Next s (.core n) q k c) (store : IsStore c) {off : Nat} (offset : c.a.toNat % 65536 = off)
    (other : (!isMaskOff off && !isGuardOff off) = true) : exec (.coreRegisterWrite n q) s = .next (s.applyRegister k c) :=
  congrArg _ (next.registerEvent store offset other)
theorem Next.exec_dieRegisterWrite {die : Fin 16} (next : Next s (.die die) q k c) (store : IsStore c) :
    exec (.dieRegisterWrite die q) s = .next (s.applyRegister k c) := congrArg _ (next.registerEvent store rfl rfl)

/-- Settles O31: the events apply the command that is next for their unit, which leaves what the commands of O13 and O16 leave. -/
theorem commandsApplyAsEvents : Obligations.CommandsApplyAsEvents := by
  constructor
  · intro s n q k c next opens idle u w i o v does
    have leaves {isWfl : Bool} {f : Core → Cmd → CoreRes} {u' : Core} {x : Word} (result : f u c = .done u' x) (free : SlotFree s n) :
        Host.Outcome.next (φ := Fault) (ρ := Refusal) (s.applyWindow isWfl f k c) = .next (answered (s.setCore n (slotTaken s u')) k c [x]) :=
      congrArg _ (applyWindow_done next.there next.at_ opens free result)
    have plain {i : Instr} {o' : Nat} := exec_of_writeReg (i := i) (off := o') next.there next.at_ opens idle
    have mask {i : Instr} {o' : Nat} := exec_of_writeMask (i := i) (off := o') next.there next.at_ opens idle
    refine ⟨?wrd, ?wfl, ?wshr, ?wst, ?hmset, ?hmclr, ?guard, ?cwarn, ?cfault⟩
    case wrd => exact fun d a b x g word takes stands good free => (next.exec_wrdCore word).trans (leaves (idle.applyWrd takes stands good) free)
    case wfl =>
      intro d a b x g u' word takes room free
      refine (next.exec_wflCore word).trans (leaves ?_ free)
      rw [opens.wflBarred]
      exact applyWfl_fills takes room
    case wshr => exact fun d a b x g word takes there free => (next.exec_wshrCore word).trans (leaves (idle.applyWshr takes there) free)
    case wst => exact fun d a b x g word takes stands free => (next.exec_wstCore word).trans (leaves (idle.applyWst takes stands) free)
    case hmset => exact fun store at40 => mask (next.exec_hmsetWrite store at40) at40 rfl (writeReg_hmset _ _)
    case hmclr => exact fun store at48 => mask (next.exec_hmclrWrite store at48) at48 rfl (writeReg_hmclr _ _)
    case guard =>
      intro j store atGuard
      have guard : isGuardOff (0x0500 + 8 * j.val) = true := by simp [isGuardOff]; omega
      exact plain (next.exec_loopGuardWrite store atGuard guard) atGuard (guard_not_mask j) (writeReg_guard _ j _)
    case cwarn => exact fun store at18 => plain (next.exec_coreRegisterWrite store at18 rfl) at18 rfl rfl
    case cfault => exact fun store at28 => plain (next.exec_coreRegisterWrite store at28 rfl) at28 rfl rfl
  · intro s die q k c next store
    have writes : exec (.dieRegisterWrite die q) s = .next (answered (s.writeDie die (c.a.toNat % 65536)) k c []) := by
      rw [next.exec_dieRegisterWrite store, applyRegister_die next.there next.at_, cmdOff_eq]
    constructor
    · intro at8
      rw [writes, at8]
      rfl
    · intro at16
      rw [writes, at16]
      rfl

end Sys2Proof.Claims
end

section
/-! PROOFS. Routers (06 R126 to R133; 09 R234), errors of the store and of links (06 R120; 14 R300), and echo probes (10 R282 to R285). -/

namespace Sys2Proof.Claims

open Sys2Proof.Machine

variable {s : State} {n : Nat} {sel link : BitVec 4} {b : Beat} {x : BitVec 16}

/-! ## Routers -/

/-- What a router makes of a staged beat that its switch word names (R129 to R131). -/
theorem exec_routerForward (runs : s.routerStill n = false) (staged : (s.core n).stagedBeat sel link = some b)
    (named : (s.core n).switch? sel link = some x) :
    exec (.routerForward n sel link) s =
      if effectiveMask x = 0 then .next (s.setCore n ((s.core n).unstage sel link))
      else if effectiveMask x = 1 then .next s
      else .next (s.moveBeat n sel link b (effectiveMask x)) := by
  show execRouterForward n sel link s = _
  simp only [execRouterForward, runs, if_neg Bool.false_ne_true, staged, named]

/-- A mask with a direction is neither that of a term nor local only. -/
theorem exec_routerForward_moves (runs : s.routerStill n = false) (staged : (s.core n).stagedBeat sel link = some b)
    (named : (s.core n).switch? sel link = some x) (goes : maskDirs (effectiveMask x) ≠ []) :
    exec (.routerForward n sel link) s = .next (s.moveBeat n sel link b (effectiveMask x)) := by
  rw [exec_routerForward runs staged named, if_neg, if_neg]
  · intro local_; rw [local_] at goes; exact goes rfl
  · intro term; rw [term] at goes; exact goes rfl

/-- A beat that goes to the local window only is filled by its own event (R124). -/
theorem exec_linkFill (runs : s.routerStill n = false) (staged : (s.core n).stagedBeat sel link = some b)
    (named : (s.core n).switch? sel link = some x) (local_ : effectiveMask x = 1) :
    exec (.linkFill n sel link) s = .next (s.moveBeat n sel link b 1) := by
  show execLinkFill n sel link s = _
  simp only [execLinkFill, runs, if_neg Bool.false_ne_true, staged, named, local_, if_true]

/-- Every direction takes the beat when each has a neighbour that does (R131). -/
theorem dirsTake_iff (dirs : List Dir) :
    s.dirsTake n link dirs = true ↔ ∀ d ∈ dirs, ∃ m, s.neighbour n d = some m ∧ s.sideTakes m (opposite d) link = true := by
  rw [State.dirsTake, List.all_eq_true]
  refine forall₂_congr fun d _ => ?_
  cases s.neighbour n d <;> simp

/-- A beat goes out in the directions of a list one after another. -/
theorem sendDirs_eq_foldl (s : State) (n : Nat) (link : BitVec 4) (b : Beat) (dirs : List Dir) :
    s.sendDirs n link b dirs =
      dirs.foldl (fun t d => match t.neighbour n d with | some m => t.takeSide m (opposite d) link b | none => t) s := by
  induction dirs generalizing s with
  | nil => rfl
  | cons d ds ih =>
    rw [State.sendDirs, List.foldl_cons]
    cases s.neighbour n d <;> exact ih _

/-- The first direction with a neighbour goes first. -/
theorem sendDirs_cons {d : Dir} {m : Nat} {dirs : List Dir} (next : s.neighbour n d = some m) :
    s.sendDirs n link b (d :: dirs) = (s.takeSide m (opposite d) link b).sendDirs n link b dirs := by
  simp only [State.sendDirs, next]

/-- A beat goes into the window of its link, or is discarded with NOWIN (R126). -/
theorem fillLocal_some {u : Core} {w : Win} (h : u.linkWin link = some w) : u.fillLocal link b = u.fillBeat w b := by
  simp only [Core.fillLocal, h]
theorem fillLocal_none {u : Core} (h : u.linkWin link = none) : u.fillLocal link b = some { u with rwarn := u.rwarn ||| rwNOWIN } := by
  simp only [Core.fillLocal, h]

/-- The beat moves in one cycle where every output can take it (R131). -/
theorem moveBeat_moves {mask : Nat} {u' : Core} (takes : s.dirsTake n link (maskDirs mask) = true)
    (fills : (if maskLocal mask then ((s.core n).unstage sel link).fillLocal link b else some ((s.core n).unstage sel link)) = some u') :
    s.moveBeat n sel link b mask = (s.setCore n u').sendDirs n link b (maskDirs mask) := by
  simp only [State.moveBeat, takes, Bool.not_true, if_neg Bool.false_ne_true, fills]

/-- It stays where an output cannot. -/
theorem moveBeat_waits_dirs {mask : Nat} (waits : s.dirsTake n link (maskDirs mask) = false) : s.moveBeat n sel link b mask = s := by
  simp only [State.moveBeat, waits, Bool.not_false, if_true]

/-- It stays where the local window has no room. -/
theorem moveBeat_waits_local {mask : Nat} (local_ : maskLocal mask = true) (full : ((s.core n).unstage sel link).fillLocal link b = none) :
    s.moveBeat n sel link b mask = s := by
  simp only [State.moveBeat, local_, if_true, full, ite_self]

/-- A core without a switch word for an input discards its beats with NOROUTE (R130, R133). -/
theorem takeSide_noroute (t : State) {m : Nat} {side : Dir} (none_ : (t.core m).switch? (dirCode side) link = none) :
    ((t.takeSide m side link b).core m).rwarn = (t.core m).rwarn ||| rwNOROUTE := by
  simp only [State.takeSide, none_, State.core_setCore]

/-- Taking a beat from its staging register changes no switch word and no warning of any core. -/
theorem core_unstaged (m : Nat) : ((s.setCore n ((s.core n).unstage sel link)).core m).switches = (s.core m).switches
    ∧ ((s.setCore n ((s.core n).unstage sel link)).core m).rwarn = (s.core m).rwarn := by
  by_cases h : m = n
  · subst h
    rw [State.core_setCore]
    exact ⟨rfl, rfl⟩
  · rw [State.core_setCore_other _ _ h]
    exact ⟨rfl, rfl⟩

section
variable (runs : s.routerStill n = false) (staged : (s.core n).stagedBeat sel link = some b) (named : (s.core n).switch? sel link = some x)
include runs staged named

/-- A beat with one way out goes to the neighbour there (R129, R130). -/
theorem routerForward_single {d : Dir} {m : Nat} (dirs : maskDirs (effectiveMask x) = [d]) (outside : maskLocal (effectiveMask x) = false)
    (next : s.neighbour n d = some m) (takes : s.sideTakes m (opposite d) link = true) :
    exec (.routerForward n sel link) s = .next ((s.setCore n ((s.core n).unstage sel link)).takeSide m (opposite d) link b) := by
  have all : s.dirsTake n link (maskDirs (effectiveMask x)) = true := by simp [dirsTake_iff, dirs, next, takes]
  have next' : (s.setCore n ((s.core n).unstage sel link)).neighbour n d = some m := next
  rw [exec_routerForward_moves runs staged named (by simp [dirs]), moveBeat_moves all (if_neg (by simp [outside])), dirs, sendDirs_cons next']
  rfl

/-- A beat for the local window only fills it, or is discarded where no window takes its link (R124, R126). -/
theorem linkFill_fills (local_ : effectiveMask x = 1) {u' : Core} (fills : ((s.core n).unstage sel link).fillLocal link b = some u') :
    exec (.linkFill n sel link) s = .next (s.setCore n u') := by
  rw [exec_linkFill runs staged named local_, moveBeat_moves (u' := u') rfl ((if_pos rfl).trans fills)]
  rfl

/-- A neighbour that has no switch word for the beat sets NOROUTE (R133). -/
theorem routerForward_noroute {d : Dir} {m : Nat} (dirs : maskDirs (effectiveMask x) = [d]) (outside : maskLocal (effectiveMask x) = false)
    (next : s.neighbour n d = some m) (takes : s.sideTakes m (opposite d) link = true)
    (unnamed : (s.core m).switch? (dirCode (opposite d)) link = none) :
    ∃ t, exec (.routerForward n sel link) s = .next t ∧ (t.core m).rwarn = (s.core m).rwarn ||| rwNOROUTE := by
  obtain ⟨switches, warnings⟩ := core_unstaged (s := s) (n := n) (sel := sel) (link := link) m
  refine ⟨_, routerForward_single runs staged named dirs outside next takes, ?_⟩
  rw [takeSide_noroute _ (by rw [Core.switch?, switches]; exact unnamed), warnings]

end

/-- A beat that no switch word names is discarded with NOROUTE (R130, R133). -/
theorem routerForward_unnamed (runs : s.routerStill n = false) (staged : (s.core n).stagedBeat sel link = some b)
    (unnamed : (s.core n).switch? sel link = none) :
    exec (.routerForward n sel link) s =
      .next (s.setCore n { (s.core n).unstage sel link with rwarn := (s.core n).rwarn ||| rwNOROUTE }) := by
  show execRouterForward n sel link s = _
  simp only [execRouterForward, runs, if_neg Bool.false_ne_true, staged, unnamed]

/-- A pending SWAP leaves its port when the staging register is free (R234). -/
theorem swapPortSend_leaves {port : Fin 4} (runs : s.routerStill n = false) (pending : (s.core n).swapPorts[port] = true)
    (read : (s.core n).portLink port = some link) (free : (s.core n).staged (BitVec.ofNat 4 (4 + port)) link = false) :
    exec (.swapPortSend n port) s =
      .next (s.setCore n { (s.core n).stage (BitVec.ofNat 4 (4 + port)) link (Beat.blank 0 markSWAP) with
        swapPorts := (s.core n).swapPorts.set port false }) := by
  show execSwapPortSend n port s = _
  simp only [execSwapPortSend, runs, pending, read, free, Bool.not_true, Bool.or_false, if_neg Bool.false_ne_true]

/-- Settles O29: a beat moves, fills or waits as `moveBeat_moves` and the two `moveBeat_waits` lemmas say. -/
theorem routerMovesBeats : Obligations.RouterMovesBeats := by
  refine ⟨?named, fun s n sel link b runs staged unnamed => routerForward_unnamed runs staged unnamed,
    fun s n port l runs pending read free => swapPortSend_leaves runs pending read free⟩
  intro s n sel link b x runs u staged named
  have moves := exec_routerForward_moves runs staged named
  refine ⟨?single, ?term, ?fill, ?noWindow, ?fork, ?noroute⟩
  case single => exact fun d m dirs outside next takes => routerForward_single runs staged named dirs outside next takes
  case term => exact fun term => (exec_routerForward runs staged named).trans (if_pos term)
  case fill => exact fun w u' local_ win fills => linkFill_fills runs staged named local_ ((fillLocal_some win).trans fills)
  case noWindow => exact fun local_ noWin => linkFill_fills runs staged named local_ (fillLocal_none noWin)
  case fork =>
    intro dirs takes goes
    refine ⟨fun u' all fills => ?every, fun blocked => ?blocked, fun local_ full => ?full⟩
    case every =>
      rw [moves goes, moveBeat_moves ((dirsTake_iff dirs).mpr all) fills]
      exact congrArg _ (sendDirs_eq_foldl _ _ _ _ _)
    case blocked =>
      have waits : s.dirsTake n link dirs = false := by
        obtain ⟨d, hd, closed⟩ := blocked
        rw [Bool.eq_false_iff, ne_eq, dirsTake_iff]
        exact fun all => closed (all d hd)
      rw [moves goes, moveBeat_waits_dirs waits]
    case full => rw [moves goes, moveBeat_waits_local local_ full]
  case noroute => exact fun d m dirs outside next takes unnamed => routerForward_noroute runs staged named dirs outside next takes unnamed

/-! ## Errors of the store and of links -/

/-- A soft error in a good word marks it (R120). -/
theorem exec_storeSoftError_first {addr : Nat} (soft : (s.core n).softStore.contains (addr % 8192) = false)
    (bad : (s.core n).badStore.contains (addr % 8192) = false) :
    exec (.storeSoftError n addr false) s = .next (s.setCore n { s.core n with softStore := addr % 8192 :: (s.core n).softStore }) := by
  show execStoreSoftError n addr false s = _
  simp only [execStoreSoftError, soft, bad, Bool.or_false, if_neg Bool.false_ne_true]

/-- An error that is uncorrectable, or the second of its word, makes the word uncorrectable (R120). -/
theorem exec_storeSoftError_bad {addr : Nat} {uncorrectable : Bool} (h : uncorrectable = true ∨ (s.core n).softStore.contains (addr % 8192) = true) :
    exec (.storeSoftError n addr uncorrectable) s =
      .next (s.setCore n { s.core n with badStore := addr % 8192 :: (s.core n).badStore.filter (· != addr % 8192),
                                         softStore := (s.core n).softStore.filter (· != addr % 8192) }) := by
  show execStoreSoftError n addr uncorrectable s = _
  rw [execStoreSoftError]
  exact if_pos (by rcases h with h | h <;> simp only [h, Bool.true_or, Bool.or_true])

/-- Settles O30: the store's errors by `exec_storeSoftError_first` and `exec_storeSoftError_bad`; the link events run where the link has not stopped. -/
theorem errorsMarkWordsAndLinks : Obligations.ErrorsMarkWordsAndLinks := by
  refine ⟨?store, ?replay, ?stops⟩
  case store =>
    intro s n addr u a
    exact ⟨exec_storeSoftError_first, exec_storeSoftError_bad (.inl rfl),
      fun soft => (exec_storeSoftError_bad (.inr soft)).trans (exec_storeSoftError_bad (.inl rfl)).symm⟩
  case replay =>
    intro s l runs
    show execLinkReplay l s = _
    rw [execLinkReplay, if_neg (runs ▸ Bool.false_ne_true)]
  case stops =>
    intro s n d runs fails
    show execUncorrectableLinkError (.fabric n d) s = _
    have goesOn : ¬ (s.deadLinks.contains (.fabric n d) || decide (s.failsOf (.fabric n d) < 3)) = true := by
      simpa only [runs, Bool.false_or, decide_eq_true_eq, Nat.not_lt] using fails
    rw [execUncorrectableLinkError, if_neg goesOn]
    rfl

/-! ## Echo probes -/

/-- That two probes are on the same way does not depend on which is named first. -/
theorem sameWay_comm (p o : Probe) : p.sameWay o = o.sameWay p := by
  simp only [Probe.sameWay, Bool.beq_comm]

/-- A blocked core sends its one probe along its wait edge (R284). -/
theorem exec_echoProbeSend {r : Region} {p : Probe} (region : s.regionOfCore n = some r) (unsent : (s.core n).probeSent = false)
    (blocked : s.coreBlocked n = true)
    (moves : (s.setCore n { s.core n with probeSent := true }).advanceProbe r ⟨n, n, n, [], [n]⟩ = some p) :
    exec (.echoProbeSend n) s =
      .next { s.setCore n { s.core n with probeSent := true } with probes := s.probes ++ [p] } := by
  show execEchoProbeSend n s = _
  simp only [execEchoProbeSend, region, unsent, blocked, Bool.not_true, Bool.or_false, if_neg Bool.false_ne_true, moves, State.setCore_probes]

/-- A probe that no link and no earlier probe of its way holds back arrives (R284, R298, R300). -/
theorem exec_echoProbeHop {r : Region} {p : Probe} {i : Nat} (there : s.probes[i]? = some p) (first : ∀ o ∈ s.probes.take i, o.sameWay p = false)
    (runs : s.probeWaits p = false) (region : s.regionOfCore p.origin = some r) :
    exec (.echoProbeHop i) s = .next (({ s with probes := dropNth s.probes i } : State).probeArrives r p) := by
  show execEchoProbeHop i s = _
  have before : (s.probes.take i).any p.sameWay = false := by
    rw [List.any_eq_false]
    intro o ho
    rw [sameWay_comm, first o ho]
    exact Bool.false_ne_true
  have region' : ({ s with probes := dropNth s.probes i } : State).regionOfCore p.origin = some r := region
  simp only [execEchoProbeHop, there, runs, before, Bool.or_false, if_neg Bool.false_ne_true, region']

section
variable {r : Region} {p : Probe}

/-- What becomes of a probe that has arrived: it is dropped at a core that is not blocked (R284). -/
theorem probeArrives_dropped (moves : s.coreBlocked p.at_ = false) : s.probeArrives r p = s := by
  rw [State.probeArrives, if_pos (by simp [moves])]

/-- A blocked core that it has not passed forwards it along its own wait edge (R284). -/
theorem probeArrives_forwarded (blocked : s.coreBlocked p.at_ = true) (short : p.trail.length < 1024) (elsewhere : p.at_ ≠ p.origin)
    (fresh : p.at_ ∉ p.passed) {p' : Probe}
    (moves : s.advanceProbe r { p with lowest := min p.lowest p.at_, passed := p.at_ :: p.passed } = some p') :
    s.probeArrives r p = { s with probes := s.probes ++ [p'] } := by
  rw [State.probeArrives, if_neg (by simp [blocked, short]), if_neg elsewhere, if_neg (by simpa using fresh), moves]

/-- Its origin reports it, where that is the lowest core it has visited (R284, R285, R143). -/
theorem probeArrives_reported (blocked : s.coreBlocked p.at_ = true) (short : p.trail.length < 1024) (home : p.at_ = p.origin)
    (lowest : p.lowest = p.origin) : s.probeArrives r p = s.reportDeadlock r p := by
  rw [State.probeArrives, if_neg (by simp [blocked, short]), if_pos home, if_pos lowest]

end

/-- Settles O32: a probe is sent as `exec_echoProbeSend` says; one that arrives by `exec_echoProbeHop` is dropped, forwarded or reported. -/
theorem probesFollowWaitEdges : Obligations.ProbesFollowWaitEdges := by
  intro s n r region
  refine ⟨fun p unsent blocked => exec_echoProbeSend region unsent blocked, ?hop⟩
  intro i p there first runs origin s'
  subst origin
  rw [exec_echoProbeHop there first runs region]
  refine ⟨fun moves => ?dropped, fun blocked short elsewhere fresh p' moves => ?forwarded, fun blocked short home lowest => ?reported⟩
  case dropped => exact congrArg _ (probeArrives_dropped moves)
  case forwarded => exact congrArg _ (probeArrives_forwarded blocked short elsewhere fresh moves)
  case reported => exact congrArg _ (probeArrives_reported blocked short home lowest)

end Sys2Proof.Claims
end

section
/-! PROOFS. Slots of an edge unit (07 R146, R170; 14 R268, R300, R310, R311): what a run needs to move, and what translating, issuing and withholding
leave of its slot. -/

namespace Sys2Proof.Claims

open Sys2Proof.Machine

variable {s t : State} {n : Nat} {e : Fin 4}

/-! ## A slot of a core -/

@[simp] theorem edgeSlot_setCore (s : State) (n : Nat) (c : Core) (e : Fin 4) : (s.setCore n c).edgeSlot n e = c.edge[e] := by
  rw [State.edgeSlot, State.core_setCore]
theorem edgeSlot_eq (s : State) (n : Nat) (e : Fin 4) : s.edgeSlot n e = (s.core n).edge[e] := rfl
@[simp] theorem core_setEdge (s : State) (n : Nat) (e : Fin 4) (x : EdgeSlot) :
    (s.setEdge n e x).core n = { s.core n with edge := (s.core n).edge.set e x } := State.core_setCore _ _ _
theorem setEdge_setCore (s : State) (n : Nat) (c : Core) (e : Fin 4) (x : EdgeSlot) :
    (s.setCore n c).setEdge n e x = s.setCore n { c with edge := c.edge.set e x } := by simp [State.setEdge]
@[simp] theorem setEdge_setEdge (s : State) (n : Nat) (e : Fin 4) (x y : EdgeSlot) : (s.setEdge n e x).setEdge n e y = s.setEdge n e y := by
  simp [State.setEdge]

@[simp] theorem correctStore_edge (c : Core) (reads : List (Nat × Win)) : (c.correctStore reads).edge = c.edge := by
  unfold Core.correctStore
  dsimp only
  split <;> rfl
@[simp] theorem shrinkWin_edge (c : Core) (w : Win) (k : Nat) (byFiring : Bool) : (c.shrinkWin w k byFiring).edge = c.edge := by
  unfold Core.shrinkWin
  dsimp only
  split
  · rfl
  · split <;> rfl

/-! ## Runs that may move -/

/-- A region that neither freezes nor stands frozen does not stop its cores (R269, R272). -/
theorem coreStopping_eq_false {r : Region} (region : s.regionOfCore n = some r) (freezing : r.freezing = false) (frozen : r.frozen = false) :
    s.coreStopping n = false := by
  simp [State.coreStopping, region, freezing, frozen]

theorem EdgeRuns.not_stopping (h : EdgeRuns s n e) : s.coreStopping n = false := by
  obtain ⟨r, region, freezing, frozen, -⟩ := h.region
  exact coreStopping_eq_false region freezing frozen
theorem EdgeRuns.slot (h : EdgeRuns s n e) :
    (s.edgeSlot n e).state = .running ∧ (s.edgeSlot n e).waitFlip = false ∧ (s.edgeSlot n e).parked = false := ⟨h.state, h.clear⟩
theorem EdgeRuns.edgeRuns (h : EdgeRuns s n e) : s.edgeRuns n e = true := by
  simp [State.edgeRuns, h.slot, h.not_stopping]
theorem EdgeRuns.loadRuns (h : EdgeRuns s n e) : s.loadRuns n e = true := by
  obtain ⟨r, region, freezing, frozen, -⟩ := h.region
  simp [State.loadRuns, h.slot, region, freezing, frozen]
theorem parks_eq_false {r : Region} (region : s.regionOfCore n = some r) (stays : r.checkpoint = none) (e : Fin 4) : s.parks n e = false := by
  simp [State.parks, State.checkpointing, region, stays]

/-- What an edge unit has read is used where no word of it is beyond correction (R120). -/
theorem edgeRead_good {reads : List (Nat × Win)} (good : (s.core n).badRead reads = none) (f : State → State) :
    s.edgeRead n reads f = f (readStore s n reads) := by
  simp only [State.edgeRead, good, readStore]

/-! ## What translating and issuing leave of a slot -/

/-- t is s but for what reading and translating change, as far as a slot and the packets in flight show it: of the slot only the latches (R310). -/
structure Latching (s t : State) (n : Nat) (e : Fin 4) : Prop where
  net : t.net = s.net
  slot : ∃ l, t.edgeSlot n e = { s.edgeSlot n e with latches := l }

theorem Latching.refl (s : State) (n : Nat) (e : Fin 4) : Latching s s n e := ⟨rfl, _, rfl⟩
theorem Latching.trans {u : State} (h : Latching s t n e) (k : Latching t u n e) : Latching s u n e := by
  obtain ⟨l, slot⟩ := h.slot
  obtain ⟨l', slot'⟩ := k.slot
  exact ⟨k.net.trans h.net, l', by rw [slot', slot]⟩
theorem latching_of_reads (h : s.ReadsTo t) (n : Nat) (e : Fin 4) : Latching s t n e :=
  ⟨h.net, _, by rw [edgeSlot_eq, h.core]; rfl⟩

/-- A translation of a slot changes nothing of it but its latches (R310). -/
theorem edgeTranslate_latching (s : State) (n : Nat) (e : Fin 4) (va : Int) (write : Bool) : Latching s (s.edgeTranslate n e va write).2 n e := by
  have latched (u : State) (l : List Trans) : Latching u (u.setEdge n e { u.edgeSlot n e with latches := l }) n e :=
    ⟨rfl, l, State.edgeSlot_setEdge _ _ _ _⟩
  unfold State.edgeTranslate
  split
  · exact .refl s n e
  next r _ =>
    split
    · exact .refl s n e
    have walk := latching_of_reads (s.translateTlb_reads (clusterOf n) r.ctx (s.mappedVa r.ctx va.toNat) true (some (.run n e))) n e
    cases hit : (s.edgeSlot n e).latches.find? fun t => t.covers (s.mappedVa r.ctx va.toNat) with
    | some t =>
      simp only [hit]
      split
      · exact .refl s n e
      · exact latched _ _
    | none =>
      simp only [hit]
      split
      · next h => rw [h] at walk; exact walk
      · next h =>
        rw [h] at walk
        split
        · exact walk
        · exact walk.trans (latched _ _)

/-- The same of several addresses. -/
theorem edgePlaces_latching (s : State) (n : Nat) (e : Fin 4) (write : Bool) (l : List Int) : Latching s (s.edgePlaces n e write l).2 n e := by
  induction l generalizing s with
  | nil => exact .refl s n e
  | cons va rest ih =>
    have first := edgeTranslate_latching s n e va write
    rw [State.edgePlaces]
    split
    · next h => rw [h] at first; exact first
    · next f s1 h =>
      rw [h] at first
      have others := first.trans (ih s1)
      split
      · next h => rw [h] at others; exact others
      · exact others

/-! ## What withholding leaves of a slot -/

@[simp] theorem core_recordOfCore (s : State) (n : Nat) (src : UnitId) (cause slot stage win : Nat) (detail extra : Word) (m : Nat) :
    (s.recordOfCore n src cause slot stage win detail extra).core m = s.core m := by
  unfold State.recordOfCore
  split <;> rfl

/-- A record is no access (R260). -/
theorem recordOfCore_net (s : State) (n : Nat) (src : UnitId) (cause slot stage win : Nat) (detail extra : Word) :
    ∀ p ∈ (s.recordOfCore n src cause slot stage win detail extra).net, p ∈ s.net ∨ ∀ a, p.payload ≠ .access a := by
  intro p there
  unfold State.recordOfCore at there
  split at there
  · unfold State.record at there
    rw [State.send_net, List.mem_append, List.mem_singleton] at there
    exact there.imp id fun sent a => by rw [sent]; exact Payload.noConfusion
  · exact .inl there

/-- A slot that withholds already notes at most another cause (R170). -/
theorem edgeWithhold_again (held : (s.edgeSlot n e).state = .withholding) (cause : Nat) (va : Word) :
    (s.edgeWithhold n e cause va).net = s.net
      ∧ ∃ c, (s.edgeWithhold n e cause va).edgeSlot n e = { s.edgeSlot n e with faultCause := c } := by
  have held' : (s.core n).edge[e].state = .withholding := held
  unfold State.edgeWithhold
  dsimp only
  rw [if_pos held']
  split
  · exact ⟨rfl, _, rfl⟩
  · refine ⟨rfl, ?_⟩
    rw [edgeSlot_setCore, Fin.getElem_fin, Vector.getElem_set_self]
    split
    · exact ⟨_, rfl⟩
    · exact ⟨_, rfl⟩

/-- A slot withholds its next token, and sends at most a record (R268). -/
theorem edgeWithhold_withholds (s : State) (n : Nat) (e : Fin 4) (cause : Nat) (va : Word) :
    (∀ p ∈ (s.edgeWithhold n e cause va).net, p ∈ s.net ∨ ∀ a, p.payload ≠ .access a)
      ∧ ((s.edgeWithhold n e cause va).edgeSlot n e).state = .withholding
      ∧ ((s.edgeWithhold n e cause va).edgeSlot n e).cursor = (s.edgeSlot n e).cursor := by
  by_cases held : (s.edgeSlot n e).state = .withholding
  · obtain ⟨net, c, slot⟩ := edgeWithhold_again held cause va
    rw [net, slot]
    exact ⟨fun p => .inl, held, rfl⟩
  · have held' : ¬ (s.core n).edge[e].state = .withholding := held
    unfold State.edgeWithhold
    dsimp only
    rw [if_neg held']
    refine ⟨recordOfCore_net _ _ _ _ _ _ _ _ _, ?_⟩
    rw [edgeSlot_eq, core_recordOfCore, State.core_setCore, Fin.getElem_fin, Vector.getElem_set_self]
    exact ⟨rfl, rfl⟩

/-- A cause of 0 is that of a link that has stopped: the run only waits (R300). -/
theorem edgeFault_waits (s : State) (n : Nat) (e : Fin 4) (va : Int) : s.edgeFault n e 0 va = s := rfl

/-- Any other cause withholds the element at the cursor, for its address, and sends no access (R268, R311). -/
theorem edgeFault_withholds (s : State) (n : Nat) (e : Fin 4) {cause : Nat} (failed : cause ≠ 0) (va : Int) :
    ((s.edgeFault n e cause va).edgeSlot n e).state = .withholding
      ∧ ((s.edgeFault n e cause va).edgeSlot n e).faultAddr = addrWord va
      ∧ ((s.edgeFault n e cause va).edgeSlot n e).cursor = (s.edgeSlot n e).cursor
      ∧ ∀ p ∈ (s.edgeFault n e cause va).net, p ∈ s.net ∨ ∀ a, p.payload ≠ .access a := by
  obtain ⟨net, state, cursor⟩ := edgeWithhold_withholds s n e cause (addrWord va)
  unfold State.edgeFault
  rw [if_neg failed, State.edgeSlot_setEdge]
  exact ⟨state, rfl, cursor, net⟩

end Sys2Proof.Claims
end

section
/-! PROOFS. Loads and stores of edge runs (07 R150, R151, R153, R155, R162, R169): where a ragged run sends no load, and what a store run sends. -/

namespace Sys2Proof.Claims

open Sys2Proof.Machine

variable {s : State} {n : Nat} {e : Fin 4}

/-! ## Loads: a row pointer that has been read ahead -/

/-- A ragged run of two rows, with its row pointers from 0x3000 on, at its first row: it knows where the row begins and has sent the load of the
pointer behind it already. The page of address 0 is latched. -/
def aheadSlot : EdgeSlot :=
  { EdgeSlot.init with
    pattern := #v[0x5000000000001000, 0, 0x600, 0x4, 0x0000800000000000, 0, 0, 0], state := .running, rowLo := some 0,
    pointersAhead := [(1, [⟨7, 0x3004, 4, []⟩])], latches := [⟨0, 0, true, true, false⟩] }

/-- The slot in a region of one core that nothing stops. -/
def aheadState : State :=
  { State.reset with
    regions := [newRegion 0 0 0 0 1 1 0 0 0 1]
    cores := [(0, { Core.init with edge := Core.init.edge.set 0 aheadSlot })] }

theorem aheadState_runs : EdgeRuns aheadState 0 0 := ⟨rfl, ⟨rfl, rfl⟩, _, rfl, rfl, rfl, rfl⟩
theorem aheadSlot_goes : LoadGoes aheadSlot := ⟨by decide, rfl, rfl, rfl⟩

/-- The pointer that the row needs can be loaded: the load is one packet. -/
theorem aheadState_fetches : ∃ ps s', aheadState.edgeFetch 0 0 aheadSlot.pointerPieces = (.ok ps, s') ∧ s'.net.length = 1 := ⟨_, _, rfl, rfl⟩

/-- The run takes the load of the pointer that it has sent already, and sends nothing (R153, R169; log 113). -/
theorem aheadState_takes : ∃ t, exec (.edgeLoadBeat 0 0) aheadState = .next t ∧ (t.edgeSlot 0 0).pointers = [⟨7, 0x3004, 4, []⟩] ∧ t.net = [] :=
  ⟨_, rfl, rfl, rfl⟩

/-- Refutes O33: `RaggedRowsAreRead` has a run without `rowHi` and without pointers under way send the loads of `pointerPieces`, but where the row's
first bound is known and P[r + 1] has been read ahead, as in `aheadState`, the run takes that load for its own and sends none. -/
theorem not_edgeLoadsDeliverElements : ¬ Obligations.EdgeLoadsDeliverElements := by
  rintro ⟨-, -, ragged, -⟩
  obtain ⟨ps, s', fetched, sent⟩ := aheadState_fetches
  obtain ⟨t, takes, -, quiet⟩ := aheadState_takes
  have loads := (ragged aheadState 0 0 aheadState_runs aheadSlot_goes (by decide)).1 ps s' rfl rfl fetched
  have same := Host.Outcome.next.inj (takes.symm.trans loads)
  rw [same, State.setEdge_net] at quiet
  rw [quiet] at sent
  exact absurd sent (by decide)

/-! ## Stores -/

@[simp] theorem edgeSlot_readStore (s : State) (n : Nat) (reads : List (Nat × Win)) (e : Fin 4) : (readStore s n reads).edgeSlot n e = s.edgeSlot n e := by
  rw [readStore, edgeSlot_setCore, correctStore_edge, edgeSlot_eq]

/-- A store of a format that is not packed stores no bit planes (R151). -/
theorem Storing.bp_of_not_packed {sl : EdgeSlot} (h : Storing sl) (single : sl.packed = false) : sl.bp = false := by
  have kind := h.kind
  simp only [EdgeSlot.storeKind, EdgeSlot.packed, EdgeSlot.bp, Bool.or_eq_true, beq_iff_eq, Bool.and_eq_false_iff, decide_eq_false_iff_not,
    bne_eq_false_iff_eq, Bool.or_eq_false_iff, beq_eq_false_iff_ne] at kind single ⊢
  omega

/-- A slot that can take its next element waits for no token and no access (R152, R311). -/
theorem Storing.not_held {sl : EdgeSlot} (h : Storing sl) : ((sl.byToken && sl.token.isNone) || !sl.mayIssue) = false := by
  cases walked : sl.byToken with
  | false => simp [h.room]
  | true => simp [h.room, h.token walked]

section
variable (runs : EdgeRuns s n e) (stores : Storing (s.edgeSlot n e))
include runs stores

theorem exec_edgeStoreElement (planes : (s.edgeSlot n e).bp = false) :
    exec (.edgeStoreElement n e) s = .next (if (s.edgeSlot n e).packed then s.storePacked n e 0 else s.storeElement n e) := by
  show execEdgeStoreElement n e s = _
  simp [execEdgeStoreElement, State.storeMove, runs.edgeRuns, stores.kind, stores.going, planes, stores.not_held]

theorem exec_quantisingStoreBlock (planes : (s.edgeSlot n e).bp = true) :
    exec (.quantisingStoreBlock n e) s = .next (s.blockMove n e) := by
  show execQuantisingStoreBlock n e s = _
  simp [execQuantisingStoreBlock, runs.edgeRuns, stores.kind, stores.going, planes]

theorem exec_edgeStoreElement_single (single : (s.edgeSlot n e).packed = false) : exec (.edgeStoreElement n e) s = .next (s.storeElement n e) := by
  rw [exec_edgeStoreElement runs stores (stores.bp_of_not_packed single), single, if_neg Bool.false_ne_true]

end

section
variable {v : Lane} {reads : List (Nat × Win)} (value : (s.core n).nextValues e 1 = (some [v], reads)) (good : (s.core n).badRead reads = none)
include value good

/-- A clipped element leaves WIN and is not stored (R151). -/
theorem storeElement_clipped (clipped : clippedHere (s.edgeSlot n e) = true) :
    s.storeElement n e = (readStore s n reads).storePass n e 1 id := by
  simp only [State.storeElement, value, edgeRead_good good, edgeSlot_readStore]
  exact if_pos clipped

/-- An element that is neither clipped nor had performed before a restore is written (R150, R273). -/
theorem storeElement_writes (inside : clippedHere (s.edgeSlot n e) = false)
    (fresh : (s.edgeSlot n e).passed.contains (s.edgeSlot n e).visited = false) :
    s.storeElement n e = (readStore s n reads).edgeWrite n e (s.edgeSlot n e).visited 1 1
      ((s.edgeSlot n e).elementWrites ((s.edgeSlot n e).place (s.edgeSlot n e).cursor 0) v).1
      ((s.edgeSlot n e).elementWrites ((s.edgeSlot n e).place (s.edgeSlot n e).cursor 0) v).2 := by
  simp only [State.storeElement, value, edgeRead_good good, edgeSlot_readStore]
  rw [if_neg (by rw [← clippedHere, inside]; exact Bool.false_ne_true), if_neg (by rw [fresh]; exact Bool.false_ne_true)]

end

section
variable {k m stored : Nat} {ws : List EdgeWrite} {warn : Lane} {s' : State}

/-- Writes that all translate go out, and the run goes past what they store (R169, R298). -/
theorem edgeWrite_sends {fs : List Found} (there : s.edgePlaces n e true (ws.map (·.va)) = (.ok fs, s')) :
    s.edgeWrite n e k m stored ws warn =
      ((s'.edgeIssue n e k (ws.zip fs)).setCore n
        { (s'.edgeIssue n e k (ws.zip fs)).core n with ewarn := ((s'.edgeIssue n e k (ws.zip fs)).core n).ewarn ||| warn }).storePass n e m
          (counted stored) := by
  simp only [State.edgeWrite, there]
  rfl

/-- Where one does not translate, none goes out (R300, R311). -/
theorem edgeWrite_stays {cause : Nat} {va : Int} (there : s.edgePlaces n e true (ws.map (·.va)) = (.error (cause, va), s')) :
    s.edgeWrite n e k m stored ws warn = s'.edgeFault n e cause va := by
  simp only [State.edgeWrite, there]

end

/-- A packed unit or a block whose last values stand in WIN is stored (R151, R157, R162). -/
theorem storePacked_stores {mx : Lane} {vs : List Lane} {reads : List (Nat × Win)}
    (values : (s.core n).nextValues e ((s.edgeSlot n e).unitSize (s.edgeSlot n e).unitStart - (s.edgeSlot n e).packBuf.length) = (some vs, reads))
    (good : (s.core n).badRead reads = none) : s.storePacked n e mx = (readStore s n reads).storeUnit n e vs mx := by
  simp only [State.storePacked, values, edgeRead_good good]

/-- A maximum is taken where one stands in IWIN and the slot has room for it (R162). -/
theorem takeMaximum_takes {i : Nat} (head : (s.core n).headOffset (s.edgeSlot n e).iwin = some i) (room : (s.edgeSlot n e).maxima.length < maximaRoom)
    (good : (s.core n).badRead [((s.core n).elemAddr (s.edgeSlot n e).iwin i, (s.edgeSlot n e).iwin)] = none) (f : State → State) :
    s.takeMaximum n e f = f (maximumTaken s n e (s.edgeSlot n e) ((s.core n).elemAddr (s.edgeSlot n e).iwin i)) := by
  rw [edgeSlot_eq] at head room good
  simp only [State.takeMaximum, head, if_neg (Nat.not_le.mpr room), edgeRead_good good]
  rfl

/-- A block whose maximum the run has taken is paired with it (R162). -/
theorem blockMove_pairs (stores : Storing (s.edgeSlot n e)) {mx : Lane}
    (taken : (s.edgeSlot n e).blockMax ((s.edgeSlot n e).blockNumber (s.edgeSlot n e).unitStart) = some mx) :
    s.blockMove n e = s.storePacked n e mx := by
  simp only [State.blockMove, stores.not_held, if_neg Bool.false_ne_true, taken]

/-- Settles O34: an element goes by `storeElement_clipped` or `storeElement_writes`, with `edgeWrite_sends` where its addresses translate and
`edgeWrite_stays` where one does not; a unit or block by `storePacked_stores`; a block without its maximum by `takeMaximum_takes`. -/
theorem edgeStoresSendElements : Obligations.EdgeStoresSendElements := by
  intro s n e runs u sl k stores
  refine ⟨?single, ?unit, ?block, ?maximum⟩
  case single =>
    intro v reads single value good s0
    rw [exec_edgeStoreElement_single runs stores single]
    refine ⟨fun clipped => congrArg _ (storeElement_clipped value good clipped), fun inside fresh => ?_⟩
    have writes : s.storeElement n e = s0.edgeWrite n e k 1 1 (sl.elementWrites (sl.place sl.cursor 0) v).1
        (sl.elementWrites (sl.place sl.cursor 0) v).2 := storeElement_writes value good inside fresh
    rw [writes]
    generalize sl.elementWrites (sl.place sl.cursor 0) v = w
    obtain ⟨ws, warn⟩ := w
    refine ⟨fun fs s' there => congrArg _ (edgeWrite_sends there), fun va s' there => congrArg _ ((edgeWrite_stays there).trans (edgeFault_waits ..)),
      fun cause va s' failed there => ⟨_, congrArg _ (edgeWrite_stays there), ?_⟩⟩
    obtain ⟨state, addr, cursor, sent⟩ := edgeFault_withholds s' n e failed va
    have latched := edgePlaces_latching s0 n e true (ws.map (·.va))
    rw [there] at latched
    obtain ⟨l, slot⟩ := latched.slot
    refine ⟨state, addr, cursor.trans ?_, sent⟩
    rw [slot, edgeSlot_readStore]
    rfl
  case unit =>
    intro vs reads packed planes values good
    rw [exec_edgeStoreElement runs stores planes]
    exact congrArg _ ((if_pos packed).trans (storePacked_stores values good))
  case block =>
    intro mx vs reads planes taken values good
    rw [exec_quantisingStoreBlock runs stores planes]
    rw [blockMove_pairs stores taken, storePacked_stores values good]
  case maximum =>
    intro i planes untaken head room good s1
    rw [exec_quantisingStoreBlock runs stores planes]
    have untaken' : (s.edgeSlot n e).blockMax ((s.edgeSlot n e).blockNumber (s.edgeSlot n e).unitStart) = none := untaken
    have open_ : (((s.edgeSlot n e).byToken && (s.edgeSlot n e).token.isNone) || !(s.edgeSlot n e).mayIssue) = false := stores.not_held
    simp only [State.blockMove, open_, if_neg Bool.false_ne_true, untaken', takeMaximum_takes head room good]
    rfl

end Sys2Proof.Claims
end

section
/-! PROOFS. Tokens, completion and retries of edge runs (07 R152, R154, R168, R169; 14 R268, R269, R310 to R312, R318). -/

namespace Sys2Proof.Claims

open Sys2Proof.Machine

variable {s : State} {n : Nat} {e : Fin 4}

/-! ## Acquires, permits and index tokens -/

@[simp] theorem edgeSlot_withSlot (s : State) (n : Nat) (e : Fin 4) (c : Core) (x : EdgeSlot) : (withSlot s n e c x).edgeSlot n e = x := by
  simp [withSlot]
@[simp] theorem setEdge_withSlot (s : State) (n : Nat) (e : Fin 4) (c : Core) (x y : EdgeSlot) :
    (withSlot s n e c x).setEdge n e y = withSlot s n e c y := by
  simp [withSlot, setEdge_setCore]

/-- What a run takes from a window is its oldest element, whole (R154, R169): the windows of the core are those after the shrink. -/
theorem taken_from_window (s : State) (n : Nat) (e : Fin 4) (w : Win) (x : EdgeSlot) :
    (((s.setCore n ((s.core n).shrinkWin w 1 false)).setEdge n e x).core n).wstate = ((s.core n).shrinkWin w 1 false).wstate := by
  rw [core_setEdge, State.core_setCore]

section
variable {r : Region} (region : s.regionOfCore n = some r) (freezing : r.freezing = false) (frozen : r.frozen = false) (stays : r.checkpoint = none)
  (unparked : (s.edgeSlot n e).parked = false)
include region freezing frozen stays unparked

theorem exec_acquireTake (waits : (s.edgeSlot n e).state = .waitAcquire) (clear : (s.edgeSlot n e).waitFlip = false)
    (there : ((s.core n).headOffset (s.edgeSlot n e).dwin).isSome = true) :
    exec (.acquireTake n e) s =
      .next ((s.setCore n ((s.core n).shrinkWin (s.edgeSlot n e).dwin 1 false)).setEdge n e { s.edgeSlot n e with state := .running, acquireTaken := true }) := by
  show execAcquireTake n e s = _
  simp only [execAcquireTake, ← edgeSlot_eq, waits, clear, unparked, parks_eq_false region stays, coreStopping_eq_false region freezing frozen,
    Option.isNone_eq_false_iff.mpr there]
  rfl

theorem exec_permitTake (waits : (s.edgeSlot n e).state = .waitPermit) (there : ((s.core n).headOffset (s.edgeSlot n e).iwin).isSome = true) :
    exec (.permitTake n e) s =
      .next ((s.setCore n ((s.core n).shrinkWin (s.edgeSlot n e).iwin 1 false)).setEdge n e
        { s.edgeSlot n e with state := .running, permitTaken := true, iLaneUsed := 0 }) := by
  show execPermitTake n e s = _
  simp only [execPermitTake, ← edgeSlot_eq, waits, unparked, parks_eq_false region stays, coreStopping_eq_false region freezing frozen,
    Option.isNone_eq_false_iff.mpr there]
  rfl

end

/-- The row of a token is passed over as a whole: a gather in skip mode whose token is out of range (R152). -/
def passesOver (sl : EdgeSlot) (t : Lane) : Bool := sl.tokenOut t && sl.kind == 2 && sl.clipSkip

/-- A token whose row is not passed over stands in the slot, and nothing else changes (R152). -/
theorem takeToken_stands {t : Lane} (goes : passesOver (s.edgeSlot n e) t = false) :
    s.takeToken n e t = s.setEdge n e { s.edgeSlot n e with token := some t } := by
  have goes' : ¬ passesOver (s.edgeSlot n e) t = true := by rw [goes]; exact Bool.false_ne_true
  exact if_neg goes'

/-- GIDX of a token (R152). -/
def gidx (c : Core) (out : Bool) : Core := { c with ewarn := if out then c.ewarn ||| ewGIDX else c.ewarn }

/-- The core behind a token that is `skip` elements behind the head of IWIN. -/
def skipped (c : Core) (w : Win) (skip : Nat) : Core := if skip = 0 then c else c.shrinkWin w skip false
@[simp] theorem skipped_edge (c : Core) (w : Win) (skip : Nat) : (skipped c w skip).edge = c.edge := by
  unfold skipped
  split
  · rfl
  · exact shrinkWin_edge _ _ _ _

section
variable (runs : EdgeRuns s n e) (wants : (s.edgeSlot n e).wantsToken = true)
include runs wants

/-- The token that a run wants: one that it has consumed or read already, or the next of IWIN where the slot has room for it (R152; log 109). -/
theorem exec_indexTokenTake_kept {t : Lane} (kept : (s.edgeSlot n e).rowToken (s.edgeSlot n e).rowNow = some t) :
    exec (.indexTokenTake n e) s = .next (s.takeToken n e t) := by
  show execIndexTokenTake n e s = _
  simp [execIndexTokenTake, runs.edgeRuns, wants, kept]

variable (fresh : (s.edgeSlot n e).rowToken (s.edgeSlot n e).rowNow = none)
include fresh

theorem exec_indexTokenTake_ahead {t : Lane} (ahead : (s.edgeSlot n e).tokenAhead = some t) :
    exec (.indexTokenTake n e) s = .next ((s.setEdge n e { s.edgeSlot n e with tokenAhead := none }).takeToken n e t) := by
  show execIndexTokenTake n e s = _
  simp [execIndexTokenTake, runs.edgeRuns, wants, fresh, ahead]

variable (behind : (s.edgeSlot n e).tokenAhead = none) (room : (s.edgeSlot n e).rowTokens.length < (s.edgeSlot n e).tokenRoom)
include behind room

theorem exec_indexTokenTake_lane (single : ((s.edgeSlot n e).storeKind && (s.edgeSlot n e).bp) = false) :
    exec (.indexTokenTake n e) s = .next (s.readToken n e fun t s => s.takeToken n e t) := by
  show execIndexTokenTake n e s = _
  simp only [execIndexTokenTake, runs.edgeRuns, wants, fresh, behind, if_neg (Nat.not_le.mpr room), single, Bool.not_true, Bool.or_false,
    if_neg Bool.false_ne_true]

theorem exec_indexTokenTake_whole (quantised : ((s.edgeSlot n e).storeKind && (s.edgeSlot n e).bp) = true) :
    exec (.indexTokenTake n e) s = .next (s.wholeToken n e) := by
  show execIndexTokenTake n e s = _
  simp only [execIndexTokenTake, runs.edgeRuns, wants, fresh, behind, if_neg (Nat.not_le.mpr room), quantised, Bool.not_true, Bool.or_false,
    if_neg Bool.false_ne_true, if_true]

end

/-- A token that stands in a valid lane of IWIN is read there, and the elements before it are shrunk past (R152). -/
theorem readToken_reads {x : Found1} {reads : List (Nat × Win)}
    (there : (s.core n).laneAhead (s.edgeSlot n e).iwin (s.edgeSlot n e).iLaneUsed 0 = (some x, reads)) (good : (s.core n).badRead reads = none)
    (f : Lane → State → State) :
    s.readToken n e f =
      let sl := s.edgeSlot n e
      f x.value (withSlot s n e (gidx (skipped ((s.core n).correctStore reads) sl.iwin x.skip) (sl.kind != 6 && sl.tokenOut x.value))
        { (skipped ((s.core n).correctStore reads) sl.iwin x.skip).edge[e] with iLaneUsed := x.lane + 1 }) := by
  rw [edgeSlot_eq] at there
  simp only [State.readToken, there, edgeRead_good good, readStore, State.core_setCore, withSlot, State.setCore_setCore]
  rfl

/-- The token of a quantising scatter is an element of IWIN, taken whole (R152; log 115). -/
theorem wholeToken_takes {i : Nat} (head : (s.core n).headOffset (s.edgeSlot n e).iwin = some i)
    (good : (s.core n).badRead [((s.core n).elemAddr (s.edgeSlot n e).iwin i, (s.edgeSlot n e).iwin)] = none) :
    s.wholeToken n e =
      let sl := s.edgeSlot n e
      let a := (s.core n).elemAddr sl.iwin i
      let c := (s.core n).correctStore [(a, sl.iwin)]
      withSlot s n e (gidx (c.shrinkWin sl.iwin 1 false) (sl.tokenOut (c.loadWord a)))
        { sl with token := some (c.loadWord a), tokensTaken := sl.tokensTaken + 1, rowTokens := sl.rowTokens ++ [c.loadWord a] } := by
  rw [edgeSlot_eq] at head good
  simp only [State.wholeToken, head, edgeRead_good good, readStore, State.core_setCore, State.setCore_setCore, withSlot]
  rfl

/-- Settles O35: an acquire and a permit by `exec_acquireTake` and `exec_permitTake`; a token that the run has already stands in its slot by
`takeToken_stands`, and one of IWIN is read as `readToken_reads` or `wholeToken_takes` says. -/
theorem edgeRunsTakeTokens : Obligations.EdgeRunsTakeTokens := by
  refine ⟨?windows, ?tokens⟩
  case windows =>
    intro s n e r region freezing frozen stays u sl unparked
    refine ⟨fun waits clear there => ⟨_, exec_acquireTake region freezing frozen stays unparked waits clear there, taken_from_window .., ?_⟩,
      fun waits there => ⟨_, exec_permitTake region freezing frozen stays unparked waits there, taken_from_window .., ?_⟩⟩
    · rw [← edgeSlot_eq, State.edgeSlot_setEdge]
      exact ⟨rfl, rfl⟩
    · rw [← edgeSlot_eq, State.edgeSlot_setEdge]
      exact ⟨rfl, rfl, rfl⟩
  case tokens =>
    intro s n e runs u sl wants passedOver
    refine ⟨?kept, ?ahead, ?lane, ?whole⟩
    case kept =>
      intro tok kept goes
      rw [exec_indexTokenTake_kept runs wants kept, takeToken_stands goes]
      rfl
    case ahead =>
      intro tok fresh ahead goes
      rw [exec_indexTokenTake_ahead runs wants fresh ahead, takeToken_stands (by rw [State.edgeSlot_setEdge]; exact goes), State.edgeSlot_setEdge,
        setEdge_setEdge]
      rfl
    case lane =>
      intro x reads fresh behind room single there good out goes
      have slot : (skipped (u.correctStore reads) sl.iwin x.skip).edge[e] = sl := by rw [skipped_edge, correctStore_edge]
      rw [exec_indexTokenTake_lane runs wants fresh behind room single, readToken_reads there good,
        takeToken_stands (by rw [edgeSlot_withSlot]; exact slot ▸ goes), edgeSlot_withSlot, setEdge_withSlot]
      rfl
    case whole =>
      intro i fresh behind room quantised head a good
      rw [exec_indexTokenTake_whole runs wants fresh behind room quantised, wholeToken_takes head good]
      rfl

/-! ## Completion tokens -/

section
variable {r : Region} {s1 : State} (runs : EdgeRuns s n e) (freed : (if (s.edgeSlot n e).storeKind then s.storeFree n e else s) = s1)
  (region : s1.regionOfCore n = some r) (runs1 : s1.edgeRuns n e = true)
  (kind : ((s1.edgeSlot n e).storeKind || (s1.edgeSlot n e).kind == 7) = true) (ended : (s1.edgeSlot n e).storeOver = true)
  (wanted : (s1.edgeSlot n e).dv = true) (unsent : (s1.edgeSlot n e).tokenPending = false)
  (performed : (decide (8 ≤ (s1.edgeSlot n e).dscope) && s1.netWords r) = false)
include runs freed region runs1 kind ended wanted unsent performed

/-- The token goes into a window of the core, and the run ends (R168). -/
theorem exec_completionToken_fills {u : Core} (here : (s1.edgeSlot n e).dseq = false)
    (fills : (s1.core n).fillBeat (s1.edgeSlot n e).dwin (s1.edgeSlot n e).tokenBeat = some u) :
    exec (.completionToken n e) s =
      .next (withSlot s1 n e { u with ewarn := u.ewarn ||| (if (s1.edgeSlot n e).dscope ≤ 1 then ewSCOPE else 0) } ((s1.edgeSlot n e).endRun .done)) := by
  show execCompletionToken n e s = _
  simp only [execCompletionToken, runs.edgeRuns, Bool.true_and, freed, region, ← edgeSlot_eq, runs1, kind, ended, wanted, unsent, performed, here, fills]
  rfl

/-- The token travels to the sequencer that bound the stream (R168). -/
theorem exec_completionToken_sends (away : (s1.edgeSlot n e).dseq = true) :
    exec (.completionToken n e) s =
      .next ((withSlot s1 n e { s1.core n with ewarn := (s1.core n).ewarn ||| (if (s1.edgeSlot n e).dscope ≤ 1 then ewSCOPE else 0) }
        { s1.edgeSlot n e with tokenPending := true }).send .rsp (.edge n e) (.seq (s1.edgeSlot n e).binder)
          (.fill ⟨.edge n e, BitVec.ofNat 3 (s1.edgeSlot n e).dwin.val, 1, (s1.edgeSlot n e).tokenBeat.lanes⟩)) := by
  show execCompletionToken n e s = _
  simp only [execCompletionToken, runs.edgeRuns, Bool.true_and, freed, region, ← edgeSlot_eq, runs1, kind, ended, wanted, unsent, performed, away]
  rfl

end

theorem completionTokensAreFilled : CompletionTokensAreFilled := by
  intro s n e r runs region sl s1 u v running flip unparked kept kind ended wanted unsent performed tok warned
  have region1 : s1.regionOfCore n = some r := by
    show (if sl.storeKind then s.storeFree n e else s).regionOfCore n = some r
    split
    · exact region
    · exact region
  obtain ⟨r', region', freezing, frozen, -⟩ := runs.region
  cases region.symm.trans region'
  have runs1 : s1.edgeRuns n e = true := by
    have state : (s1.edgeSlot n e).state = .running := running
    have clear : (s1.edgeSlot n e).waitFlip = false := flip
    have moves : (s1.edgeSlot n e).parked = false := unparked
    simp [State.edgeRuns, state, clear, moves, coreStopping_eq_false region1 freezing frozen]
  have stores : ((s1.edgeSlot n e).storeKind || (s1.edgeSlot n e).kind == 7) = true := by
    rw [Bool.or_eq_true, beq_iff_eq]
    exact kind.imp kept.trans id
  have net : (decide (8 ≤ (s1.edgeSlot n e).dscope) && s1.netWords r) = false := by
    rw [Bool.and_eq_false_imp, decide_eq_true_eq]
    exact performed
  exact ⟨fun u' here fills => exec_completionToken_fills runs rfl region1 runs1 stores ended wanted unsent net here fills,
    fun away => exec_completionToken_sends runs rfl region1 runs1 stores ended wanted unsent net away⟩

/-! ## Translation and erase runs -/

theorem translationWordsAreDelivered : TranslationWordsAreDelivered := by
  intro s n e w s' tok runs sl kind open_ going goesOn token tile word rank c
  have shut : (sl.tiled && !sl.tileOpen) = false := by
    cases tiled : sl.tiled with
    | false => rfl
    | true => rw [tile tiled]; rfl
  have more : sl.loadOver = false := by simp [EdgeSlot.loadOver, going, goesOn]
  show execTranslationToken n e s = _
  simp only [execTranslationToken, runs.loadRuns, kind, open_, more, goesOn, token, shut, word, sl]
  rfl

/-- The next element of an erase run (R318). -/
theorem exec_eraseElement (runs : EdgeRuns s n e) (kind : (s.edgeSlot n e).kind = 7) (going : (s.edgeSlot n e).finished = false) :
    exec (.eraseElement n e) s = .next (s.eraseMove n e) := by
  show execEraseElement n e s = _
  simp [execEraseElement, runs.edgeRuns, kind, going]

section
variable (room : (s.edgeSlot n e).mayIssue = true)
include room

/-- An element that had performed before a save is passed over (R278). -/
theorem eraseMove_again (performed : (s.edgeSlot n e).passed.contains (s.edgeSlot n e).visited = true) :
    s.eraseMove n e = s.storePass n e 1 fun sl => { sl with passed := sl.passed.erase (s.edgeSlot n e).visited } := by
  simp only [State.eraseMove, room, performed, Bool.not_true, if_neg Bool.false_ne_true, if_true]

variable (fresh : (s.edgeSlot n e).passed.contains (s.edgeSlot n e).visited = false)
include fresh

/-- A clipped element is visited and counts (R150, R151). -/
theorem eraseMove_clipped (clipped : (s.edgeSlot n e).clipped (s.edgeSlot n e).cursor = true) : s.eraseMove n e = s.storePass n e 1 (counted 1) := by
  simp only [State.eraseMove, room, fresh, clipped, Bool.not_true, if_neg Bool.false_ne_true, if_true]
  rfl

/-- An element whose first byte translates is erased where its page is a vug page, and counts where it is not (R318). -/
theorem eraseMove_reaches (inside : (s.edgeSlot n e).clipped (s.edgeSlot n e).cursor = false) {f : Found} {s' : State}
    (there : s.edgeTranslate n e ((s.edgeSlot n e).addr ((s.edgeSlot n e).place (s.edgeSlot n e).cursor 0)) true = (.ok f, s')) :
    s.eraseMove n e =
      if f.tr.vug then
        s'.edgeWrite n e (s.edgeSlot n e).visited 1 1 [⟨(s.edgeSlot n e).addr ((s.edgeSlot n e).place (s.edgeSlot n e).cursor 0), [0], .erase⟩] 0
      else s'.storePass n e 1 (counted 1) := by
  simp only [State.eraseMove, room, fresh, inside, there, Bool.not_true, if_neg Bool.false_ne_true]
  cases f.tr.vug <;> rfl

end

theorem erasesAreSent : ErasesAreSent := by
  refine ⟨?visits, ?reaches⟩
  case visits =>
    intro s n e runs sl kind going room
    rw [exec_eraseElement runs kind going]
    exact ⟨fun performed => congrArg _ (eraseMove_again room performed), fun fresh clipped => congrArg _ (eraseMove_clipped room fresh clipped)⟩
  case reaches =>
    intro s n e f s' runs sl va kind going room inside fresh there
    rw [exec_eraseElement runs kind going, eraseMove_reaches room fresh inside there]
    exact ⟨fun vug => congrArg _ (if_pos vug), fun plain => congrArg _ (if_neg (by rw [plain]; exact Bool.false_ne_true))⟩

/-! ## Retries and the limit of withholding -/

/-- Dropping latched pages changes of a slot its latches (R310). -/
theorem dropLatches_latching (s : State) (n : Nat) (e : Fin 4) (l : List Nat) : Latching s (s.dropLatches n e l) n e :=
  ⟨rfl, _, State.edgeSlot_setEdge _ _ _ _⟩

/-- Issuing writes changes of a slot the accesses that it has out (R169). -/
theorem edgeIssue_slot (s : State) (n : Nat) (e : Fin 4) (k : Nat) (l : List (EdgeWrite × Found)) :
    ∃ out, (s.edgeIssue n e k l).edgeSlot n e = { s.edgeSlot n e with issued := out } := by
  induction l generalizing s with
  | nil => exact ⟨_, rfl⟩
  | cons p rest ih =>
    obtain ⟨out, slot⟩ := ih _
    refine ⟨out, slot.trans ?_⟩
    rw [edgeSlot_eq, State.core_send, ← edgeSlot_eq, State.edgeSlot_setEdge]
    rfl

/-- A run that goes on again is running, and sends nothing (R268). -/
theorem edgeResume_keeps (s : State) (n : Nat) (e : Fin 4) :
    (s.edgeResume n e).net = s.net ∧ ((s.edgeResume n e).edgeSlot n e).failed = (s.edgeSlot n e).failed
      ∧ ((s.edgeSlot n e).retryDue = false → ((s.edgeResume n e).edgeSlot n e).retryDue = false) := by
  unfold State.edgeResume
  dsimp only
  split
  · rw [State.edgeSlot_setEdge]
    exact ⟨rfl, rfl, fun _ => rfl⟩
  · exact ⟨rfl, rfl, id⟩

/-- A store run with an access that failed goes on withholding (R268, R271). -/
theorem edgeResume_failed (kind : (s.edgeSlot n e).loadKind = false) {a : Access} {l : List Access} (failed : (s.edgeSlot n e).failed = a :: l) :
    s.edgeResume n e = s := by
  have held : s.edgeCleared n e = false := by simp [State.edgeCleared, kind, failed]
  simp [State.edgeResume, held]

/-- Where nothing withholds the element at the cursor, a store run makes those accesses again that failed, and notes them (R268). -/
theorem storeRetry_unblocked {failed : List Access} (free : ((s.reissue n e failed).edgeSlot n e).blocked = false) :
    ∃ l, s.storeRetry n e failed = (s.reissue n e failed).setEdge n e { (s.reissue n e failed).edgeSlot n e with blocked := false, retried := l } := by
  refine ⟨((s.reissue n e failed).edgeSlot n e).retried ++ (((s.reissue n e failed).edgeSlot n e).issued.map (·.1)).filter
    fun i => !(s.edgeSlot n e).issued.any fun p => p.1 == i, ?_⟩
  simp only [State.storeRetry, free, Bool.not_false, if_true, Bool.false_and]

/-- An access whose page translates afresh is issued again (R268, R311). -/
theorem reissue_sends {a : Access} {f : Found} {s' : State} (there : s.edgeTranslate n e a.va true = (.ok f, s')) :
    s.reissue n e [a] = s'.edgeIssue n e a.tag [(⟨a.va, a.data, a.op⟩, f)] := by
  simp only [State.reissue, there]

/-- One that fails again, of a run that withholds, stays, and nothing is sent (R170, R311). -/
theorem reissue_fails {a : Access} {c : Nat} {s' : State} (there : s.edgeTranslate n e a.va true = (.error c, s'))
    (held : (s'.edgeSlot n e).state = .withholding) :
    (s.reissue n e [a]).net = s'.net
      ∧ ∃ k, (s.reissue n e [a]).edgeSlot n e = { s'.edgeSlot n e with failed := (s'.edgeSlot n e).failed ++ [a], faultCause := k } := by
  simp only [State.reissue, there]
  split
  · exact ⟨rfl, _, State.edgeSlot_setEdge _ _ _ _⟩
  · obtain ⟨net, k, slot⟩ := edgeWithhold_again (s := s'.setEdge n e { s'.edgeSlot n e with failed := (s'.edgeSlot n e).failed ++ [a] })
      (by rw [State.edgeSlot_setEdge]; exact held) c (addrWord a.va)
    exact ⟨net, k, by rw [slot, State.edgeSlot_setEdge]⟩

/-- The retry of a store run whose accesses failed (R268). -/
theorem exec_edgeRetry_store (held : (s.edgeSlot n e).state = .withholding) (due : (s.edgeSlot n e).retryDue = true)
    (kind : (s.edgeSlot n e).loadKind = false) :
    exec (.edgeRetry n e) s =
      .next ((((s.setEdge n e { s.edgeSlot n e with retryDue := false, failed := [] }).dropLatches n e
        ((s.edgeSlot n e).faultAddr.toNat :: (s.edgeSlot n e).failed.map (·.va))).storeRetry n e (s.edgeSlot n e).failed).edgeResume n e) := by
  show execEdgeRetry n e s = _
  simp only [execEdgeRetry, held, due, kind, if_neg Bool.false_ne_true]
  rfl

theorem withheldAccessesAreRetried : WithheldAccessesAreRetried := by
  intro s n e a sl held due failed kind free s0
  have runs : exec (.edgeRetry n e) s = .next ((s0.storeRetry n e [a]).edgeResume n e) := by
    rw [exec_edgeRetry_store held due kind, show (s.edgeSlot n e).failed = [a] from failed]
    rfl
  obtain ⟨l, slot0⟩ := (dropLatches_latching (s.setEdge n e { sl with retryDue := false, failed := [] }) n e [sl.faultAddr.toNat, a.va]).slot
  rw [State.edgeSlot_setEdge] at slot0
  have translated {x : Except Nat Found} {s' : State} (there : s0.edgeTranslate n e a.va true = (x, s')) :
      ∃ l, s'.edgeSlot n e = { sl with retryDue := false, failed := [], latches := l } := by
    have latched := edgeTranslate_latching s0 n e a.va true
    rw [there] at latched
    obtain ⟨l', slot'⟩ := latched.slot
    exact ⟨l', by rw [slot', slot0]⟩
  refine ⟨fun f s' there => ⟨_, runs, ?sends⟩, fun cause s' there => ⟨_, runs, ?fails⟩⟩
  case sends =>
    obtain ⟨l, slot'⟩ := translated there
    obtain ⟨out, issued⟩ := edgeIssue_slot s' n e a.tag [(⟨a.va, a.data, a.op⟩, f)]
    rw [slot'] at issued
    obtain ⟨again, retry⟩ := storeRetry_unblocked (s := s0) (n := n) (e := e) (failed := [a])
      (by rw [reissue_sends there, issued]; exact free)
    rw [reissue_sends there, issued] at retry
    rw [retry]
    obtain ⟨net, failed', due'⟩ := edgeResume_keeps ((s'.edgeIssue n e a.tag [(⟨a.va, a.data, a.op⟩, f)]).setEdge n e
      { sl with retryDue := false, failed := [], latches := l, issued := out, blocked := false, retried := again }) n e
    rw [State.edgeSlot_setEdge] at failed' due'
    exact ⟨net, failed', due' rfl⟩
  case fails =>
    obtain ⟨l, slot'⟩ := translated there
    obtain ⟨net, k, slot⟩ := reissue_fails there (by rw [slot']; exact held)
    rw [slot'] at slot
    obtain ⟨again, retry⟩ := storeRetry_unblocked (s := s0) (n := n) (e := e) (failed := [a]) (by rw [slot]; exact free)
    rw [slot] at retry
    rw [retry, edgeResume_failed (by rw [State.edgeSlot_setEdge]; exact kind) (by rw [State.edgeSlot_setEdge]; rfl)]
    refine ⟨net, ?_⟩
    rw [← edgeSlot_eq, State.edgeSlot_setEdge]
    exact ⟨rfl, held⟩

/-- The limit is over once 16 ECHOI have passed (R269). -/
theorem exec_withholdLimit {r : Region} {t : Nat} (region : s.regionOfCore n = some r) (since : (s.edgeSlot n e).withheldSince = some t)
    (held : (s.edgeSlot n e).state = .withholding) (unfrozen : r.frozen = false) (stays : r.checkpoint = none) (undrained : r.drain = none)
    (goesOn : r.stopping = false) (late : t + 16 * s.echoi r ≤ s.now) :
    exec (.withholdLimit n e) s =
      .next (((s.setEdge n e { s.edgeSlot n e with withheldSince := none }).record r (.edge n e) 5 e 0 0 (s.edgeSlot n e).faultAddr
        (BitVec.ofNat 64 (s.edgeSlot n e).done)).setRegion { r with checkpoint := some (n, e), checkpointSaved := false, grotto := none }) := by
  show execWithholdLimit n e s = _
  simp only [execWithholdLimit, region, since, held, unfrozen, stays, undrained, goesOn, decide_eq_false (Nat.not_lt.mpr late)]
  rfl

theorem withholdingIsLimited : WithholdingIsLimited :=
  fun _ _ _ _ _ region since held unfrozen stays undrained goesOn late => exec_withholdLimit region since held unfrozen stays undrained goesOn late

/-- Settles O36: a completion token is filled or sent once what has performed is freed; translations and erases run as their words say; a retry
translates afresh, and `reissue_sends` or `reissue_fails` says what becomes of the access; the limit is a comparison of times. -/
theorem edgeRunsCompleteAndRetry : Obligations.EdgeRunsCompleteAndRetry :=
  ⟨completionTokensAreFilled, translationWordsAreDelivered, erasesAreSent, withheldAccessesAreRetried, withholdingIsLimited⟩

end Sys2Proof.Claims
end

section
/-! PROOFS. Mailbox commands for regions and attestation (10 R272, R280; 18 R337, R338, R359). -/

namespace Sys2Proof.Claims

open Sys2Proof.Machine

variable {s : State}

/-! ## The response (R337) -/

theorem lowByte_cleared (w : Word) : (w &&& ~~~(0xFF : Word)).toNat % 2 ^ 8 = 0 := by
  have cleared : (w &&& ~~~(0xFF : Word)).setWidth 8 = 0#8 := by
    ext i hi
    simp
  rw [← BitVec.toNat_setWidth, cleared]
  rfl

/-- A response whose status fits its field answers that status. -/
theorem respond_answered (s : State) {status : Nat} (small : status < 256) : Answered (s.respond status) status := by
  refine ⟨rfl, ?_⟩
  have low : (s.respond status).pkg.mailbox.response[0] = (Config.freeWord (s.frees + 0) &&& ~~~(0xFF : Word)) ||| BitVec.ofNat 64 (at_ status 0 8) := by
    simp [State.respond]
  show _ % 2 ^ 8 = _
  rw [low, BitVec.toNat_or, Nat.or_mod_two_pow, lowByte_cleared]
  simp [at_]
  omega

theorem respond_mem (s : State) (status : Nat) : (s.respond status).mem = s.mem := rfl

/-- A mailbox command that starts leaves what its body does (R337, R338). -/
theorem MailboxStarts.mailboxCommand {code : Nat} (h : MailboxStarts s code) {names : Nat → Bool} (named : names code = true) (body : State → State) :
    s.mailboxCommand names body = .next (body s) := by
  have m0 : bv s.pkg.mailbox.m[0] 0 8 = code := by simpa [bv, bitsOf] using h.names
  simp [State.mailboxCommand, State.hostReaches, h.trained, h.free, m0, named]

/-! ## Stopping a region (R272) -/

/-- A sequencer stops at a block boundary: its block in issue is discarded. -/
def stopSeq (s : State) (q : Nat) : State := s.setSeq q { s.seq q with blk := none, frozen := true }

/-- A sequencer stands at a block boundary and issues no block. -/
def SeqStopped (s : State) (q : Nat) : Prop := (s.seq q).frozen = true ∧ (s.seq q).blk = none

theorem stopRegion_eq (s : State) (r : Region) : s.stopRegion r = r.seqs.foldl stopSeq (s.setRegion { r with stopping := true }) := rfl

theorem stopSeq_stops (s : State) (q : Nat) : SeqStopped (stopSeq s q) q := by simp [SeqStopped, stopSeq]

theorem stopSeq_other (s : State) {p q : Nat} (h : q ≠ p) : (stopSeq s p).seq q = s.seq q := State.seq_setSeq_other _ _ h

theorem foldl_stopSeq_stops (l : List Nat) {q : Nat} (there : q ∈ l ∨ SeqStopped s q) : SeqStopped (l.foldl stopSeq s) q := by
  induction l generalizing s with
  | nil => simpa using there
  | cons p l ih =>
    refine ih ?_
    by_cases h : q = p
    · exact .inr (h ▸ stopSeq_stops s q)
    · simpa [SeqStopped, stopSeq_other s h, h] using there

theorem stopRegion_stops (s : State) (r : Region) {q : Nat} (ofRegion : q ∈ r.seqs) : SeqStopped (s.stopRegion r) q :=
  foldl_stopSeq_stops r.seqs (.inl ofRegion)

/-- What every step of a fold keeps, the fold keeps. -/
theorem foldl_keeps {α β : Type} {f : State → α → State} (view : State → β) (keeps : ∀ s x, view (f s x) = view s) (l : List α) (s : State) :
    view (l.foldl f s) = view s := by
  induction l generalizing s with
  | nil => rfl
  | cons x l ih => rw [List.foldl_cons, ih, keeps]

theorem stopRegion_regions (s : State) (r : Region) : (s.stopRegion r).regions = (s.setRegion { r with stopping := true }).regions :=
  foldl_keeps (f := stopSeq) State.regions (fun _ _ => rfl) r.seqs _

/-! ## The commands (R338, R359) -/

theorem exec_preempt {r : Region} (starts : MailboxStarts s 6) (accepted : s.feature 4 = true) (one : s.regions = [r]) (live : r.live = true)
    (queue : r.queue = s.marg 1) (seqno : r.seqno = s.marg 2) (goesOn : r.stopping = false) (written : r.restoring = false)
    (sound : (s.seq r.owner).doubleTrapped = false) (fits : grottoFits (s.marg 3) (grottoSize r.w r.h r.nseq) = true) :
    exec .preempt s =
      .next (let t := s.stopRegion { r with grotto := some (s.marg 3) }
        { t with pkg := { t.pkg with mailbox := { t.pkg.mailbox with running := some (.preempt r.id) } } }) := by
  show s.mailboxCommand (· == 6) State.preempt = _
  rw [starts.mailboxCommand rfl]
  simp [State.preempt, featPreempt, accepted, one, live, queue, seqno, goesOn, written, sound, fits]

theorem exec_restore (starts : MailboxStarts s 7) (accepted : s.feature 4 = true) (ok : s.grottoOk (s.marg 1) = true) (queue : s.marg 2 < 2048)
    (isOpen : (s.queue (s.marg 2)).state ≠ .closed) :
    exec .restore s =
      .next ({ s.fresh.2 with pkg := { s.pkg with line := s.pkg.line ++ [LineEntry.restore (s.marg 1) (s.marg 2) s.nextId] } }.respond mbDONE) := by
  show s.mailboxCommand (· == 7) State.restore = _
  rw [starts.mailboxCommand rfl]
  simp [State.restore, featPreempt, accepted, ok, Nat.not_le.mpr queue, isOpen]

theorem exec_quote (starts : MailboxStarts s 8) (accepted : s.feature 6 = true) (fits : grottoFits (s.marg 5) 306 = true)
    (whole : s.mergeBad (s.marg 5) 306 = false) :
    exec .quote s = .next ((s.putFloor (s.marg 5) (s.quoteBody ++ (Config.quoteSignature s.quoteBody).toList)).respond mbDONE) := by
  show s.mailboxCommand (· == 8) State.quote = _
  rw [starts.mailboxCommand rfl]
  simp [State.quote, featAttest, accepted, fits, whole]

/-- Settles O47: each command that may start does what its body does; PREEMPT stops the one region of its packet, RESTORE and QUOTE answer DONE. -/
theorem mailboxRegionsAndQuotes : Obligations.MailboxRegionsAndQuotes := by
  intro s
  refine ⟨fun r starts accepted one live queue seqno goesOn written sound fits => ?preempt,
    fun starts accepted ok queue isOpen => ?restore, fun starts accepted fits whole => ?quote⟩
  case preempt =>
    refine ⟨_, exec_preempt starts accepted one live queue seqno goesOn written sound fits, ?_, rfl, fun q ofRegion => ?_⟩
    · show (s.stopRegion { r with grotto := some (s.marg 3) }).regions = _
      rw [stopRegion_regions]
      simp [State.setRegion, one]
    · exact stopRegion_stops s { r with grotto := some (s.marg 3) } ofRegion
  case restore => exact ⟨_, exec_restore starts accepted ok queue isOpen, respond_answered _ (by decide), rfl⟩
  case quote =>
    refine ⟨_, exec_quote starts accepted fits whole, respond_answered _ (by decide), ?_⟩
    rw [respond_mem, State.putFloor]

end Sys2Proof.Claims
end

section
/-! PROOFS. The freeze of a region that is pre-empted (10 R272, R273; 18 R343): what the module keeps of its sequencers. -/

namespace Sys2Proof.Claims

open Sys2Proof.Machine

variable {s : State}

/-! ## What saving a region leaves of the list of regions -/

@[simp] theorem putFloor_regions (s : State) (pa : Nat) (l : List Byte) : (s.putFloor pa l).regions = s.regions := by
  rw [State.putFloor, State.repairFloor_regions, State.writeBytes_frame]

@[simp] theorem putFloor_withheld (s : State) (pa : Nat) (l : List Byte) : (s.putFloor pa l).withheld = s.withheld := by
  rw [State.putFloor, State.repairFloor_withheld, State.writeBytes_frame]

/-- Saving a region writes the floor: what no write of the floor changes, it leaves. -/
theorem saveRegion_keeps {β : Type} (view : State → β) (keeps : ∀ t pa l, view (t.putFloor pa l) = view t) (s : State) (r : Region)
    (pa reason : Nat) : view (s.saveRegion r pa reason) = view s := by
  rw [State.saveRegion, foldl_keeps view (fun t n => keeps t _ _), foldl_keeps view (fun t k => keeps t _ _), keeps]

theorem saveRegion_regions (s : State) (r : Region) (pa reason : Nat) : (s.saveRegion r pa reason).regions = s.regions :=
  saveRegion_keeps State.regions putFloor_regions s r pa reason

theorem saveRegion_withheld (s : State) (r : Region) (pa reason : Nat) : (s.saveRegion r pa reason).withheld = s.withheld :=
  saveRegion_keeps State.withheld putFloor_withheld s r pa reason

/-! ## What releasing a region leaves of it -/

theorem onCores_regions (s : State) (f : Core → Core) (l : List Nat) : (s.onCores f l).regions = s.regions := by
  induction l generalizing s with
  | nil => rfl
  | cons n l ih => rw [State.onCores, ih, State.setCore_regions]

theorem cancelWithheld_regions (none_ : s.withheld = []) (r : Region) : (s.cancelWithheld r).regions = s.regions := by
  have pools : s.poolsWanted = [] := by rw [State.poolsWanted, none_]; rfl
  rw [State.cancelWithheld, pools]
  rfl

theorem setSeqs_regions (f : State → Nat → Seq) (l : List Nat) (s : State) : (l.foldl (fun s q => s.setSeq q (f s q)) s).regions = s.regions :=
  foldl_keeps (f := fun s q => s.setSeq q (f s q)) State.regions (fun _ _ => rfl) l s

theorem dropTraffic_regions (s : State) (r : Region) : (s.dropTraffic r).regions = s.regions := by
  rw [State.dropTraffic, setSeqs_regions]

theorem clearRegion_regions (none_ : s.withheld = []) (r : Region) : (s.clearRegion r).regions = s.regions := by
  rw [State.clearRegion, setSeqs_regions, onCores_regions, dropTraffic_regions, cancelWithheld_regions none_]

theorem endMailbox_regions (s : State) (r : Region) : (s.endMailbox r).regions = s.regions := by
  unfold State.endMailbox
  split
  · split <;> rfl
  · split <;> rfl
  · rfl

/-- A region that is saved stands in the list as it is given, with status 9 (R343). -/
theorem releaseRegion_saved (none_ : s.withheld = []) (r : Region) :
    (s.releaseRegion r 9).regions =
      s.regions.map fun x => if x.id = r.id then { r with ended := some 9, stopping := false, freezing := false, frozen := false } else x := by
  rw [State.releaseRegion, if_pos rfl, endMailbox_regions]
  exact congrArg (List.map _) (clearRegion_regions none_ r)

/-- Where one region stands, a release shows what it is released with: two that leave the same state are of regions that keep the same. -/
theorem kept_of_releaseRegion_eq (none_ : s.withheld = []) {r a b : Region} (one : s.regions = [r]) (ida : r.id = a.id) (idb : r.id = b.id)
    (same : s.releaseRegion a 9 = s.releaseRegion b 9) : a.kept = b.kept := by
  have regions := congrArg State.regions same
  rw [releaseRegion_saved none_, releaseRegion_saved none_, one, List.map_singleton, List.map_singleton, if_pos ida, if_pos idb] at regions
  have leave := congrArg Region.kept (List.singleton_inj.mp regions)
  exact leave

/-- The last step of a freeze of a region that is pre-empted saves it, keeps what its sequencers' records do not hold, and releases it (R272, R273). -/
theorem exec_regionFreeze_saves {r : Region} {pa : Nat} (there : s.region? r.id = some r) (stops : r.stopping = true) (freezes : r.freezing = true)
    (parked : r.cores.all s.coreParked = true) (done : s.accessesDone r = true) (preempted : s.freezeStatus r = 9) (grotto : r.grotto = some pa) :
    exec (.regionFreeze r.id) s =
      .next (let t := r.seqs.foldl State.absorbRecords (s.regionErrors r)
        ((t.saveRegion r pa 1).noteSaved r).releaseRegion
          { r with checkpoint := none, checkpointSaved := false, kept := r.seqs.map fun q => (t.seq q).keep } 9) := by
  show execRegionFreeze r.id s = _
  simp [execRegionFreeze, there, stops, freezes, parked, done, State.finishFreeze, preempted, State.saveAndRelease, grotto]

/-! ## A region that leaves with what is kept of its sequencer -/

/-- A region of one core that a pre-emption has frozen, with its grotto at 0x100000. -/
def frozenRegion : Region :=
  { newRegion 0 0 0 0 1 1 0 0 0 1 with stopping := true, freezing := true, grotto := some 0x100000 }

/-- The region in a module with its context, where nothing moves. -/
def frozenState : State :=
  { State.reset with regions := [frozenRegion], pkg := { State.reset.pkg with ctxs := [⟨0, 0, 0, none⟩] } }

theorem frozenState_parked : ∀ n ∈ frozenRegion.cores, frozenState.coreParked n = true := by decide

/-- The state that is saved. -/
def frozenRead : State := frozenRegion.seqs.foldl State.absorbRecords (frozenState.regionErrors frozenRegion)

/-- The saved state that the region leaves. -/
def frozenSaved : State := (frozenRead.saveRegion frozenRegion 0x100000 1).noteSaved frozenRegion

theorem noteSaved_regions (s : State) (r : Region) : (s.noteSaved r).regions = s.regions := rfl
theorem noteSaved_withheld (s : State) (r : Region) : (s.noteSaved r).withheld = s.withheld := rfl

theorem frozenSaved_regions : frozenSaved.regions = [frozenRegion] := by
  rw [frozenSaved, noteSaved_regions, saveRegion_regions]
  rfl

theorem frozenSaved_withheld : frozenSaved.withheld = [] := by
  rw [frozenSaved, noteSaved_withheld, saveRegion_withheld]
  rfl

/-- The region as the model releases it: with an entry for its sequencer. -/
def frozenKept : Region :=
  { frozenRegion with checkpoint := none, checkpointSaved := false, kept := frozenRegion.seqs.map fun q => (frozenRead.seq q).keep }

/-- The region as the statement has it released: with the empty list that it had. -/
def frozenLeft : Region := { frozenRegion with checkpoint := none, checkpointSaved := false }

/-- Refutes O43: its clause for a pre-empted region lets the region leave with the `kept` that it had, but the module keeps an entry for each
sequencer (log 118): the region of `frozenState`, which has one sequencer and nothing kept, leaves with one entry. -/
theorem not_regionsEndFreezeAndReturn : ¬ Obligations.RegionsEndFreezeAndReturn := by
  intro h
  obtain ⟨-, -, -, -, -, saves, -, -⟩ := h frozenState frozenRegion rfl
  have claimed : exec (.regionFreeze 0) frozenState = .next (frozenSaved.releaseRegion frozenLeft 9) :=
    saves 0x100000 rfl rfl frozenState_parked rfl rfl rfl
  have runs : exec (.regionFreeze 0) frozenState = .next (frozenSaved.releaseRegion frozenKept 9) :=
    exec_regionFreeze_saves (r := frozenRegion) rfl rfl rfl (List.all_eq_true.mpr frozenState_parked) rfl rfl rfl
  have same : frozenSaved.releaseRegion frozenKept 9 = frozenSaved.releaseRegion frozenLeft 9 := Host.Outcome.next.inj (runs.symm.trans claimed)
  have kept : (frozenRegion.seqs.map fun q => (frozenRead.seq q).keep) = frozenRegion.kept :=
    kept_of_releaseRegion_eq frozenSaved_withheld frozenSaved_regions (a := frozenKept) (b := frozenLeft) rfl rfl same
  exact absurd (congrArg List.length kept) (by decide)

end Sys2Proof.Claims
end

section
/-! PROOFS. What stands after reset (10 R262, R284; 18 R336, R337, R340, R344, R347, R353; 20 R396). -/

namespace Sys2Proof.Claims

open Sys2Proof.Machine

/-! ## Units that nothing has written -/

@[simp] theorem core_reset (n : Nat) : State.reset.core n = Core.init := rfl
@[simp] theorem seq_reset (q : Nat) : State.reset.seq q = Seq.init := rfl
@[simp] theorem queue_reset (n : Nat) : State.reset.queue n = Queue.init := rfl
@[simp] theorem hostWin_reset (c : Nat) : State.reset.hostWin c = CompWin.init := rfl

/-! ## The tables of a core and a sequencer as an admission leaves them (R396) -/

@[simp] theorem desc_init (w : Win) : Core.init.desc w = 0 := by simp [Core.desc, Core.init]
@[simp] theorem active_init (k : Fin 8) : Core.init.active[k] = Vector.replicate 12 0 := by simp [Core.init]
@[simp] theorem shadow_init (k : Fin 8) : Core.init.shadow[k] = Vector.replicate 12 0 := by simp [Core.init]
@[simp] theorem kActive_init (k : Fin 8) : Core.init.kActive[k] = 0 := by simp [Core.init]
@[simp] theorem kShadow_init (k : Fin 8) : Core.init.kShadow[k] = 0 := by simp [Core.init]
@[simp] theorem edge_init (e : Fin 4) : Core.init.edge[e] = EdgeSlot.init := by simp [Core.init]
@[simp] theorem mdesc_init (m : Fin 8) : Seq.init.mdesc[m] = 0 := by simp [Seq.init]

/-- A handler record of zeros is no handler (R51). -/
theorem h0Valid_zero : h0Valid (Vector.replicate 12 0) = false := by decide

/-- Settles O55: no unit has been written, so that each reads as its initial value; the package's fields stand in `State.reset`. -/
theorem resetLeaves : Obligations.ResetLeaves := by
  refine ⟨rfl, rfl, rfl, rfl, rfl, rfl, rfl, rfl, fun n => ?queue, fun c => ?hostWin, fun n => ?core, fun q => ?seq⟩
  case queue => rw [queue_reset]; rfl
  case hostWin => rw [hostWin_reset]; exact ⟨rfl, rfl⟩
  case core =>
    rw [core_reset]
    refine ⟨rfl, rfl, rfl, rfl, rfl, rfl, rfl, rfl, rfl, rfl, rfl, rfl, fun a => rfl, fun w => ?unbound, fun k => ?handlers, fun e => ?slots⟩
    case unbound => rw [desc_init]; rfl
    case handlers =>
      rw [active_init, shadow_init, kActive_init, kShadow_init]
      exact ⟨h0Valid_zero, h0Valid_zero, rfl, rfl⟩
    case slots => rw [edge_init]; rfl
  case seq =>
    rw [seq_reset]
    exact ⟨rfl, rfl, rfl, rfl, rfl, rfl, rfl, rfl, rfl, mdesc_init⟩

end Sys2Proof.Claims
end

section
/-! PROOFS. A store that a slice controller applies changes its bytes and no other (14 R303). -/

namespace Sys2Proof.Machine

section
variable {s t : State} {pa : Nat} {data : List Byte} (stored : s.storeFloor pa data = some t)
include stored

/-- A store that performs writes its bytes where errors have been repaired and corrected. -/
theorem State.storeFloor_eq : t = ((s.repairFloor pa data.length).correctFloor pa data.length).writeBytes pa data := by
  revert stored
  fun_cases State.storeFloor
  · rintro ⟨⟩
  · rintro ⟨rfl⟩
    rfl

theorem State.readByte_storeFloor {k : Nat} {b : Byte} (there : data[k]? = some b) : t.readByte (pa + k) = b := by
  obtain ⟨short, rfl⟩ := List.getElem?_eq_some_iff.mp there
  rw [State.storeFloor_eq stored, State.readByte_writeBytes _ _ _ _ short]

theorem State.readByte_storeFloor_other {x : Nat} (outside : x < pa ∨ pa + data.length ≤ x) : t.readByte x = s.readByte x := by
  rw [State.storeFloor_eq stored, State.readByte_writeBytes_other _ _ _ outside, (State.correctFloor_reads _ _ _).readByte]
  rfl

theorem State.storeFloor_cores : t.cores = s.cores := by
  rw [State.storeFloor_eq stored, State.writeBytes_frame]
  exact (State.correctFloor_reads _ _ _).cores

theorem State.storeFloor_regions : t.regions = s.regions := by
  rw [State.storeFloor_eq stored, State.writeBytes_frame]
  exact (State.correctFloor_reads _ _ _).regions

theorem State.storeFloor_seq (q : Nat) : t.seq q = s.seq q := by
  rw [State.storeFloor_eq stored, State.writeBytes_frame]
  exact (State.correctFloor_reads _ _ _).seq q

end

/-- The state that a sequencer's store leaves at its slice: the bytes are stored, a store to TAIL of a descriptor is noted, and the sequencer no
  longer
waits for its item. -/
def State.afterStore (s : State) (a : Access) (pa q : Nat) : State :=
  (s.tailStored pa a.data.length).setSeq q ((s.seq q).dropItem a.id)

theorem exec_sliceApply_store {s t : State} {i pa q : Nat} {a : Access} (next : s.nextAtSlice i = some a) (place : a.place = .floor pa)
    (store : a.op = .store) (source : a.source = .seq q)
    (stored : State.storeFloor { s with atSlice := dropNth s.atSlice i } pa a.data = some t) :
    exec (.sliceApply i) s = .next (t.afterStore a pa q) := by
  change execSliceApply i s = _
  simp [execSliceApply, next, place, State.performAt, store, stored, Performed.settle, State.accessDone, source, AccessOp.replies]
  rfl

end Sys2Proof.Machine

namespace Sys2Proof.Claims

open Sys2Proof.Machine

/-- Settles O59: the store's bytes are written as a whole, and answering it touches only the sequencer that made it. -/
theorem storesChangeTheirBytesOnly : Obligations.StoresChangeTheirBytesOnly := by
  intro s i a pa q t next place store source stored
  refine ⟨t.afterStore a pa q, exec_sliceApply_store next place store source stored, fun k b there => ?_, fun x outside => ?_, ?_, ?_, fun p other
    => ?_⟩
  · exact State.readByte_storeFloor stored there
  · exact State.readByte_storeFloor_other stored outside
  · exact (State.storeFloor_cores stored :)
  · exact (State.storeFloor_regions stored :)
  · exact (State.seq_setSeq_other _ _ other).trans (State.storeFloor_seq stored p)

end Sys2Proof.Claims
end

section
/-! PROOFS. What leaves the floor as it was (14 R303): every operation of the model but those that store bytes. -/

namespace Sys2Proof.Machine

variable {s : State} {n k q va ctx pa die cluster status : Nat} {e : Fin 4} {c : Cmd} {r : Region} {x : WordCtx} {who : Option Reader}

/-- A fold of operations that leave the floor as it was does so too. -/
@[simp] theorem foldl_mem {α : Type} {f : State → α → State} {l : List α} (h : ∀ s a, (f s a).mem = s.mem) : (l.foldl f s).mem = s.mem :=
  List.foldlRecOn (motive := fun t => t.mem = s.mem) l f rfl fun t ht a _ => (h t a).trans ht

/-! ## Records, faults and time -/

@[simp] theorem State.onCores_mem {f : Core → Core} {l : List Nat} : (s.onCores f l).mem = s.mem := by
  fun_induction State.onCores <;> simp +zetaDelta [*]
@[simp] theorem State.correctFloor_mem {n : Nat} : (s.correctFloor pa n).mem = s.mem := (s.correctFloor_reads pa n).mem
@[simp] theorem State.record_mem {src : UnitId} {cause slot stage win : Nat} {detail extra : Word} :
    (s.record r src cause slot stage win detail extra).mem = s.mem :=
  rfl
@[simp] theorem State.recordOfCore_mem {src : UnitId} {cause slot stage win : Nat} {detail extra : Word} :
    (s.recordOfCore n src cause slot stage win detail extra).mem = s.mem := by
  fun_cases State.recordOfCore <;> rfl
@[simp] theorem State.packageEvent_mem {cause : Nat} {detail extra : Word} : (s.packageEvent die cause detail extra).mem = s.mem := rfl
@[simp] theorem State.packageEventFree_mem {cause : Nat} : (s.packageEventFree die cause).mem = s.mem := rfl
@[simp] theorem State.packageEventWhole_mem {cause : Nat} {detail : Option Word} : (s.packageEventWhole cause detail).mem = s.mem := rfl
@[simp] theorem State.reportDouble_mem {epc : Word} {cause idx code : Nat} : (s.reportDouble q epc cause idx code).mem = s.mem := by
  fun_cases State.reportDouble <;> rfl
@[simp] theorem State.takeTrap_mem {epc : Word} {cause idx code : Nat} {addr : Word} : (s.takeTrap q epc cause idx code addr).mem = s.mem := by
  fun_cases State.takeTrap <;> simp
@[simp] theorem State.trapWord_mem {cause : Nat} {addr : Word} : (s.trapWord q cause addr).mem = s.mem := by simp [State.trapWord]
@[simp] theorem State.coreFault_mem {cause slot stage win addr : Nat} {detail extra : Word} :
    (s.coreFault n cause slot stage win addr detail extra).mem = s.mem := by
  simp [State.coreFault]
@[simp] theorem State.storeFault_mem {slot stage : Nat} {hit : Nat × Win} : (s.storeFault n slot stage hit).mem = s.mem := by simp [State.storeFault]

/-! ## Translations and the reads of the floor -/

@[simp] theorem State.walk_mem {root : Nat} {domains : BitVec 256} {es : List Nat} : (s.walk root domains va es).2.mem = s.mem :=
  (s.walk_reads root domains va es).mem
@[simp] theorem State.dropReaders_mem {gone : Reader → Bool} : (s.dropReaders gone).mem = s.mem := rfl
@[simp] theorem State.translateTlb_mem {waits : Bool} : (s.translateTlb cluster ctx va waits who).2.mem = s.mem :=
  (s.translateTlb_reads cluster ctx va waits who).mem
@[simp] theorem State.translate_mem {waits : Bool} : (s.translate cluster ctx va waits who).2.mem = s.mem :=
  (s.translate_reads cluster ctx va waits who).mem

/-! ## Accesses and packets -/

@[simp] theorem State.loadFloor_mem : (s.loadFloor pa n).2.mem = s.mem := (s.loadFloor_reads pa n).mem
@[simp] theorem State.tailStored_mem : (s.tailStored pa n).mem = s.mem := rfl
@[simp] theorem State.pool_mem {record : Nat} : (s.pool record).2.mem = s.mem := (s.pool_reads record).mem
@[simp] theorem State.tileExists_mem {record t : Nat} : (s.tileExists record t).2.mem = s.mem := (s.tileExists_reads record t).mem
@[simp] theorem State.tileFrame_mem {record t : Nat} : (s.tileFrame record t).2.mem = s.mem := by simp [State.tileFrame]
@[simp] theorem State.loadAt_mem {p : Place} : (s.loadAt p va n).2.mem = s.mem := (s.loadAt_reads p va n).mem
@[simp] theorem State.sendLoads_mem {src : UnitId} {l : List ((Nat × Nat) × Found)} : (s.sendLoads src l).2.mem = s.mem := by
  fun_induction State.sendLoads <;> grind [State.fresh_mem, State.send_mem]
@[simp] theorem State.edgeWithhold_mem {cause : Nat} {va : Word} : (s.edgeWithhold n e cause va).mem = s.mem := by
  fun_cases State.edgeWithhold <;> simp
@[simp] theorem State.edgeResume_mem : (s.edgeResume n e).mem = s.mem := by fun_cases State.edgeResume <;> rfl
@[simp] theorem State.accessDone_mem {a : Access} {old : Nat} : (s.accessDone a old).mem = s.mem := by fun_cases State.accessDone <;> simp +zetaDelta
@[simp] theorem State.loadDone_mem {a : Access} {g : LoadReply} : (s.loadDone a g).mem = s.mem := by
  fun_cases State.loadDone <;> grind [State.setSeq_mem, State.edgeResume_mem, State.setEdge_mem, State.edgeWithhold_mem]
@[simp] theorem State.accessFailed_mem {a : Access} : (s.accessFailed a).mem = s.mem := by fun_cases State.accessFailed <;> simp +zetaDelta
@[simp] theorem State.reportWithheld_mem {a : Access} : (s.reportWithheld a).mem = s.mem := by fun_cases State.reportWithheld <;> simp
@[simp] theorem State.answerLoad_mem {a : Access} {g : LoadReply} : (s.answerLoad a g).mem = s.mem := rfl
@[simp] theorem State.tear_mem {index : Nat} {highFirst : Bool} : (s.tear index highFirst).mem = s.mem := by fun_cases State.tear <;> rfl
@[simp] theorem State.swapAccesses_mem {index : Nat} : (s.swapAccesses index).mem = s.mem := by fun_cases State.swapAccesses <;> rfl
@[simp] theorem State.receive_mem {p : Packet} : (s.receive p).mem = s.mem := by fun_cases State.receive <;> simp

/-! ## Stages and lanterns -/

@[simp] theorem State.holdStage_mem {fr : Firing} {h : Hold} : (s.holdStage n k fr h).mem = s.mem := rfl
@[simp] theorem State.thenComplete_mem {stage : Nat} : (s.thenComplete n stage).mem = s.mem := by fun_cases State.thenComplete <;> rfl
@[simp] theorem State.finishStage_mem {fr : Firing} {f : StageFields} {h : HandlerRec} {o : StageOut} {dests : List Dest} {cwarn : Lane} :
    (s.finishStage n k fr f h o dests cwarn).mem = s.mem := by
  fun_cases State.finishStage <;> grind [State.holdStage_mem, State.thenComplete_mem, State.setCore_mem, State.coreFault_mem, State.storeFault_mem]
@[simp] theorem State.stageStep_mem {fr : Firing} {op : Nat} {f : StageFields} {body : StageCtx → Operands → StageRes} :
    (s.stageStep n k fr op f body).mem = s.mem := by
  fun_cases State.stageStep <;> simp
@[simp] theorem State.takeLantern_mem : (s.takeLantern n).mem = s.mem := by fun_cases State.takeLantern <;> rfl
@[simp] theorem State.returnLantern_mem : (s.returnLantern n).mem = s.mem := rfl
@[simp] theorem State.returnLanterns_mem {dt : Nat} : (s.returnLanterns dt).mem = s.mem := by fun_cases State.returnLanterns <;> rfl

/-! ## Moves and words -/

@[simp] theorem State.pass_mem {dt : Nat} : (s.pass dt).mem = s.mem := by simp [State.pass]
@[simp] theorem State.toRounds_mem : (s.toRounds).mem = s.mem := by simp [State.toRounds]
@[simp] theorem State.moveAfter_mem {dt : Nat} {c : Cue} {rest : List (Nat × Cue)} : (s.moveAfter dt c rest).2.mem = s.mem := by
  fun_cases State.moveAfter <;> simp +zetaDelta
@[simp] theorem State.nextCue_mem : (s.nextCue).2.mem = s.mem := by fun_cases State.nextCue <;> simp
@[simp] theorem State.beforeWord_mem {b : Block} {w : Code} : (s.beforeWord q b w).mem = s.mem := by fun_cases State.beforeWord <;> rfl
@[simp] theorem State.floorError_mem {d : Nat} {uncorrectable : Bool} : (s.floorError d uncorrectable).mem = s.mem := by
  fun_cases State.floorError <;> rfl
@[simp] theorem State.sense_mem {t : BitVec 16} : (s.sense t).mem = s.mem := by fun_cases State.sense <;> rfl

/-! ## Commands, and what they read -/

@[simp] theorem State.finishCmd_mem {vals : List Word} : (s.finishCmd k vals).mem = s.mem := by fun_cases State.finishCmd <;> rfl
@[simp] theorem State.beginCmd_mem : (s.beginCmd k c).mem = s.mem := rfl
@[simp] theorem State.finishId_mem {id : Nat} {vals : List Word} : (s.finishId id vals).mem = s.mem := by fun_cases State.finishId <;> simp
@[simp] theorem State.bytesNow_mem {l : List Byte} : (s.bytesNow who ctx va l).2.mem = s.mem := by fun_cases State.bytesNow <;> rfl
@[simp] theorem State.readPieces_mem {fuel : Nat} : (s.readPieces cluster ctx who fuel va n).2.mem = s.mem :=
  (s.readPieces_reads cluster ctx who fuel va n).mem
@[simp] theorem State.readFor_mem : (s.readFor cluster ctx va n who).2.mem = s.mem := by simp [State.readFor]
@[simp] theorem State.readForCmd_mem : (s.readForCmd cluster ctx c va n).2.mem = s.mem := (s.readForCmd_reads cluster ctx c va n).mem

/-! ## Registers and windows -/

@[simp] theorem State.writeDie_mem {off : Nat} : (s.writeDie die off).mem = s.mem := by fun_cases State.writeDie <;> rfl
@[simp] theorem State.applyWindow_mem {isWfl : Bool} {f : Core → Cmd → CoreRes} : (s.applyWindow isWfl f k c).mem = s.mem := by
  fun_cases State.applyWindow <;> simp
@[simp] theorem windowIssue_mem {i : Instr} {d a b : Reg} {useB mbz : Bool} {warnB : Word → Word} :
    (windowIssue i d a b useB mbz warnB s x).2.mem = s.mem := by
  fun_cases windowIssue <;> rfl
@[simp] theorem State.applyRegister_mem : (s.applyRegister k c).mem = s.mem := by fun_cases State.applyRegister <;> simp
@[simp] theorem State.registerEvent_mem {unit : UnitId} {seq : Nat} {p : Nat → Bool} : (s.registerEvent unit seq p).mem = s.mem := by
  fun_cases State.registerEvent <;> simp

/-! ## Memory words -/

@[simp] theorem State.reach_mem {write : Bool} : (s.reach x va write).2.mem = s.mem := by
  fun_cases State.reach <;> grind [State.translate_mem]
@[simp] theorem loadControl_mem {d : Reg} {warn : Word} : (loadControl s x va d warn).2.mem = s.mem := by fun_cases loadControl <;> rfl
@[simp] theorem State.issueLoad_mem {idx : Nat} {found : Found} : (s.issueLoad x idx va n found).2.mem = s.mem := rfl
@[simp] theorem loadMemory_mem {f : Block → Nat → Bool → Block} {warn : Word} : (loadMemory s x va n f warn).2.mem = s.mem := by
  fun_cases loadMemory <;> grind [State.issueLoad_mem, State.reach_mem]
@[simp] theorem State.loadAhead_mem : (s.loadAhead q k).mem = s.mem := by
  fun_cases State.loadAhead <;> grind [State.setSeq_mem, State.issueLoad_mem, State.reach_mem]
@[simp] theorem State.readEarly_mem : (s.readEarly q va n).mem = s.mem := by
  fun_cases State.readEarly <;> grind [State.setSeq_mem, State.translate_mem, State.loadAt_mem]
@[simp] theorem State.recall_mem : (s.recall q).mem = s.mem := by
  fun_cases State.recall <;> grind [State.setSeq_mem, State.fresh_mem, State.reach_mem]
@[simp] theorem queueAccess_mem {op : AccessOp} {place : Place} {size : Nat} {data : List Byte} {aq rl : Bool} {code : Code} {regs : List Reg} {warn
    : Word} : (queueAccess s x op va place size data aq rl code regs warn).2.mem = s.mem :=
  rfl
@[simp] theorem storeControl_mem {i : Instr} {v warn : Word} : (storeControl s x va i v warn).2.mem = s.mem := by fun_cases storeControl <;> rfl
@[simp] theorem stIssue_mem {d a : Reg} {w : BitVec 2} {u : BitVec 1} {off : BitVec 10} {g : Pred} : (stIssue d a w u off g s x).2.mem = s.mem := by
  fun_cases stIssue <;> grind [storeControl_mem, State.reach_mem, queueAccess_mem]

/-! ## Tasks -/

@[simp] theorem State.issueAhead_mem : (s.issueAhead q k).mem = s.mem := by fun_cases State.issueAhead <;> simp
@[simp] theorem State.counter_mem {t : Word} : (s.counter r q t).2.mem = s.mem := by fun_cases State.counter <;> simp
theorem State.takeRecord_mem {holder thief id : Nat} {m : BitVec 3} : ∀ p ∈ s.takeRecord holder thief id m, p.2.mem = s.mem := by
  fun_cases State.takeRecord <;> grind [State.counter_mem, State.setSeq_mem]

/-! ## Runs of the edge slots -/

@[simp] theorem State.edgeTranslate_mem {va : Int} {write : Bool} : (s.edgeTranslate n e va write).2.mem = s.mem := by
  fun_cases State.edgeTranslate <;> grind [State.setEdge_mem, State.translateTlb_mem]
@[simp] theorem State.edgePlaces_mem {write : Bool} {l : List Int} : (s.edgePlaces n e write l).2.mem = s.mem := by
  fun_induction State.edgePlaces <;> grind [State.edgeTranslate_mem]
@[simp] theorem State.edgeFetch_mem {l : List (Int × Nat)} : (s.edgeFetch n e l).2.mem = s.mem := by
  fun_cases State.edgeFetch <;> grind [State.edgePlaces_mem, State.sendLoads_mem]
@[simp] theorem State.edgeFault_mem {cause : Nat} {va : Int} : (s.edgeFault n e cause va).mem = s.mem := by
  fun_cases State.edgeFault <;> simp +zetaDelta
/-- A move that reads store words leaves the floor as it was, where what it goes on with does. -/
theorem State.edgeRead_mem {reads : List (Nat × Win)} {f : State → State} (h : ∀ s, (f s).mem = s.mem) : (s.edgeRead n reads f).mem = s.mem := by
  fun_cases State.edgeRead <;> simp [h]
@[simp] theorem State.planesFor_choose_mem {g : Int} {sl : EdgeSlot} : (State.planesFor.choose n e g s sl).2.mem = s.mem := by
  grind [State.planesFor.choose, State.setEdge_mem]
@[simp] theorem State.planesFor_mem {g : Int} : (s.planesFor n e g).2.mem = s.mem := by
  fun_cases State.planesFor
  · rfl
  · exact State.planesFor_choose_mem
  · exact State.planesFor_choose_mem
@[simp] theorem State.loadIssue_mem {row : RowShape} {idx : Vector Nat 5} : (s.loadIssue n e row idx).mem = s.mem := by
  fun_cases State.loadIssue <;> grind [State.edgeFault_mem, State.edgeFetch_mem, State.setCore_mem, State.planesFor_mem]
theorem State.readToken_mem {f : Lane → State → State} (h : ∀ t s, (f t s).mem = s.mem) : (s.readToken n e f).mem = s.mem := by
  fun_cases State.readToken
  · rfl
  · exact State.edgeRead_mem fun s => by simp [h]
@[simp] theorem State.nextToken_mem : (s.nextToken n e).mem = s.mem := State.readToken_mem fun _ _ => rfl
@[simp] theorem State.nextPointer_mem : (s.nextPointer n e).mem = s.mem := by
  fun_cases State.nextPointer <;> grind [State.edgeFetch_mem, State.setEdge_mem, State.setCore_mem]
@[simp] theorem State.loadBeyond_mem : (s.loadBeyond n e).mem = s.mem := by fun_cases State.loadBeyond <;> simp
@[simp] theorem State.loadElement_mem {row : RowShape} : (s.loadElement n e row).mem = s.mem := by fun_cases State.loadElement <;> simp
@[simp] theorem State.loadNext_mem : (s.loadNext n e).mem = s.mem := by fun_cases State.loadNext <;> simp
@[simp] theorem State.readPointers_mem : (s.readPointers n e).mem = s.mem := by
  fun_cases State.readPointers <;> grind [State.edgeFault_mem, State.edgeFetch_mem, State.setEdge_mem, State.setCore_mem]
@[simp] theorem State.raggedNext_mem : (s.raggedNext n e).mem = s.mem := by fun_cases State.raggedNext <;> simp
@[simp] theorem State.fillClosed_mem : (s.fillClosed n e).mem = s.mem := by fun_cases State.fillClosed <;> rfl
@[simp] theorem State.loadStep_mem : (s.loadStep n e).mem = s.mem := by fun_cases State.loadStep <;> simp
@[simp] theorem State.park_mem : (s.park n e).mem = s.mem := by fun_cases State.park <;> rfl
@[simp] theorem State.wholeToken_mem : (s.wholeToken n e).mem = s.mem := by
  fun_cases State.wholeToken
  · rfl
  · exact State.edgeRead_mem fun _ => rfl
@[simp] theorem State.takeToken_mem {t : Lane} : (s.takeToken n e t).mem = s.mem := by fun_cases State.takeToken <;> rfl
@[simp] theorem State.edgeIssue_mem {l : List (EdgeWrite × Found)} : (s.edgeIssue n e k l).mem = s.mem := by
  fun_induction State.edgeIssue <;> grind [State.fresh_mem, State.setEdge_mem, State.send_mem]
@[simp] theorem State.storeFree_mem : (s.storeFree n e).mem = s.mem := rfl
@[simp] theorem State.storePass_mem {m : Nat} {f : EdgeSlot → EdgeSlot} : (s.storePass n e m f).mem = s.mem := rfl
@[simp] theorem State.edgeWrite_mem {m stored : Nat} {ws : List EdgeWrite} {warn : Lane} : (s.edgeWrite n e k m stored ws warn).mem = s.mem := by
  fun_cases State.edgeWrite <;> grind [State.edgeIssue_mem, State.storePass_mem, State.edgeFault_mem, State.edgePlaces_mem, State.setCore_mem]
@[simp] theorem State.storeWait_mem {reads : List (Nat × Win)} : (s.storeWait n e reads).mem = s.mem :=
  State.edgeRead_mem fun s => by dsimp only; split <;> rfl
@[simp] theorem State.storeElement_mem : (s.storeElement n e).mem = s.mem := by
  fun_cases State.storeElement
  · refine State.edgeRead_mem fun s => ?_
    dsimp only
    split
    · simp
    · split <;> simp
  · simp
@[simp] theorem State.storeUnit_mem {vs : List Lane} {mx : Lane} : (s.storeUnit n e vs mx).mem = s.mem := by fun_cases State.storeUnit <;> simp
@[simp] theorem State.moveToUnit_mem {mx : Lane} : (s.moveToUnit n e mx).mem = s.mem := by
  fun_cases State.moveToUnit
  · rfl
  · exact State.edgeRead_mem fun _ => rfl
  · simp
@[simp] theorem State.storePacked_mem {mx : Lane} : (s.storePacked n e mx).mem = s.mem := by
  fun_cases State.storePacked
  · exact State.edgeRead_mem fun _ => State.storeUnit_mem
  · simp
@[simp] theorem State.storeEnd_mem : (s.storeEnd n e).mem = s.mem := by fun_cases State.storeEnd <;> rfl
@[simp] theorem State.storeMove_mem : (s.storeMove n e).mem = s.mem := by fun_cases State.storeMove <;> simp
theorem State.takeMaximum_mem {f : State → State} (h : ∀ s, (f s).mem = s.mem) : (s.takeMaximum n e f).mem = s.mem := by
  fun_cases State.takeMaximum
  · rfl
  · rfl
  · exact State.edgeRead_mem fun s => by simp [h]
@[simp] theorem State.blockMove_mem : (s.blockMove n e).mem = s.mem := by
  fun_cases State.blockMove
  · rfl
  · simp
  · exact State.takeMaximum_mem fun s => by split <;> simp
@[simp] theorem State.eraseMove_mem : (s.eraseMove n e).mem = s.mem := by
  fun_cases State.eraseMove <;> grind [State.storePass_mem, State.edgeFault_mem, State.edgeWrite_mem, State.edgeTranslate_mem]
@[simp] theorem State.translationWord_mem {va : Int} : (s.translationWord n e va).2.mem = s.mem := by
  fun_cases State.translationWord <;> grind [State.translate_mem]
@[simp] theorem State.dropLatches_mem {l : List Nat} : (s.dropLatches n e l).mem = s.mem := rfl
@[simp] theorem State.reissue_mem {l : List Access} : (s.reissue n e l).mem = s.mem := by
  fun_induction State.reissue <;> grind [State.edgeIssue_mem, State.setEdge_mem, State.edgeWithhold_mem, State.edgeTranslate_mem]
@[simp] theorem State.reload_mem {l : List Piece} : (s.reload n e l).2.mem = s.mem := by
  fun_induction State.reload <;> grind [State.edgeFetch_mem, State.edgeWithhold_mem]
@[simp] theorem State.reloadAll_mem {l : List Fetch} : (s.reloadAll n e l).2.mem = s.mem := by
  fun_induction State.reloadAll <;> grind [State.reload_mem]
@[simp] theorem State.loadRetry_mem : (s.loadRetry n e).mem = s.mem := by
  fun_cases State.loadRetry <;> grind [State.readPointers_mem, State.raggedNext_mem, State.loadNext_mem, State.reloadAll_mem, State.setEdge_mem,
    State.reload_mem]
@[simp] theorem State.storeRetry_mem {failed : List Access} : (s.storeRetry n e failed).mem = s.mem := by
  grind [State.storeRetry, State.blockMove_mem, State.reissue_mem, State.setEdge_mem, State.storeMove_mem, State.eraseMove_mem]
@[simp] theorem State.pointerAhead_mem {i : Nat} : (s.pointerAhead n e i).mem = s.mem := by
  fun_cases State.pointerAhead <;> grind [State.edgeFetch_mem, State.setEdge_mem]

/-! ## Stream words -/

@[simp] theorem streamIssue_mem {i : Instr} {d : Reg} {t : BitVec 9} {a : Option Reg} : (streamIssue i d t a s x).2.mem = s.mem := by
  fun_cases streamIssue <;> rfl
@[simp] theorem State.applyStream_mem {slot : BitVec 2} {f : State → Nat → Fin 4 → Nat → Cmd → State} (h : ∀ s n e k c, (f s n e k c).mem = s.mem) :
    (s.applyStream slot f k c).mem = s.mem := by
  fun_cases State.applyStream <;> simp +zetaDelta [h]
@[simp] theorem State.readFormat_mem {pattern : List Byte} : (s.readFormat ctx c pattern).2.mem = s.mem := by fun_cases State.readFormat <;> simp
@[simp] theorem State.bindSlot_mem {pattern format : List Byte} : (s.bindSlot n e k c pattern format).mem = s.mem := by
  fun_cases State.bindSlot <;> simp
@[simp] theorem State.applySbind_mem : (s.applySbind n e k c).mem = s.mem := by
  fun_cases State.applySbind <;> grind [State.readFormat_mem, State.finishCmd_mem, State.bindSlot_mem, State.readForCmd_mem]
@[simp] theorem State.applySgo_mem : (s.applySgo n e k c).mem = s.mem := by fun_cases State.applySgo <;> simp +zetaDelta
@[simp] theorem State.dropTokens_mem : (s.dropTokens n e).mem = s.mem := rfl
@[simp] theorem State.stopRun_mem : (s.stopRun n e).mem = s.mem := by grind [State.stopRun, State.dropTokens_mem, State.setCore_mem]
@[simp] theorem State.applySstop_mem : (s.applySstop n e k c).mem = s.mem := by fun_cases State.applySstop <;> simp
@[simp] theorem State.applySbar_mem : (s.applySbar n e k c).mem = s.mem := by fun_cases State.applySbar <;> simp

/-! ## Blocks -/

@[simp] theorem State.closeBlock_mem {c : Option Closing} {next : BitVec 56} : (s.closeBlock q c next).mem = s.mem := by
  fun_cases State.closeBlock <;> simp
@[simp] theorem State.actInside_mem {e : Queued} : (s.actInside q e).mem = s.mem := by fun_cases State.actInside <;> simp
@[simp] theorem State.suspend_mem : (s.suspend q).mem = s.mem := by simp [State.suspend]
@[simp] theorem State.fetchCode_mem : (s.fetchCode q ctx va).2.mem = s.mem := by
  fun_cases State.fetchCode <;> grind [State.translate_mem, State.bytesNow_mem, State.loadAt_mem]
@[simp] theorem State.fetchCodes_mem {m : Nat} {l : List Code} : (s.fetchCodes q ctx va m l).2.mem = s.mem := by
  fun_induction State.fetchCodes <;> grind [State.fetchCode_mem]
@[simp] theorem State.aim_mem {a : Access} : (s.aim a).2.mem = s.mem := by
  fun_cases State.aim <;> grind [State.translate_mem]
@[simp] theorem State.aimPackets_mem {l : List Packet} : (s.aimPackets l).2.mem = s.mem := by
  fun_induction State.aimPackets <;> grind [State.aim_mem]
@[simp] theorem State.aimAccesses_mem {l : List Access} : (s.aimAccesses l).2.mem = s.mem := by
  fun_induction State.aimAccesses <;> grind [State.aim_mem]
@[simp] theorem State.aimAll_mem : (s.aimAll).mem = s.mem := by grind [State.aimAll, State.aimPackets_mem, State.aimAccesses_mem]
@[simp] theorem State.publish_mem {id : Nat} {va : Word} : (s.publish q id va).mem = s.mem := by fun_cases State.publish <;> simp
theorem State.sendEffect_mem {x : Queued} : ∀ t ∈ s.sendEffect q x, t.mem = s.mem := by
  fun_cases State.sendEffect
  case case6 =>
    intro t h
    obtain ⟨p, taken, rfl⟩ := Option.map_eq_some_iff.mp h
    exact State.takeRecord_mem p taken
  all_goals grind [State.aim_mem, State.send_mem, State.publish_mem, State.closeBlock_mem, State.setSeq_mem]
@[simp] theorem State.sendEach_mem {before l l' : List Queued} : (s.sendEach q before l l').2.mem = s.mem := by
  fun_induction State.sendEach <;> grind [State.sendEffect_mem]
@[simp] theorem State.sendEffects_mem : (s.sendEffects q).mem = s.mem := by
  fun_cases State.sendEffects <;> grind [State.setSeq_mem, State.sendEach_mem]
@[simp] theorem State.fillEnds_mem {u : UnitId} : (s.fillEnds u).mem = s.mem := by fun_cases State.fillEnds <;> rfl

/-! ## Routers -/

@[simp] theorem State.takeSide_mem {m : Nat} {side : Dir} {link : BitVec 4} {b : Beat} : (s.takeSide m side link b).mem = s.mem := by
  fun_cases State.takeSide <;> rfl
@[simp] theorem State.sendDirs_mem {link : BitVec 4} {b : Beat} {l : List Dir} : (s.sendDirs n link b l).mem = s.mem := by
  fun_induction State.sendDirs <;> simp +zetaDelta [*]
@[simp] theorem State.moveBeat_mem {sel link : BitVec 4} {b : Beat} {mask : Nat} : (s.moveBeat n sel link b mask).mem = s.mem := by
  fun_cases State.moveBeat <;> simp

/-! ## Handler images -/

@[simp] theorem State.readImage_mem : (s.readImage ctx c va).2.mem = s.mem := by
  fun_cases State.readImage <;> grind [State.readForCmd_mem]
@[simp] theorem State.spread_mem {ps : List Pattern} {f : Core → List Pattern → Core} : (s.spread r ps f).mem = s.mem :=
  foldl_mem fun _ _ => rfl

/-! ## Queues, completions and the host -/

@[simp] theorem State.setQueue_mem {q : Queue} : (s.setQueue n q).mem = s.mem := rfl
@[simp] theorem State.joinLine_mem : (s.joinLine n).mem = s.mem := by fun_cases State.joinLine <;> rfl
@[simp] theorem State.leaveLine_mem : (s.leaveLine n).mem = s.mem := by fun_cases State.leaveLine <;> rfl
@[simp] theorem State.ringPacket_mem : (s.ringPacket pa).2.mem = s.mem := by fun_cases State.ringPacket <;> simp
@[simp] theorem State.setHostWin_mem {c : Nat} {w : CompWin} : (s.setHostWin c w).mem = s.mem := rfl
@[simp] theorem State.complete_mem {w : Vector Word 8} {queue seqno reason : Nat} : (s.complete w queue seqno status reason).mem = s.mem := by
  fun_cases State.complete <;> rfl
@[simp] theorem State.closeIfDone_mem : (s.closeIfDone n).mem = s.mem := by fun_cases State.closeIfDone <;> rfl
@[simp] theorem State.finishPacket_mem {queue seqno : Nat} : (s.finishPacket queue seqno).mem = s.mem := by fun_cases State.finishPacket <;> simp
@[simp] theorem State.onPacket_mem {queue seqno : Nat} {f : LivePacket → LivePacket} : (s.onPacket queue seqno f).mem = s.mem := rfl
@[simp] theorem State.finishQueued_mem {seqno : Nat} : (s.finishQueued n k seqno status).mem = s.mem := by
  fun_cases State.finishQueued <;> grind [State.ringPacket_mem, State.complete_mem]
@[simp] theorem State.dropCopies_mem : (s.dropCopies n status).mem = s.mem := by simp [State.dropCopies]
@[simp] theorem State.flushQueue_mem : (s.flushQueue n status).mem = s.mem := by simp [State.flushQueue]
@[simp] theorem launchIssue_mem {i : Instr} {d a b : Reg} {mbz : Bool} : (launchIssue i d a b mbz s x).2.mem = s.mem := by
  fun_cases launchIssue <;> rfl
@[simp] theorem State.answerLaunch_mem {status : Word} : (s.answerLaunch ctx k status).mem = s.mem := by simp [State.answerLaunch]
@[simp] theorem State.respond_mem : (s.respond status).mem = s.mem := rfl

/-! ## Translation words and lanterns -/

@[simp] theorem State.xlat_mem {u : Word} : (s.xlat cluster ctx u who).2.mem = s.mem := by
  fun_cases State.xlat <;> grind [State.translate_mem]
@[simp] theorem transIssue_mem {i : Instr} {d a : Reg} {scope : BitVec 4} {x : Bool} {c : WordCtx} :
    (transIssue i d a scope x s c).2.mem = s.mem := by
  fun_cases transIssue <;> rfl
@[simp] theorem State.invalidate_mem {scope : TransScope} {va : Option Nat} : (s.invalidate q ctx scope va).mem = s.mem := rfl
@[simp] theorem State.translationChange_mem {scope : TransScope} : (s.translationChange q scope).mem = s.mem := by
  fun_cases State.translationChange
  · rfl
  · rfl
  · exact foldl_mem fun _ _ => rfl
@[simp] theorem State.applyTlbinv_mem {scope : BitVec 4} {all : BitVec 1} : (s.applyTlbinv scope all k c).mem = s.mem := by
  fun_cases State.applyTlbinv <;> simp
@[simp] theorem State.applyRelatch_mem {scope : BitVec 4} {all : BitVec 1} : (s.applyRelatch scope all k c).mem = s.mem := by
  fun_cases State.applyRelatch
  · simp
  · rfl
  · simp
  · exact foldl_mem fun _ _ => rfl
@[simp] theorem lanternIssue_mem {i : Instr} {d a : Reg} {x : Bool} {c : WordCtx} : (lanternIssue i d a x s c).2.mem = s.mem := by
  fun_cases lanternIssue <;> rfl
@[simp] theorem State.applyLantReq_mem : (s.applyLantReq k c).mem = s.mem := by fun_cases State.applyLantReq <;> simp
@[simp] theorem State.applyLantRel_mem : (s.applyLantRel k c).mem = s.mem := by fun_cases State.applyLantRel <;> simp

/-! ## The dispatcher and the arbiters -/

@[simp] theorem State.translateDirect_mem : (s.translateDirect ctx va).2.mem = s.mem := by
  fun_cases State.translateDirect <;> grind [State.walk_mem]
@[simp] theorem State.readDirect_mem {m : Nat} : (s.readDirect ctx va m).2.mem = s.mem := by
  fun_induction State.readDirect <;> grind [State.loadAt_mem, State.translateDirect_mem]
@[simp] theorem State.rejection_mem {w : Vector Word 8} : (s.rejection ctx w).2.mem = s.mem := by
  fun_cases State.rejection <;> grind [State.readDirect_mem]
@[simp] theorem State.offer_mem {o : Offer} : (s.offer o).mem = s.mem := rfl
@[simp] theorem State.copyPacket_mem : (s.copyPacket n).mem = s.mem := by
  fun_cases State.copyPacket <;> grind [State.ringPacket_mem, State.setQueue_mem, State.joinLine_mem]
@[simp] theorem State.validateCopy_mem {c : Copying} : (s.validateCopy c).mem = s.mem := by
  fun_cases State.validateCopy <;> grind [State.complete_mem, State.offer_mem, State.joinLine_mem, State.rejection_mem]
@[simp] theorem State.takeLine_mem : (s.takeLine).mem = s.mem := by fun_cases State.takeLine <;> simp
@[simp] theorem State.startSeqs_mem {entry : BitVec 56} {args wid widf : Word} : (s.startSeqs r entry args wid widf).mem = s.mem :=
  foldl_mem fun _ _ => rfl
@[simp] theorem State.admitCores_mem : (s.admitCores r).mem = s.mem := by simp [State.admitCores]
@[simp] theorem State.admitPacket_mem {x y queue seqno : Nat} {w : Vector Word 8} {number : Nat} :
    (s.admitPacket die x y queue seqno w number).mem = s.mem := by
  simp [State.admitPacket]
@[simp] theorem State.settleRestored_mem {known : Bool} {queue : Nat} : (s.settleRestored r known queue ctx).mem = s.mem := by
  fun_cases State.settleRestored <;> rfl
@[simp] theorem State.admitRestore_mem {x y w h lant grotto queue number : Nat} :
    (s.admitRestore die x y w h lant grotto queue number).mem = s.mem := by
  refine (foldl_mem ?_).trans ?_
  · exact fun _ _ => rfl
  · simp
@[simp] theorem State.admitOne_mem {c : Candidate} {x y : Nat} : (s.admitOne die c x y).mem = s.mem := by fun_cases State.admitOne <;> simp
@[simp] theorem State.admitAll_mem {c : Candidate} {m : Nat} : (s.admitAll die c m).1.mem = s.mem := by
  fun_induction State.admitAll <;> simp +zetaDelta [*]
@[simp] theorem State.reserve_mem {c : Candidate} : (s.reserve c).1.mem = s.mem := by fun_cases State.reserve <;> rfl
@[simp] theorem State.reserveSlot_mem {c : Candidate} : (s.reserveSlot c).mem = s.mem := by grind [State.reserveSlot, State.reserve_mem]
@[simp] theorem State.endReservation_mem {o : Offer} : (s.endReservation o).mem = s.mem :=
  foldl_mem fun s c => by dsimp only; split <;> rfl
@[simp] theorem State.putCandidate_mem {c : Candidate} : (s.putCandidate c).mem = s.mem := by fun_cases State.putCandidate <;> simp +zetaDelta
@[simp] theorem State.roundOver_mem {l : List Candidate} {l' : List (Candidate × Nat)} : (s.roundOver die l l').1.mem = s.mem := by
  fun_induction State.roundOver <;> grind [State.endReservation_mem, State.putCandidate_mem, State.admitAll_mem]
@[simp] theorem State.bypassed_mem {total : Nat} {p : Candidate × Nat} : (s.bypassed total p).mem = s.mem := by fun_cases State.bypassed <;> simp
@[simp] theorem State.round_mem {die : Fin 16} : (s.round die).mem = s.mem := by
  simp [State.round]
theorem State.completeSeq_mem {c : Completion} : ∀ t ∈ s.completeSeq c, t.mem = s.mem := by fun_cases State.completeSeq <;> simp
theorem State.completeHost_mem {c : Completion} : ∀ t ∈ s.completeHost c, t.mem = s.mem := by fun_cases State.completeHost <;> simp

/-! ## Configuration -/

@[simp] theorem configIssue_mem {i : Instr} {a : Reg} {regs : List Reg} {owner mbz : Bool} {c : WordCtx} :
    (configIssue i a regs owner mbz s c).2.mem = s.mem := by
  fun_cases configIssue <;> rfl
theorem State.applyConfig_mem {f : State → Region → Nat → Cmd → State} (h : ∀ s r k c, (f s r k c).mem = s.mem) :
    (s.applyConfig f k c).mem = s.mem := by
  fun_cases State.applyConfig <;> simp [h]
@[simp] theorem State.applyCfgLoad_mem : (s.applyCfgLoad r k c).mem = s.mem := by
  fun_cases State.applyCfgLoad <;> grind [State.spread_mem, State.finishCmd_mem, State.readImage_mem, State.setRegion_mem]
@[simp] theorem State.applyCfgShadow_mem : (s.applyCfgShadow r k c).mem = s.mem := by
  fun_cases State.applyCfgShadow <;> grind [State.spread_mem, State.finishCmd_mem, State.readImage_mem]
@[simp] theorem State.applyCfgSwap_mem : (s.applyCfgSwap r k c).mem = s.mem := by fun_cases State.applyCfgSwap <;> simp
@[simp] theorem State.endSwap_mem : (s.endSwap r).mem = s.mem := by fun_cases State.endSwap <;> simp
@[simp] theorem State.drainSlot_mem : (s.drainSlot n e).mem = s.mem := by fun_cases State.drainSlot <;> simp
@[simp] theorem State.drainRuns_mem : (s.drainRuns r).mem = s.mem := foldl_mem fun _ _ => foldl_mem fun _ _ => State.drainSlot_mem
@[simp] theorem State.drainWithheld_mem : (s.drainWithheld r).mem = s.mem :=
  foldl_mem fun _ _ => foldl_mem fun _ _ => by split <;> simp
@[simp] theorem State.applyCfgDrain_mem : (s.applyCfgDrain r k c).mem = s.mem := by fun_cases State.applyCfgDrain <;> simp
@[simp] theorem State.endDrain_mem {d : Drain} {ps : Option (List Pattern)} {status : Word} : (s.endDrain r d ps status).mem = s.mem := by
  fun_cases State.endDrain
  grind [State.spread_mem, State.onCores_mem, State.finishId_mem, State.setRegion_mem]
@[simp] theorem State.drainImage_mem {d : Drain} : (s.drainImage r d c).2.mem = s.mem := by
  fun_cases State.drainImage <;> grind [State.readImage_mem]
@[simp] theorem State.applyCfgPhase_mem : (s.applyCfgPhase r k c).mem = s.mem := by simp [State.applyCfgPhase]
@[simp] theorem State.signatureOf_mem {va : Word} : (s.signatureOf r c va).2.mem = s.mem := by
  fun_cases State.signatureOf <;> grind [State.readForCmd_mem]
@[simp] theorem State.applyCfgSig_mem {a : Reg} : (s.applyCfgSig a r k c).mem = s.mem := by
  fun_cases State.applyCfgSig <;> grind [State.signatureOf_mem, State.finishCmd_mem]

/-! ## The network -/

@[simp] theorem State.setConn_mem {c : Conn} : (s.setConn c).mem = s.mem := rfl
@[simp] theorem State.engineTranslate_mem : (s.engineTranslate ctx va).2.mem = s.mem := by
  fun_cases State.engineTranslate <;> grind [State.walk_mem]
@[simp] theorem State.rangeMapped_mem {m m' m'' : Nat} : (s.rangeMapped ctx m m' m'').2.mem = s.mem := by
  fun_induction State.rangeMapped <;> grind [State.engineTranslate_mem]
@[simp] theorem State.engineRead_mem {m m' m'' : Nat} : (s.engineRead ctx m m' m'').2.mem = s.mem := by
  fun_induction State.engineRead <;> grind [State.engineTranslate_mem, State.loadAt_mem]
@[simp] theorem State.rangeWritable_mem {m m' m'' : Nat} : (s.rangeWritable ctx m m' m'').2.mem = s.mem := by
  fun_induction State.rangeWritable <;> grind [State.engineTranslate_mem]
@[simp] theorem netIssue_mem {i : Instr} {d : Reg} {reads : List Reg} {a b : Reg} {mbz : Bool} : (netIssue i d reads a b mbz s x).2.mem = s.mem := by
  fun_cases netIssue <;> rfl
@[simp] theorem State.describeBuffer_mem {h : Nat} {l : List Byte} : (s.describeBuffer r h l).2.mem = s.mem := by
  fun_cases State.describeBuffer <;> grind [State.rangeMapped_mem]
@[simp] theorem State.release_mem {h : Nat} : (s.release h).mem = s.mem := rfl
@[simp] theorem State.freeHandles_mem : (s.freeHandles).mem = s.mem := foldl_mem fun _ _ => by split <;> simp
@[simp] theorem State.releaseHandles_mem : (s.releaseHandles r).mem = s.mem := by simp [State.releaseHandles]
@[simp] theorem State.bindRelease_mem {h : Nat} : (s.bindRelease r k h).mem = s.mem := by fun_cases State.bindRelease <;> simp
@[simp] theorem State.bindDescriptor_mem {l : List Byte} : (s.bindDescriptor r k l).mem = s.mem := by
  fun_cases State.bindDescriptor <;> grind [State.bindRelease_mem, State.finishCmd_mem, State.describeBuffer_mem]
theorem State.applyNet_mem {body : State → Region → State} (h : ∀ s r, (body s r).mem = s.mem) : (s.applyNet k c body).mem = s.mem := by
  fun_cases State.applyNet <;> simp [h]
theorem State.withDescriptor_mem {body : State → List Byte → State} (h : ∀ s l, (body s l).mem = s.mem) :
    (s.withDescriptor r k c n body).mem = s.mem := by
  fun_cases State.withDescriptor <;> grind [State.readForCmd_mem, State.finishCmd_mem]
@[simp] theorem State.queueMessage_mem {c : Conn} {op : NetOp} {seq cmd : Nat} {l : List Byte} : (s.queueMessage c op k seq cmd l).mem = s.mem := by
  fun_cases State.queueMessage <;> grind [State.setSeq_mem, State.setConn_mem, State.finishCmd_mem]
@[simp] theorem State.applyMessage_mem {op : NetOp} : (s.applyMessage op k c).mem = s.mem :=
  State.applyNet_mem fun s r => by
    split
    · simp
    · split
      · simp
      · exact State.withDescriptor_mem fun _ _ => State.queueMessage_mem
@[simp] theorem State.applyNetStat_mem : (s.applyNetStat k c).mem = s.mem :=
  State.applyNet_mem fun s _ => by
    dsimp only
    split
    · simp
    · split <;> simp
@[simp] theorem State.setMsg_mem {m : NetMsg} : (s.setMsg k m).mem = s.mem := rfl
@[simp] theorem State.sendPacket_mem {m : NetMsg} {p : Nat} {w : WirePacket} : (s.sendPacket k m p w).mem = s.mem := rfl
@[simp] theorem State.sendAgain_mem {c : Conn} {w : WirePacket} : (s.sendAgain c w).mem = s.mem := rfl
@[simp] theorem State.refuseMsg_mem {m : NetMsg} : (s.refuseMsg k m status).mem = s.mem := by fun_cases State.refuseMsg <;> rfl
@[simp] theorem State.sendBytes_mem {c : Conn} {m : NetMsg} {p : Nat} : (s.sendBytes c k m p).mem = s.mem := by
  fun_cases State.sendBytes <;> grind [State.rangeMapped_mem, State.refuseMsg_mem, State.sendPacket_mem, State.engineRead_mem]
@[simp] theorem State.sendRequest_mem {c : Conn} {m : NetMsg} : (s.sendRequest c k m).mem = s.mem := by
  fun_cases State.sendRequest <;> grind [State.refuseMsg_mem, State.sendPacket_mem, State.rangeWritable_mem]
@[simp] theorem State.answerAgain_mem {a : ReadAnswer} {p : Nat} : (s.answerAgain a p).mem = s.mem := by fun_cases State.answerAgain <;> rfl
@[simp] theorem State.answerPeer_mem {m : InMsg} {op : NetOp} : (s.answerPeer m op status).mem = s.mem := rfl
@[simp] theorem State.writeTarget_mem {c : Conn} {p : NetPacket} : (s.writeTarget c p).2.mem = s.mem := by
  fun_cases State.writeTarget <;> grind [State.rangeWritable_mem]
theorem State.openMessage_mem {c : Conn} {p : NetPacket} : ∀ m ∈ s.openMessage c p, m.2.mem = s.mem := by
  fun_cases State.openMessage <;> grind [State.writeTarget_mem, State.answerPeer_mem, State.setConn_mem]
theorem State.endAgain_mem {c : Conn} {m : InMsg} : ∀ t ∈ s.endAgain c m, t.mem = s.mem := by fun_cases State.endAgain <;> simp
@[simp] theorem State.answers_mem {c : Conn} {r : PeerRead} {m m' : Nat} : (s.answers c r m m').2.mem = s.mem := by
  fun_induction State.answers <;> grind [State.engineRead_mem]
@[simp] theorem State.answerRead_mem {m : InMsg} {ws : List WirePacket} : (s.answerRead m ws).mem = s.mem := rfl
@[simp] theorem State.serveAgain_mem {c : Conn} {a : ReadAnswer} : (s.serveAgain c a).mem = s.mem := rfl
theorem State.fillCompletion_mem {m : BitVec 3} {lanes : List Lane} : ∀ t ∈ s.fillCompletion q m lanes, t.mem = s.mem := by
  fun_cases State.fillCompletion <;> simp
@[simp] theorem State.endInMsg_mem {m : InMsg} : (s.endInMsg m).mem = s.mem := by simp [State.endInMsg]
@[simp] theorem State.holdRecord_mem {m : InMsg} : (s.holdRecord m).mem = s.mem := by
  fun_cases State.holdRecord <;> grind [State.fresh_mem]
@[simp] theorem State.endMsg_mem {m : NetMsg} : (s.endMsg k m status).mem = s.mem := by
  fun_cases State.endMsg <;> grind [State.fillCompletion_mem, State.fresh_mem, State.setMsg_mem, State.freeHandles_mem]
@[simp] theorem State.failConns_mem {p : Conn → Bool} : (s.failConns p).mem = s.mem := by simp [State.failConns]
@[simp] theorem State.failPathless_mem : (s.failPathless).mem = s.mem := by simp [State.failPathless]
@[simp] theorem State.acknowledge_mem {handle : Nat} {ack : NetAck} :
    (s.acknowledge handle ack).mem = s.mem := by fun_cases State.acknowledge <;> simp

/-! ## The mailbox -/

@[simp] theorem State.ctxCreate_mem : (s.ctxCreate).mem = s.mem := by fun_cases State.ctxCreate <;> rfl
@[simp] theorem State.qCreate_mem : (s.qCreate).mem = s.mem := by fun_cases State.qCreate <;> rfl
@[simp] theorem State.qDestroy_mem : (s.qDestroy).mem = s.mem := by fun_cases State.qDestroy <;> simp +zetaDelta
@[simp] theorem State.stopRegion_mem : (s.stopRegion r).mem = s.mem := foldl_mem fun _ _ => rfl
@[simp] theorem State.dropCandidates_mem {p : Candidate → Bool} : (s.dropCandidates p).mem = s.mem := by simp [State.dropCandidates]
@[simp] theorem State.closeQueues_mem : (s.closeQueues ctx).mem = s.mem := foldl_mem fun s p => by dsimp only; split <;> simp
@[simp] theorem State.losePackets_mem : (s.losePackets ctx).mem = s.mem := by simp [State.losePackets]
@[simp] theorem State.ctxDestroy_mem : s.ctxDestroy.mem = s.mem := by
  fun_cases State.ctxDestroy <;> simp +zetaDelta
@[simp] theorem State.preempt_mem : (s.preempt).mem = s.mem := by fun_cases State.preempt <;> simp +zetaDelta
@[simp] theorem State.restore_mem : (s.restore).mem = s.mem := by
  fun_cases State.restore <;> grind [State.fresh_mem, State.packageEventFree_mem, State.respond_mem]
@[simp] theorem State.stepClock_mem {level : Nat} : (s.stepClock level).mem = s.mem := rfl
@[simp] theorem State.saveErrors_mem : (s.saveErrors n).mem = s.mem := by
  fun_cases State.saveErrors <;> grind [State.setCore_mem, State.storeFault_mem]
@[simp] theorem State.regionErrors_mem : (s.regionErrors r).mem = s.mem := foldl_mem fun _ _ => State.saveErrors_mem

/-! ## Regions that stop and come back -/

@[simp] theorem State.reviveItem_mem {tag w0 w1 w2 : Nat} : (s.reviveItem r q tag w0 w1 w2).2.mem = s.mem := by
  fun_cases State.reviveItem <;> grind [State.fresh_mem, State.translate_mem]
@[simp] theorem State.reviveFence_mem {tag : Nat} {page : Option Nat} : (s.reviveFence tag page).2.mem = s.mem := by
  fun_cases State.reviveFence <;> grind [State.fresh_mem]
@[simp] theorem State.reviveItems_mem {kept : KeptSeq} {tag m : Nat} : (s.reviveItems r kept q tag pa m).1.mem = s.mem := by
  fun_induction State.reviveItems <;> grind [State.reviveItem_mem, State.reviveFence_mem]
@[simp] theorem State.placeMessages_mem {rank : Nat} {items : List Outstanding} : (s.placeMessages r rank items).mem = s.mem := rfl
@[simp] theorem State.restoreSeq_mem {rank : Nat} : (s.restoreSeq r pa rank).mem = s.mem := by
  grind [State.restoreSeq, State.setSeq_mem, State.placeMessages_mem, State.reviveItems_mem, State.reviveFence_mem, State.sendEffects_mem]
@[simp] theorem State.restoreCores_mem : (s.restoreCores r pa).mem = s.mem := foldl_mem fun _ _ => rfl
@[simp] theorem State.writeRegion_mem : (s.writeRegion r pa).mem = s.mem := by
  unfold State.writeRegion
  dsimp only
  split <;> simp
@[simp] theorem State.endMailbox_mem : (s.endMailbox r).mem = s.mem := by fun_cases State.endMailbox <;> rfl
@[simp] theorem State.dieFreed_mem : (s.dieFreed r).mem = s.mem := rfl
@[simp] theorem State.instanceGone_mem : (s.instanceGone r).mem = s.mem := by simp [State.instanceGone]
@[simp] theorem State.dropTraffic_mem : (s.dropTraffic r).mem = s.mem := foldl_mem fun _ _ => rfl
@[simp] theorem State.absorbRecords_mem : (s.absorbRecords q).mem = s.mem := rfl

/-! ## Probes, and reads before their turn -/

@[simp] theorem State.reportDeadlock_mem {p : Probe} : (s.reportDeadlock r p).mem = s.mem := by simp [State.reportDeadlock]
@[simp] theorem State.probeArrives_mem {p : Probe} : (s.probeArrives r p).mem = s.mem := by fun_cases State.probeArrives <;> simp
@[simp] theorem State.readMove_mem {cue : Cue} : (s.readMove cue).mem = s.mem := by fun_cases State.readMove <;> simp

end Sys2Proof.Machine
end

section
/-! PROOFS. Words and events that leave the floor as it was. -/

namespace Sys2Proof.Machine

variable {s t : State} {body : State → WordCtx → WordRes × State}

/-- Whatever state comes next, the floor is as it was. -/
def LeavesFloor (s : State) (o : Host.Outcome State Fault Refusal) : Prop := ∀ t, o = .next t → t.mem = s.mem

@[simp] theorem leavesFloor_next : LeavesFloor s (.next t) ↔ t.mem = s.mem := by simp [LeavesFloor]

/-- Running a stage of a firing leaves the floor as it was, whatever the stage computes. -/
theorem runStage_leaves {op : Nat} {f : StageFields} {body : StageCtx → Operands → StageRes} : LeavesFloor s (s.runStage op f body) := by
  fun_cases State.runStage <;> simp

/-- A word leaves the floor as it was, where its body does. -/
theorem runWord_leaves (h : ∀ s x, (body s x).2.mem = s.mem) : LeavesFloor s (s.runWord body) := by
  rcases s.runWord_cases body with e | ⟨q, b, -, -, e⟩ <;> rw [e] <;> simp [State.endWord_mem, h]

theorem plainWord_leaves {reads : List Reg} {mbz : Bool} {f : WordCtx → Block} : LeavesFloor s (s.plainWord reads mbz f) :=
  runWord_leaves fun _ _ => rfl

theorem intWord_leaves {d a b : Reg} {mbz : Bool} {f : Word → Word → Word × Word} : LeavesFloor s (s.intWord d a b mbz f) :=
  plainWord_leaves

theorem unaryWord_leaves {d a : Reg} {mbz : Bool} {f : Word → Word} : LeavesFloor s (s.unaryWord d a mbz f) :=
  plainWord_leaves

theorem localWord_leaves {m : BitVec 3} {bad : Word → Bool} (h : ∀ s x, (body s x).2.mem = s.mem) : LeavesFloor s (s.localWord m bad body) :=
  runWord_leaves fun s x => by dsimp only; split <;> simp [h]

theorem targetWord_leaves {a : Reg} {mbz : Bool} {nop : WordCtx → Bool} {f : Block → BitVec 56 → Block} : LeavesFloor s (s.targetWord a mbz nop f) :=
  runWord_leaves fun s x => by grind

theorem atomicWord_leaves {d a b : Reg} {f : AmoFields} {x : Bool} {reads : List Reg} {op : WordCtx → AccessOp} {code : Code} :
    LeavesFloor s (s.atomicWord d a b f x reads op code) :=
  runWord_leaves fun s x => by grind [State.reach_mem, queueAccess_mem]

/-- A command word leaves the floor as it was, where its issue and its application do. -/
theorem commandWord_leaves {issue : State → WordCtx → WordRes × State} {apply : State → Nat → Cmd → State} (hi : ∀ s x, (issue s x).2.mem = s.mem)
    (ha : ∀ s k c, (apply s k c).mem = s.mem) : LeavesFloor s (s.commandWord issue apply) := by
  fun_cases State.commandWord
  · simp [ha]
  · simp
  · exact runWord_leaves hi

theorem mailboxCommand_leaves {names : Nat → Bool} {body : State → State} (h : ∀ s, (body s).mem = s.mem) :
    LeavesFloor s (s.mailboxCommand names body) := by
  fun_cases State.mailboxCommand <;> simp [h]

end Sys2Proof.Machine
end

section
/-! PROOFS. Every operation that stores bytes keeps the floor in its canonical form (14 R301, R303). -/

namespace Sys2Proof.Machine

/-- The state that performing an access leaves. -/
def Performed.state : Performed → State
  | .done _ s => s
  | .loaded _ _ s => s
  | .failed s => s
  | .withheld s => s

/-- Answering what an access comes to leaves the floor as it was. -/
@[simp] theorem Performed.settle_mem {a : Access} {p : Performed} : (p.settle a).2.mem = p.state.mem := by
  cases p with
  | failed s => simp only [Performed.settle]; split <;> simp [Performed.state]
  | _ => simp [Performed.settle, Performed.state]

variable {s : State} {n k q pa record : Nat} {a : Access} {r : Region}

/-! ## Slices and homes -/

section
variable (h : Memory.wf s.mem = true)
include h

theorem wf_storeFloor {data : List Byte} : ∀ t ∈ s.storeFloor pa data, Memory.wf t.mem = true := by
  intro t stored
  rw [State.storeFloor_eq stored]
  exact Memory.wf_writeBytes _ _ _ (by simpa using h)

theorem wf_performAt : Memory.wf (s.performAt a pa).state.mem = true := by
  fun_cases State.performAt <;>
    grind [Performed.state, State.loadFloor_mem, State.tailStored_mem, wf_storeFloor, Memory.wf_writeLE]

theorem wf_setTile {t : Nat} {b : Bool} : Memory.wf (s.setTile record t b).mem = true := Memory.wf_writeLE _ _ _ _ h

theorem wf_returnFrame {p : Pool} {f : Nat} : ∀ t ∈ s.returnFrame p f, Memory.wf t.mem = true := by
  fun_cases State.returnFrame <;> grind [State.tailStored_mem, wf_storeFloor, Memory.wf_writeLE]

theorem wf_birth {t f : Nat} {p : Pool} : ∀ u ∈ s.birth record t p f, Memory.wf u.mem = true := by
  fun_cases State.birth <;> grind [wf_setTile, wf_storeFloor, Memory.wf_writeLE]

theorem wf_applyVug : Memory.wf (s.applyVug a record).state.mem = true := by
  fun_cases State.applyVug <;>
    grind [Performed.state, State.tileExists_mem, State.tileFrame_mem, State.pool_mem, State.loadFloor_mem, wf_returnFrame, wf_setTile, wf_birth,
      wf_performAt]

end

/-- Steps that each keep the canonical form keep it one after another. -/
theorem wf_foldl {α : Type} {f : State → α → State} (hf : ∀ s x, Memory.wf s.mem = true → Memory.wf (f s x).mem = true) (l : List α)
    {s : State} (h : Memory.wf s.mem = true) : Memory.wf (l.foldl f s).mem = true := by
  induction l generalizing s with
  | nil => exact h
  | cons x l ih => exact ih (hf s x h)

/-- What is left once an access has been answered is in canonical form where what performing it left is. -/
theorem wf_of_settle {p : Performed} {t : State} {b : Bool} (h : Memory.wf p.state.mem = true) (e : p.settle a = (b, t)) :
    Memory.wf t.mem = true := by
  have same : (p.settle a).2.mem = p.state.mem := Performed.settle_mem
  rw [e] at same
  exact same ▸ h

theorem wf_retryWithheld {d : Nat} {s : State} {seen kept l : List Access} (h : Memory.wf s.mem = true) :
    Memory.wf (s.retryWithheld d seen kept l).mem = true := by
  fun_induction State.retryWithheld with
  | case1 => exact h
  | case2 _ _ _ _ _ _ ih => exact ih h
  | case3 _ _ _ _ _ _ _ _ ih => exact ih h
  | case4 _ _ _ _ _ _ _ _ _ e ih => exact ih (wf_of_settle (wf_applyVug (by exact h)) e)
  | case5 s seen kept a rest _ _ _ t e ih =>
    refine ih ?_
    have done : Memory.wf t.mem = true := wf_of_settle (wf_applyVug (by exact h)) e
    split <;> simp [done]

/-! ## Events of slices and homes -/

/-- Whatever state comes next, its floor is in canonical form. -/
def NextCanonical (o : Host.Outcome State Fault Refusal) : Prop := ∀ t, o = .next t → Memory.wf t.mem = true

@[simp] theorem nextCanonical_next {t : State} : NextCanonical (.next t) ↔ Memory.wf t.mem = true := by simp [NextCanonical]

/-- An outcome that leaves the floor as it was leaves it in canonical form. -/
theorem LeavesFloor.nextCanonical {o : Host.Outcome State Fault Refusal} (l : LeavesFloor s o) (h : Memory.wf s.mem = true) : NextCanonical o :=
  fun t e => l t e ▸ h

section
variable (h : Memory.wf s.mem = true)
include h

theorem execSliceApply_canonical {i : Nat} : NextCanonical (execSliceApply i s) := by
  fun_cases execSliceApply
  · rw [nextCanonical_next, Performed.settle_mem]
    exact wf_performAt (by exact h)
  · simpa using h
  · simpa using h

theorem execVugHomeApply_canonical {i : Nat} : NextCanonical (execVugHomeApply i s) := by
  fun_cases execVugHomeApply <;> grind [nextCanonical_next, wf_of_settle, wf_applyVug, State.reportWithheld_mem]

theorem execPoolChange_canonical {d : Nat} : NextCanonical (execPoolChange d s) := by
  fun_cases execPoolChange
  · exact nextCanonical_next.mpr (wf_retryWithheld h)
  · simpa using h

/-! ## Packets of queues, and the host -/

theorem wf_putFloor {l : List Byte} : Memory.wf (s.putFloor pa l).mem = true := by
  simpa [State.putFloor] using Memory.wf_writeBytes s pa l h

theorem wf_appendPacket {w : Vector Word 8} : Memory.wf (s.appendPacket n w).mem = true := by
  simpa [State.appendPacket] using wf_putFloor h

theorem wf_applyLaunch {c : Cmd} : Memory.wf (s.applyLaunch k c).mem = true := by
  fun_cases State.applyLaunch <;> grind [State.finishCmd_mem, State.readForCmd_mem, State.answerLaunch_mem, wf_appendPacket]

theorem execLaunch_canonical {d a b : Reg} {m : BitVec 3} {x : Bool} {g : Pred} : NextCanonical (execLaunch d a b m x g s) := by
  unfold execLaunch
  fun_cases State.commandWord
  · simpa using wf_applyLaunch h
  · simpa using h
  · exact (runWord_leaves fun _ _ => launchIssue_mem).nextCanonical h

theorem execQueueAppend_canonical {w : Vector Word 8} {whole : Bool} : NextCanonical (execQueueAppend q w whole s) := by
  fun_cases execQueueAppend <;> simp [h, wf_appendPacket]

theorem wf_hostWrite {value : Word} : Memory.wf (s.hostWrite n value).mem = true := by
  fun_cases State.hostWrite <;> simp [h, wf_putFloor]

theorem execHostRegisterWrite_canonical {value : Word} : NextCanonical (execHostRegisterWrite n value s) := by
  fun_cases execHostRegisterWrite <;> simp [h, wf_hostWrite]

/-! ## What arrives from the network -/

end

theorem wf_engineWrite {s : State} (h : Memory.wf s.mem = true) {ctx fuel va : Nat} {l : List Byte} :
    ∀ t ∈ s.engineWrite ctx fuel va l, Memory.wf t.mem = true := by
  fun_induction State.engineWrite <;> grind [State.engineTranslate_mem, wf_performAt, wf_applyVug, Performed.state]

section
variable (h : Memory.wf s.mem = true)
include h

theorem wf_placeBytes {c : Conn} {m : InMsg} {p : NetPacket} : ∀ t ∈ s.placeBytes c m p, Memory.wf t.mem = true := by
  fun_cases State.placeBytes
  case case4 =>
    intro t ht
    obtain ⟨u, hu, rfl⟩ := Option.map_eq_some_iff.mp ht
    exact wf_engineWrite h u hu
  all_goals grind

theorem wf_placeMessage {c : Conn} {p : NetPacket} : ∀ t ∈ s.placeMessage c p, Memory.wf t.mem = true := by
  fun_cases State.placeMessage
  case case4 =>
    intro t ht
    obtain ⟨⟨m, u⟩, opened, placed⟩ := Option.mem_bind_iff.mp ht
    exact wf_placeBytes (State.openMessage_mem _ opened ▸ h) t placed
  all_goals grind [State.endAgain_mem, wf_placeBytes]

theorem wf_placeAnswer {c : Conn} {p : NetPacket} : ∀ t ∈ s.placeAnswer c p, Memory.wf t.mem = true := by
  fun_cases State.placeAnswer
  case case5 =>
    intro t ht
    obtain ⟨u, hu, rfl⟩ := Option.map_eq_some_iff.mp ht
    exact wf_engineWrite h u hu
  all_goals grind

theorem wf_getD {o : Option State} (placed : ∀ t ∈ o, Memory.wf t.mem = true) : Memory.wf (o.getD s).mem = true := by
  cases o with
  | none => exact h
  | some t => exact placed t rfl

theorem execMessagePacketPlace_canonical {p : NetPacket} : NextCanonical (execMessagePacketPlace p s) := by
  fun_cases execMessagePacketPlace
  case case3 =>
    refine nextCanonical_next.mpr (wf_getD h ?_)
    split
    · exact wf_placeAnswer h
    · exact wf_placeMessage h
  all_goals simpa using h

/-! ## The mailbox -/

end

theorem wf_closeGap {s : State} (h : Memory.wf s.mem = true) {q : Queue} {k n : Nat} : Memory.wf (s.closeGap q k n).mem = true := by
  fun_induction State.closeGap with
  | case1 => exact h
  | case2 s k n ih => exact ih (wf_putFloor h)

/-- A mailbox command that keeps the canonical form keeps it in whatever state comes next. -/
theorem mailboxCommand_canonical {names : Nat → Bool} {body : State → State} (h : Memory.wf s.mem = true) (hb : Memory.wf (body s).mem = true) :
    NextCanonical (s.mailboxCommand names body) := by
  fun_cases State.mailboxCommand <;> simp [h, hb]

section
variable (h : Memory.wf s.mem = true)
include h

theorem wf_cancel : Memory.wf s.cancel.mem = true := by
  fun_cases State.cancel <;> grind [wf_closeGap, State.finishQueued_mem, State.setQueue_mem, State.leaveLine_mem, State.respond_mem]

theorem wf_quote : Memory.wf s.quote.mem = true := by
  fun_cases State.quote
  · simpa using h
  · simpa using wf_putFloor h

/-! ## Regions that are saved -/

theorem wf_saveRegion {reason : Nat} : Memory.wf (s.saveRegion r pa reason).mem = true :=
  wf_foldl (fun _ _ h => wf_putFloor h) _ (wf_foldl (fun _ _ h => wf_putFloor h) _ (wf_putFloor h))

theorem execCheckpointSave_canonical {n : Nat} : NextCanonical (execCheckpointSave n pa s) := by
  fun_cases execCheckpointSave <;>
    grind [nextCanonical_next, wf_saveRegion, State.regionErrors_mem, State.setRegion_mem, State.record_mem]

theorem wf_cancelWithheld : Memory.wf (s.cancelWithheld r).mem = true :=
  wf_foldl (fun _ _ => wf_retryWithheld) _ (by exact h)

theorem wf_clearRegion : Memory.wf (s.clearRegion r).mem = true := by
  have cleared : (s.clearRegion r).mem = (s.cancelWithheld r).mem := by
    grind [State.clearRegion, foldl_mem, State.setSeq_mem, State.onCores_mem, State.dropTraffic_mem]
  exact cleared ▸ wf_cancelWithheld h

theorem wf_releaseRegion : Memory.wf (s.releaseRegion r n).mem = true := by
  fun_cases State.releaseRegion <;>
    grind [wf_clearRegion, State.dieFreed_mem, State.setRegion_mem, State.endMailbox_mem, State.releaseHandles_mem, State.instanceGone_mem]

theorem wf_saveAndRelease : Memory.wf (s.saveAndRelease r).mem = true := by
  fun_cases State.saveAndRelease
  · exact wf_releaseRegion (wf_saveRegion h)
  · exact h

theorem wf_finishFreeze : Memory.wf (s.finishFreeze r).mem = true := by
  fun_cases State.finishFreeze
  · exact wf_releaseRegion h
  · refine wf_saveAndRelease ?_
    rw [foldl_mem fun _ _ => State.absorbRecords_mem, State.regionErrors_mem]
    exact h

theorem execRegionFreeze_canonical {n : Nat} : NextCanonical (execRegionFreeze n s) := by
  fun_cases execRegionFreeze <;> simp [h, wf_finishFreeze, foldl_mem]

end

end Sys2Proof.Machine
end

section
/-! PROOFS. Which instructions and events leave the floor as it was (14 R303): all but eleven. -/

namespace Sys2Proof.Machine

variable {s : State}

/-! ## Words and events with an argument of their own -/

theorem execFiringIssue_leaves {core : Nat} : LeavesFloor s (execFiringIssue core s) := by
  fun_cases execFiringIssue <;> grind [leavesFloor_next, State.takeLantern_mem, State.returnLantern_mem, State.setCore_mem, State.storeFault_mem]
theorem execFiringComplete_leaves {core : Nat} : LeavesFloor s (execFiringComplete core s) := by
  fun_cases execFiringComplete <;> simp
theorem execRouterForward_leaves {core : Nat} {sel link : BitVec 4} : LeavesFloor s (execRouterForward core sel link s) := by
  fun_cases execRouterForward <;> simp
theorem execLinkFill_leaves {core : Nat} {sel link : BitVec 4} : LeavesFloor s (execLinkFill core sel link s) := by
  fun_cases execLinkFill <;> simp
theorem execStoreSoftError_leaves {core addr : Nat} {uncorrectable : Bool} : LeavesFloor s (execStoreSoftError core addr uncorrectable s) := by
  fun_cases execStoreSoftError <;> simp
theorem execCoreWindowCommandApply_leaves {core seq : Nat} : LeavesFloor s (execCoreWindowCommandApply core seq s) := by
  fun_cases execCoreWindowCommandApply <;> simp
theorem execHmsetWrite_leaves {core seq : Nat} : LeavesFloor s (execHmsetWrite core seq s) := by simp [execHmsetWrite]
theorem execHmclrWrite_leaves {core seq : Nat} : LeavesFloor s (execHmclrWrite core seq s) := by simp [execHmclrWrite]
theorem execLoopGuardWrite_leaves {core seq : Nat} : LeavesFloor s (execLoopGuardWrite core seq s) := by simp [execLoopGuardWrite]
theorem execCoreRegisterWrite_leaves {core seq : Nat} : LeavesFloor s (execCoreRegisterWrite core seq s) := by simp [execCoreRegisterWrite]
theorem execLinkReplay_leaves {link : LinkId} : LeavesFloor s (execLinkReplay link s) := by
  fun_cases execLinkReplay <;> simp
theorem execUncorrectableLinkError_leaves {link : LinkId} : LeavesFloor s (execUncorrectableLinkError link s) := by
  fun_cases execUncorrectableLinkError <;> simp +zetaDelta
theorem execEchoProbeSend_leaves {core : Nat} : LeavesFloor s (execEchoProbeSend core s) := by
  fun_cases execEchoProbeSend <;> simp +zetaDelta
theorem execEchoProbeHop_leaves {probe : Nat} : LeavesFloor s (execEchoProbeHop probe s) := by
  fun_cases execEchoProbeHop <;> simp +zetaDelta
theorem execEdgeLoadBeat_leaves {core : Nat} {slot : Fin 4} : LeavesFloor s (execEdgeLoadBeat core slot s) := by
  fun_cases execEdgeLoadBeat <;> simp
theorem execEdgeStoreElement_leaves {core : Nat} {slot : Fin 4} : LeavesFloor s (execEdgeStoreElement core slot s) := by
  fun_cases execEdgeStoreElement <;> simp
theorem execQuantisingStoreBlock_leaves {core : Nat} {slot : Fin 4} : LeavesFloor s (execQuantisingStoreBlock core slot s) := by
  fun_cases execQuantisingStoreBlock <;> simp
theorem execIndexTokenTake_leaves {core : Nat} {slot : Fin 4} : LeavesFloor s (execIndexTokenTake core slot s) := by
  fun_cases execIndexTokenTake <;> grind [leavesFloor_next, State.wholeToken_mem, State.takeToken_mem, State.setEdge_mem, State.readToken_mem]
theorem execPermitTake_leaves {core : Nat} {slot : Fin 4} : LeavesFloor s (execPermitTake core slot s) := by
  fun_cases execPermitTake <;> simp
theorem execAcquireTake_leaves {core : Nat} {slot : Fin 4} : LeavesFloor s (execAcquireTake core slot s) := by
  fun_cases execAcquireTake <;> simp
theorem execCompletionToken_leaves {core : Nat} {slot : Fin 4} : LeavesFloor s (execCompletionToken core slot s) := by
  fun_cases execCompletionToken <;> grind [leavesFloor_next, State.storeFree_mem, State.setCore_mem, State.send_mem]
theorem execTranslationToken_leaves {core : Nat} {slot : Fin 4} : LeavesFloor s (execTranslationToken core slot s) := by
  fun_cases execTranslationToken <;> grind [leavesFloor_next, State.fillClosed_mem, State.translationWord_mem, State.setEdge_mem, State.setCore_mem]
theorem execEraseElement_leaves {core : Nat} {slot : Fin 4} : LeavesFloor s (execEraseElement core slot s) := by
  fun_cases execEraseElement <;> simp
theorem execEdgeRetry_leaves {core : Nat} {slot : Fin 4} : LeavesFloor s (execEdgeRetry core slot s) := by
  fun_cases execEdgeRetry <;> grind [leavesFloor_next, State.loadRetry_mem, State.dropLatches_mem, State.edgeResume_mem, State.storeRetry_mem,
    State.setEdge_mem]
theorem execWithholdLimit_leaves {core : Nat} {slot : Fin 4} : LeavesFloor s (execWithholdLimit core slot s) := by
  fun_cases execWithholdLimit <;> simp +zetaDelta
theorem execThaw_leaves {region : Nat} : LeavesFloor s (execThaw region s) := by
  fun_cases execThaw <;> simp +zetaDelta
theorem execBlockIssue_leaves {seq : Nat} : LeavesFloor s (execBlockIssue seq s) := by
  fun_cases execBlockIssue <;> grind [leavesFloor_next, State.setSeq_mem, State.fetchCodes_mem, State.fetchCode_mem, State.takeTrap_mem]
theorem execBlockCommit_leaves {seq : Nat} : LeavesFloor s (execBlockCommit seq s) := by
  fun_cases execBlockCommit <;> grind [leavesFloor_next, State.setSeq_mem, State.fresh_mem, State.sendEffects_mem]
theorem execAsyncTrapTake_leaves {seq : Nat} : LeavesFloor s (execAsyncTrapTake seq s) := by
  fun_cases execAsyncTrapTake <;> grind [leavesFloor_next, State.setSeq_mem, State.suspend_mem]
theorem execReplyResult_leaves {seq index : Nat} : LeavesFloor s (execReplyResult seq index s) := by
  fun_cases execReplyResult <;> simp
theorem execWfeWake_leaves {seq : Nat} : LeavesFloor s (execWfeWake seq s) := by
  fun_cases execWfeWake <;> simp
theorem execYieldExpiry_leaves {seq : Nat} : LeavesFloor s (execYieldExpiry seq s) := by
  fun_cases execYieldExpiry <;> simp
theorem execSeqWindowFill_leaves {seq index : Nat} : LeavesFloor s (execSeqWindowFill seq index s) := by
  fun_cases execSeqWindowFill <;> simp
theorem execEventRecordDeliver_leaves {seq : Nat} : LeavesFloor s (execEventRecordDeliver seq s) := by
  fun_cases execEventRecordDeliver <;> simp
theorem execStealApply_leaves {seq index : Nat} : LeavesFloor s (execStealApply seq index s) := by
  fun_cases execStealApply
  case case4 t _ _ vals u taken _ =>
    simpa using State.takeRecord_mem _ taken
  all_goals simp
theorem execSeqNop_leaves {kind : SeqNopKind} {x : Bool} {x2 : Pred} : LeavesFloor s (execSeqNop kind x x2 s) := by
  cases kind <;> exact plainWord_leaves
theorem execWidGet_leaves {d x1 : Reg} {f : BitVec 3} {x : Bool} {x4 : Pred} : LeavesFloor s (execWidGet d x1 f x x4 s) :=
  runWord_leaves fun _ _ => by split <;> rfl
theorem execWidSet_leaves {x0 a : Reg} {f : BitVec 3} {x : Bool} {x4 : Pred} : LeavesFloor s (execWidSet x0 a f x x4 s) :=
  runWord_leaves fun _ _ => by split <;> rfl
theorem execLd_leaves {d a : Reg} {w : BitVec 2} {u : BitVec 1} {off : BitVec 10} {x5 : Pred} : LeavesFloor s (execLd d a w u off x5 s) :=
  runWord_leaves fun _ _ => by grind [loadControl_mem, loadMemory_mem]
theorem execLdx_leaves {d a : Reg} {w : BitVec 2} {u : BitVec 1} {p : Pred} {off : BitVec 7} {x6 : Pred} :
    LeavesFloor s (execLdx d a w u p off x6 s) :=
  runWord_leaves fun _ _ => by grind [loadMemory_mem]
theorem execVerase_leaves {a : Reg} {x : Bool} {g : Pred} : LeavesFloor s (execVerase a x g s) :=
  runWord_leaves fun _ _ => by grind [State.reach_mem, queueAccess_mem]
theorem execPublish_leaves {d a : Reg} {scope : BitVec 4} {x : Bool} {x4 : Pred} : LeavesFloor s (execPublish d a scope x x4 s) :=
  runWord_leaves fun _ _ => by split <;> rfl
theorem execWrdLocal_leaves {d : Reg} {imm : BitVec 12} {m : BitVec 3} {x3 : Pred} : LeavesFloor s (execWrdLocal d imm m x3 s) :=
  localWord_leaves fun _ _ => by dsimp only; split <;> rfl
theorem execWflLocal_leaves {d : Reg} {x1 : BitVec 12} {m : BitVec 3} {x3 : Pred} : LeavesFloor s (execWflLocal d x1 m x3 s) :=
  localWord_leaves fun _ _ => by dsimp only; split <;> rfl
theorem execWshrLocal_leaves {imm : BitVec 12} {m : BitVec 3} {x : Bool} {x3 : Pred} : LeavesFloor s (execWshrLocal imm m x x3 s) :=
  localWord_leaves fun _ _ => by dsimp only; split <;> rfl
theorem execWstLocal_leaves {d : Reg} {imm : BitVec 12} {m : BitVec 3} {x3 : Pred} : LeavesFloor s (execWstLocal d imm m x3 s) :=
  localWord_leaves fun _ _ => by dsimp only; split <;> rfl
theorem execSwapPlace_leaves {core : Nat} {win : Fin 16} : LeavesFloor s (execSwapPlace core win s) := by
  fun_cases execSwapPlace <;> simp
theorem execFlip_leaves {core : Nat} : LeavesFloor s (execFlip core s) := by
  fun_cases execFlip <;> grind [leavesFloor_next, State.endSwap_mem, State.setCore_mem]
theorem execSwapPortSend_leaves {core : Nat} {port : Fin 4} : LeavesFloor s (execSwapPortSend core port s) := by
  fun_cases execSwapPortSend <;> simp
theorem execStillnessReport_leaves {region : Nat} : LeavesFloor s (execStillnessReport region s) := by
  fun_cases execStillnessReport <;> simp +zetaDelta
theorem execDrainComplete_leaves {region : Nat} : LeavesFloor s (execDrainComplete region s) := by
  fun_cases execDrainComplete <;> grind [leavesFloor_next, State.endDrain_mem, State.drainImage_mem, State.setRegion_mem]
theorem execTaskFill_leaves {a x1 : Reg} {m : BitVec 3} {x : Bool} {x4 : Pred} : LeavesFloor s (execTaskFill a x1 m x x4 s) :=
  localWord_leaves fun _ _ => by dsimp only; split <;> rfl
theorem execTaskTake_leaves {d x1 x2 : Reg} {m : BitVec 3} {x : Bool} {x5 : Pred} : LeavesFloor s (execTaskTake d x1 x2 m x x5 s) :=
  localWord_leaves fun _ _ => rfl
theorem execTaskSteal_leaves {d a x2 : Reg} {m : BitVec 3} {x : Bool} {x5 : Pred} : LeavesFloor s (execTaskSteal d a x2 m x x5 s) :=
  runWord_leaves fun _ _ => by grind [State.fresh_mem]
theorem execTaskDone_leaves {d a b : Reg} {m : BitVec 3} {x : Bool} {g : Pred} : LeavesFloor s (execTaskDone d a b m x g s) :=
  runWord_leaves fun _ _ => by grind [State.reach_mem, queueAccess_mem]
theorem execXlat_leaves {d a : Reg} {x2 : BitVec 4} {x3 : BitVec 1} {x : Bool} {x5 : Pred} : LeavesFloor s (execXlat d a x2 x3 x x5 s) :=
  runWord_leaves fun _ _ => by grind [State.xlat_mem]
theorem execRelatchToken_leaves {core index : Nat} : LeavesFloor s (execRelatchToken core index s) := by
  fun_cases execRelatchToken <;> simp +zetaDelta
theorem execNetBind_leaves {d a b : Reg} {x : Bool} {g : Pred} : LeavesFloor s (execNetBind d a b x g s) :=
  commandWord_leaves (fun _ _ => by simp) fun _ _ _ => State.applyNet_mem fun _ _ => State.withDescriptor_mem fun _ _ => by simp
theorem execCsrr_leaves {d x1 : Reg} {csr : BitVec 10} {x3 : Pred} : LeavesFloor s (execCsrr d x1 csr x3 s) :=
  runWord_leaves fun _ _ => by split <;> rfl
theorem execCsrw_leaves {a : Reg} {csr : BitVec 10} {x : Bool} {x3 : Pred} : LeavesFloor s (execCsrw a csr x x3 s) :=
  runWord_leaves fun _ _ => by split <;> rfl
theorem execRegionEnd_leaves {region : Nat} : LeavesFloor s (execRegionEnd region s) := by
  fun_cases execRegionEnd <;>
    grind [leavesFloor_next, foldl_mem, State.setSeq_mem, State.dropTraffic_mem, State.setRegion_mem, State.releaseHandles_mem,
      State.instanceGone_mem, State.dieFreed_mem, State.endMailbox_mem]
theorem execRegionRestore_leaves {region : Nat} : LeavesFloor s (execRegionRestore region s) := by
  fun_cases execRegionRestore <;> simp
theorem execDiePacketDeliver_leaves {index : Nat} : LeavesFloor s (execDiePacketDeliver index s) := by
  fun_cases execDiePacketDeliver <;> simp
theorem execPageWalkComplete_leaves {cluster ctx : Nat} {va : BitVec 56} :
    LeavesFloor s (execPageWalkComplete cluster ctx va s) := by simp [execPageWalkComplete]
theorem execArbitrationRound_leaves {die : Fin 16} : LeavesFloor s (execArbitrationRound die s) := by
  fun_cases execArbitrationRound <;> simp
theorem execDispatchCopy_leaves : LeavesFloor s (execDispatchCopy s) := by simp [execDispatchCopy]
theorem execPacketCompletion_leaves {index : Nat} : LeavesFloor s (execPacketCompletion index s) := by
  fun_cases execPacketCompletion <;> grind [leavesFloor_next, State.completeSeq_mem, State.completeHost_mem]
theorem execPackageEvent_leaves {index : Nat} : LeavesFloor s (execPackageEvent index s) := by
  fun_cases execPackageEvent <;> simp
theorem execCompletionHeadWrite_leaves {window : Nat} {value : Word} : LeavesFloor s (execCompletionHeadWrite window value s) := by
  fun_cases execCompletionHeadWrite <;> simp
theorem execFeataWrite_leaves {high : Bool} {value : Word} : LeavesFloor s (execFeataWrite high value s) := by
  fun_cases execFeataWrite <;> simp
theorem execDieRegisterWrite_leaves {die : Fin 16} {seq : Nat} : LeavesFloor s (execDieRegisterWrite die seq s) := by simp [execDieRegisterWrite]
theorem execSetBypassLimit_leaves {start : Word} : LeavesFloor s (execSetBypassLimit start s) := by
  fun_cases execSetBypassLimit <;> simp +zetaDelta
theorem execClockStep_leaves {up : Bool} : LeavesFloor s (execClockStep up s) := by
  fun_cases execClockStep <;> simp
theorem execBandwidthDegraded_leaves {on : Bool} : LeavesFloor s (execBandwidthDegraded on s) := by simp [execBandwidthDegraded]
theorem execBringUp_leaves {fail : BitVec 4} : LeavesFloor s (execBringUp fail s) := by
  fun_cases execBringUp <;> grind [leavesFloor_next]
theorem execUcieRetrain_leaves {ok : Bool} : LeavesFloor s (execUcieRetrain ok s) := by
  fun_cases execUcieRetrain <;> simp
theorem execNetReadServe_leaves {handle msg addr : Nat} {span : ReadSpan} : LeavesFloor s (execNetReadServe handle msg addr span s) := by
  fun_cases execNetReadServe <;> grind [leavesFloor_next, State.rangeMapped_mem, State.serveAgain_mem, State.answers_mem, State.answerRead_mem]
theorem execRemoteCompletion_leaves {handle msg : Nat} : LeavesFloor s (execRemoteCompletion handle msg s) := by
  fun_cases execRemoteCompletion <;> grind [leavesFloor_next, State.fillCompletion_mem, State.holdRecord_mem, State.endInMsg_mem]
theorem execLocalCompletion_leaves {index answer : Nat} : LeavesFloor s (execLocalCompletion index answer s) := by
  fun_cases execLocalCompletion <;> simp
theorem execPacketRetransmit_leaves {index packet : Nat} : LeavesFloor s (execPacketRetransmit index packet s) := by
  fun_cases execPacketRetransmit <;> grind [leavesFloor_next, State.answerAgain_mem, State.sendAgain_mem, State.sendBytes_mem, State.sendRequest_mem]
theorem execAckReceive_leaves {handle : Nat} {ack : NetAck} : LeavesFloor s (execAckReceive handle ack s) := by
  fun_cases execAckReceive <;> grind [leavesFloor_next, State.failConns_mem, State.acknowledge_mem, State.setConn_mem]
theorem execConnectionFail_leaves {failure : ConnFailure} : LeavesFloor s (execConnectionFail failure s) := by
  fun_cases execConnectionFail <;> simp
theorem execLinkLevelRetry_leaves {replay : FrameReplay} : LeavesFloor s (execLinkLevelRetry replay s) := by
  fun_cases execLinkLevelRetry <;> simp
theorem execLinkOutOfService_leaves {port : Fin 16} : LeavesFloor s (execLinkOutOfService port s) := by
  fun_cases execLinkOutOfService <;> simp +zetaDelta
theorem execHardLimitStop_leaves : LeavesFloor s (execHardLimitStop s) := by
  fun_cases execHardLimitStop <;> simp

/-! ## Every instruction and event -/

/-- The instructions and events that store bytes to the floor. -/
def writesFloor : Instr → Bool
  | .checkpointSave .. | .launch .. | .regionFreeze .. | .sliceApply .. | .vugHomeApply .. | .poolChange .. | .queueAppend ..
  | .hostRegisterWrite .. | .cancel | .quote | .messagePacketPlace .. => true
  | _ => false

/-- Every other instruction and event leaves the floor as it was: a word by what its form allows, an event by what its own operations leave. -/
theorem exec_leaves {i : Instr} (h : writesFloor i = false) : LeavesFloor s (exec i s) := by
  cases i
  all_goals dsimp only [exec]
  case ret | exitr =>
    exact targetWord_leaves
  case stageNop | stageStop | stageMov | stageSel | iadd | isub | imul | imad | iand | ior | ixor | iandn | ishl | ishr | isra | icmp | imin | imax
      | ipopc | iclz | fadd | fsub | fmul | fma | fms | fmax | fmin | fabs | fneg | fcmp | fclass | frnd | frcp | frsq | fexp2 | flog2 | fscale |
      cvtFi | cvtIf | acc | fmab | dot | rmax | rmin | ramax | steer | merge | join | cmpx | cpr | stageMark | strip | gate | cnt | bcast | shuf |
      pack | unpack | wupd | wfill | shrink | wcnt =>
    exact runStage_leaves
  case halt | wfe | yield | eret | trap | exitWord | call | seqSel | li | lea | cmp | pand | por | pnot =>
    exact plainWord_leaves
  case add | sub | mul | mulh | mulhu | div | divu | rem | remu | andW | orW | xorW | shl | shr | sra | minW | maxW | minu | maxu =>
    exact intWord_leaves
  case clz | ctz | popc | addi | andi | ori | xori | shli | shri | srai | lui =>
    exact unaryWord_leaves
  case st | wrdCore | wflCore | wshrCore | wstCore | sbind | sgo | sstop | sbar | tlbinv | relatch | lantReq | lantRel | netWrite | netRead |
      netSend | netStat =>
    exact commandWord_leaves (fun _ _ => by simp) fun _ _ _ => by simp
  case amoAdd | amoAnd | amoOr | amoXor | amoMin | amoMax | amoMinu | amoMaxu | amoSwap | cas =>
    exact atomicWord_leaves
  case fence | time =>
    exact runWord_leaves fun _ _ => rfl
  case cfgLoad | cfgShadow | cfgSwap | cfgDrain | cfgPhase | cfgSig =>
    exact commandWord_leaves (fun _ _ => by simp) fun _ _ _ => State.applyConfig_mem fun _ _ _ _ => by simp
  case ctxCreate | ctxDestroy | qCreate | qDestroy | preempt | restore | mailboxUnknown =>
    exact mailboxCommand_leaves fun _ => by simp
  case firingIssue => exact execFiringIssue_leaves
  case firingComplete => exact execFiringComplete_leaves
  case routerForward => exact execRouterForward_leaves
  case linkFill => exact execLinkFill_leaves
  case storeSoftError => exact execStoreSoftError_leaves
  case coreWindowCommandApply => exact execCoreWindowCommandApply_leaves
  case hmsetWrite => exact execHmsetWrite_leaves
  case hmclrWrite => exact execHmclrWrite_leaves
  case loopGuardWrite => exact execLoopGuardWrite_leaves
  case coreRegisterWrite => exact execCoreRegisterWrite_leaves
  case linkReplay => exact execLinkReplay_leaves
  case uncorrectableLinkError => exact execUncorrectableLinkError_leaves
  case echoProbeSend => exact execEchoProbeSend_leaves
  case echoProbeHop => exact execEchoProbeHop_leaves
  case edgeLoadBeat => exact execEdgeLoadBeat_leaves
  case edgeStoreElement => exact execEdgeStoreElement_leaves
  case quantisingStoreBlock => exact execQuantisingStoreBlock_leaves
  case indexTokenTake => exact execIndexTokenTake_leaves
  case permitTake => exact execPermitTake_leaves
  case acquireTake => exact execAcquireTake_leaves
  case completionToken => exact execCompletionToken_leaves
  case translationToken => exact execTranslationToken_leaves
  case eraseElement => exact execEraseElement_leaves
  case edgeRetry => exact execEdgeRetry_leaves
  case withholdLimit => exact execWithholdLimit_leaves
  case thaw => exact execThaw_leaves
  case blockIssue => exact execBlockIssue_leaves
  case blockCommit => exact execBlockCommit_leaves
  case asyncTrapTake => exact execAsyncTrapTake_leaves
  case replyResult => exact execReplyResult_leaves
  case wfeWake => exact execWfeWake_leaves
  case yieldExpiry => exact execYieldExpiry_leaves
  case seqWindowFill => exact execSeqWindowFill_leaves
  case eventRecordDeliver => exact execEventRecordDeliver_leaves
  case stealApply => exact execStealApply_leaves
  case seqNop => exact execSeqNop_leaves
  case widGet => exact execWidGet_leaves
  case widSet => exact execWidSet_leaves
  case ld => exact execLd_leaves
  case ldx => exact execLdx_leaves
  case verase => exact execVerase_leaves
  case publish => exact execPublish_leaves
  case wrdLocal => exact execWrdLocal_leaves
  case wflLocal => exact execWflLocal_leaves
  case wshrLocal => exact execWshrLocal_leaves
  case wstLocal => exact execWstLocal_leaves
  case swapPlace => exact execSwapPlace_leaves
  case flip => exact execFlip_leaves
  case swapPortSend => exact execSwapPortSend_leaves
  case stillnessReport => exact execStillnessReport_leaves
  case drainComplete => exact execDrainComplete_leaves
  case taskFill => exact execTaskFill_leaves
  case taskTake => exact execTaskTake_leaves
  case taskSteal => exact execTaskSteal_leaves
  case taskDone => exact execTaskDone_leaves
  case xlat => exact execXlat_leaves
  case relatchToken => exact execRelatchToken_leaves
  case netBind => exact execNetBind_leaves
  case csrr => exact execCsrr_leaves
  case csrw => exact execCsrw_leaves
  case regionEnd => exact execRegionEnd_leaves
  case regionRestore => exact execRegionRestore_leaves
  case diePacketDeliver => exact execDiePacketDeliver_leaves
  case pageWalkComplete => exact execPageWalkComplete_leaves
  case arbitrationRound => exact execArbitrationRound_leaves
  case dispatchCopy => exact execDispatchCopy_leaves
  case packetCompletion => exact execPacketCompletion_leaves
  case packageEvent => exact execPackageEvent_leaves
  case completionHeadWrite => exact execCompletionHeadWrite_leaves
  case feataWrite => exact execFeataWrite_leaves
  case dieRegisterWrite => exact execDieRegisterWrite_leaves
  case setBypassLimit => exact execSetBypassLimit_leaves
  case clockStep => exact execClockStep_leaves
  case bandwidthDegraded => exact execBandwidthDegraded_leaves
  case bringUp => exact execBringUp_leaves
  case ucieRetrain => exact execUcieRetrain_leaves
  case netReadServe => exact execNetReadServe_leaves
  case remoteCompletion => exact execRemoteCompletion_leaves
  case localCompletion => exact execLocalCompletion_leaves
  case packetRetransmit => exact execPacketRetransmit_leaves
  case ackReceive => exact execAckReceive_leaves
  case connectionFail => exact execConnectionFail_leaves
  case linkLevelRetry => exact execLinkLevelRetry_leaves
  case linkOutOfService => exact execLinkOutOfService_leaves
  case hardLimitStop => exact execHardLimitStop_leaves
  all_goals cases h

end Sys2Proof.Machine
end

section
/-! PROOFS. A whole step: what a move of the agenda comes to, and that every step keeps the floor in its canonical form (14 R301, R303). -/

namespace Sys2Proof.Machine

variable {s : State}

/-- Every instruction and event keeps the canonical form: eleven of them store bytes, and the others leave the floor as it was. -/
theorem exec_canonical {i : Instr} (h : Memory.wf s.mem = true) : NextCanonical (exec i s) := by
  cases stores : writesFloor i with
  | false => exact (exec_leaves stores).nextCanonical h
  | true =>
    cases i
    all_goals dsimp only [exec]
    case sliceApply => exact execSliceApply_canonical h
    case vugHomeApply => exact execVugHomeApply_canonical h
    case poolChange => exact execPoolChange_canonical h
    case launch => exact execLaunch_canonical h
    case queueAppend => exact execQueueAppend_canonical h
    case hostRegisterWrite => exact execHostRegisterWrite_canonical h
    case messagePacketPlace => exact execMessagePacketPlace_canonical h
    case cancel => exact mailboxCommand_canonical h (wf_cancel h)
    case quote => exact mailboxCommand_canonical h (wf_quote h)
    case checkpointSave => exact execCheckpointSave_canonical h
    case regionFreeze => exact execRegionFreeze_canonical h
    all_goals cases stores

/-- The state in which what a move comes to begins. -/
def Fetched.state : Fetched → State
  | .run _ s => s
  | .reads _ s => s
  | .done s => s

theorem State.fetchSeq_mem {q : Nat} : (s.fetchSeq q).state.mem = s.mem := by
  fun_cases State.fetchSeq <;> simp [Fetched.state]

theorem State.fetchStage_mem {n k : Nat} : (s.fetchStage n k).state.mem = s.mem := by
  fun_cases State.fetchStage <;> rfl

theorem State.fetchCmd_mem {k : Nat} : (s.fetchCmd k).state.mem = s.mem := by
  fun_cases State.fetchCmd <;> rfl

/-- Finding out what a move comes to leaves the floor as it was. -/
theorem State.fetch_mem {c : Cue} : (s.fetch c).state.mem = s.mem := by
  induction c generalizing s with
  | part c ih => exact ih
  | seqWord q => exact State.fetchSeq_mem
  | stage n k => exact State.fetchStage_mem
  | cmd k => exact State.fetchCmd_mem
  | _ => simp [State.fetch, Fetched.state]

theorem Fetched.outcome_canonical {f : Fetched} (h : Memory.wf f.state.mem = true) : NextCanonical f.outcome := by
  cases f with
  | run i s => exact exec_canonical h
  | reads c s => exact nextCanonical_next.mpr (State.readMove_mem.symm ▸ h)
  | done s => exact nextCanonical_next.mpr h

/-- A step keeps the canonical form: the move is found without a store, and what it comes to keeps the form. -/
theorem step_canonical (h : Memory.wf s.mem = true) : NextCanonical (step s) := by
  unfold step
  split
  · simp [NextCanonical]
  · refine Fetched.outcome_canonical ?_
    rw [State.fetch_mem, State.nextCue_mem]
    exact h

end Sys2Proof.Machine

namespace Sys2Proof.Claims

open Sys2Proof.Machine

/-- Settles O54: eleven instructions and events store bytes, each through the sparse memory's own write, which keeps the canonical form; all others
leave the floor as it was. -/
theorem everyStepKeepsMemoryCanonical : Obligations.EveryStepKeepsMemoryCanonical := fun _ t h e => step_canonical h t e

end Sys2Proof.Claims
end

section
/-! PROOFS. Completions and package events enter their windows (18 R343, R344, R355). -/

namespace Sys2Proof.Claims

open Sys2Proof.Machine

variable {s t : State} {i : Nat}

/-! ## Host completion windows (R344) -/

@[simp] theorem hostWin_setHostWin (s : State) (n : Nat) (w : CompWin) : (s.setHostWin n w).hostWin n = w := sparseGet_put_same ..

theorem compWin_room (w : CompWin) (n : Nat) : w.room n = true ↔ (w.tail - w.head).toNat + n ≤ 255 := decide_eq_true_iff

/-- An entry that is written stands at TAIL modulo 255. -/
theorem compWin_write_entry (w : CompWin) (e : Word × Word) : sparseGet (0, 0) (w.write [e]).entries (w.tail.toNat % 255) = e :=
  sparseGet_put_same ..

/-! ## Completions (R343) -/

/-- A completion that no earlier one of its window precedes goes where its kind says, and leaves the list. -/
theorem exec_packetCompletion_enters {c : Completion} (there : s.pkg.completions[i]? = some c)
    (first : ∀ d ∈ s.pkg.completions.take i, c.sameWindow d = false)
    (enters : (if ckind c.words = 1 then s.completeSeq c else s.completeHost c) = some t) :
    exec (.packetCompletion i) s = .next { t with pkg := { t.pkg with completions := dropNth t.pkg.completions i } } := by
  have clear : (s.pkg.completions.take i).any c.sameWindow = false := List.any_eq_false.mpr fun d hd => by simp [first d hd]
  show execPacketCompletion i s = _
  simp [execPacketCompletion, there, clear, enters]

/-- A completion whose window has no room waits. -/
theorem exec_packetCompletion_waits {c : Completion} (there : s.pkg.completions[i]? = some c)
    (waits : (if ckind c.words = 1 then s.completeSeq c else s.completeHost c) = none) : exec (.packetCompletion i) s = .next s := by
  show execPacketCompletion i s = _
  simp [execPacketCompletion, there, waits]

theorem completeHost_writes (s : State) (c : Completion) (room : ((s.hostWin (cwin c.words)).tail - (s.hostWin (cwin c.words)).head).toNat < 255) :
    s.completeHost c =
      some (s.setHostWin (cwin c.words) ((s.hostWin (cwin c.words)).write [(c.lane0.setWidth 64, c.lane1.setWidth 64)])) :=
  if_pos ((compWin_room _ 1).mpr room)

/-- The window of a sequencer that a completion names. -/
def completionWin (c : Completion) : BitVec 3 := BitVec.ofNat 3 (c.words[7].toNat % 8)

/-- The elements that a completion is in its window of a sequencer: one record, or two doublewords. -/
def completionElems (s : State) (c : Completion) : List (List Word) :=
  if mdElem ((s.seq (csid c.words)).desc (completionWin c)) then [[c.lane0.setWidth 64, c.lane1.setWidth 64, 0, 0]]
  else [[c.lane0.setWidth 64], [c.lane1.setWidth 64]]

theorem completeSeq_eq (s : State) (c : Completion) :
    s.completeSeq c =
      if (!mdV ((s.seq (csid c.words)).desc (completionWin c))) = true then
        some (s.packageEvent (seqDie (csid c.words)) 7 (c.lane0.setWidth 64) (c.lane1.setWidth 64))
      else if ((s.seq (csid c.words)).frozen || !(s.seq (csid c.words)).roomFor (completionWin c) (completionElems s c).length) = true then none
      else some (s.setSeq (csid c.words) ((s.seq (csid c.words)).appendAll (completionWin c) (completionElems s c))) := by
  have window : BitVec.ofNat 3 (bv c.words[7] 0 3) = completionWin c := congrArg (BitVec.ofNat 3) (bv_low _ 3)
  simp only [State.completeSeq, window]
  rfl

section
variable {c : Completion}

theorem completeSeq_unbound (unbound : mdV ((s.seq (csid c.words)).desc (completionWin c)) = false) :
    s.completeSeq c = some (s.packageEvent (seqDie (csid c.words)) 7 (c.lane0.setWidth 64) (c.lane1.setWidth 64)) := by
  rw [completeSeq_eq, unbound]
  rfl

theorem completeSeq_fills (bound : mdV ((s.seq (csid c.words)).desc (completionWin c)) = true) (going : (s.seq (csid c.words)).frozen = false)
    (room : (s.seq (csid c.words)).roomFor (completionWin c) (completionElems s c).length = true) :
    s.completeSeq c = some (s.setSeq (csid c.words) ((s.seq (csid c.words)).appendAll (completionWin c) (completionElems s c))) := by
  rw [completeSeq_eq, bound, going, room]
  rfl

theorem completeSeq_waits (bound : mdV ((s.seq (csid c.words)).desc (completionWin c)) = true)
    (full : (s.seq (csid c.words)).roomFor (completionWin c) (completionElems s c).length = false) : s.completeSeq c = none := by
  rw [completeSeq_eq, bound, full, Bool.not_false, Bool.or_true]
  rfl

end

/-! ## Package events (R355) -/

/-- An event that no earlier one of its source precedes is written where window 255 has room for it. -/
theorem exec_packageEvent_enters {e : EventRec} (there : s.pkg.events[i]? = some e)
    (first : ∀ d ∈ s.pkg.events.take i, d[1].toNat % 2 ^ 24 ≠ e[1].toNat % 2 ^ 24) (room : (s.hostWin 255).room 2 = true) :
    let t := s.setHostWin 255 ((s.hostWin 255).write [(e[0], e[1]), (e[2], e[3])])
    exec (.packageEvent i) s = .next { t with pkg := { t.pkg with events := dropNth s.pkg.events i } } := by
  have clear : (s.pkg.events.take i).any (fun d => bv d[1] 0 24 == bv e[1] 0 24) = false :=
    List.any_eq_false.mpr fun d hd => by simpa [bv_low] using first d hd
  show execPackageEvent i s = _
  simp [execPackageEvent, there, room, clear]

/-- Settles O44: the first completion of a window enters it as `completeHost_writes`, `completeSeq_fills` and `completeSeq_unbound` say, or waits for
room; the first package event of a source enters window 255. -/
theorem completionsEnterTheirWindows : Obligations.CompletionsEnterTheirWindows := by
  refine ⟨fun s i c there first host => ?host,
    fun s i c there first seq => ⟨fun bound going room => ?fills, fun bound full => ?waits, fun unbound => ?unbound⟩,
    fun s i e there first => ?event⟩
  case host =>
    intro w room
    have kind : ckind c.words ≠ 1 := by omega
    refine ⟨_, exec_packetCompletion_enters there first ((if_neg kind).trans (completeHost_writes s c room)), rfl, ?_⟩
    have after := hostWin_setHostWin s (cwin c.words) (w.write [(c.lane0.setWidth 64, c.lane1.setWidth 64)])
    exact ⟨congrArg CompWin.tail after, (congrArg CompWin.head after :),
      (congrArg (fun x : CompWin => sparseGet (0, 0) x.entries (w.tail.toNat % 255)) after).trans (compWin_write_entry w _)⟩
  case fills => exact exec_packetCompletion_enters there first ((if_pos seq).trans (completeSeq_fills bound going room))
  case waits => exact exec_packetCompletion_waits there ((if_pos seq).trans (completeSeq_waits bound full))
  case unbound => exact ⟨_, exec_packetCompletion_enters there first ((if_pos seq).trans (completeSeq_unbound unbound)), rfl, rfl⟩
  case event =>
    intro w room
    exact ⟨_, exec_packageEvent_enters there first ((compWin_room w 2).mpr room), rfl, congrArg CompWin.tail (hostWin_setHostWin s 255 _)⟩

end Sys2Proof.Claims
end

section
/-! PROOFS. What the host writes takes effect (18 R335, R337, R338, R344, R347, R353). -/

namespace Sys2Proof.Claims

open Sys2Proof.Machine

variable {s : State}

theorem leBytes_length (n v : Nat) : (leBytes n v).length = n := by
  induction n generalizing v with
  | zero => rfl
  | succ n ih => exact congrArg (· + 1) (ih _)

/-! ## Registers of the host window (R335, R337, R344, R353) -/

theorem exec_completionHeadWrite {c : Nat} {v : Word} (trained : s.pkg.ucieTrained = true) (window : c < 256) :
    let w := s.hostWin c
    exec (.completionHeadWrite c v) s =
      if (v - w.head).toNat ≤ (w.tail - w.head).toNat then .next (s.setHostWin c { w with head := v }) else .next s := by
  show execCompletionHeadWrite c v s = _
  simp [execCompletionHeadWrite, State.hostReaches, trained, window]

/-- The lower half of FEATA is written while no context exists, as far as the module offers the features. -/
theorem exec_feataWrite_low {v : Word} (trained : s.pkg.ucieTrained = true) :
    exec (.feataWrite false v) s =
      if s.pkg.ctxs = [] then
        .next { s with pkg := { s.pkg with
          feata := (v.setWidth 128 ||| (s.pkg.feata &&& (0xFFFFFFFFFFFFFFFF <<< 64))) &&& Config.offeredFeatures } }
      else .next s := by
  show execFeataWrite false v s = _
  simp [execFeataWrite, State.hostReaches, trained, List.isEmpty_iff]

theorem exec_hostRegisterWrite {offset : Nat} {v : Word} (trained : s.pkg.ucieTrained = true) (aligned : offset % 8 = 0) :
    exec (.hostRegisterWrite offset v) s = .next (s.hostWrite offset v) := by
  show execHostRegisterWrite offset v s = _
  simp [execHostRegisterWrite, State.hostReaches, trained, aligned]

theorem hostWrite_mailbox (s : State) (k : Fin 8) (v : Word) :
    s.hostWrite (0x1000 + 8 * k) v =
      { s with pkg := { s.pkg with mailbox := { s.pkg.mailbox with m := s.pkg.mailbox.m.set k v } } } := by
  have index : (0x1000 + 8 * k.val - 0x1000) / 8 = k.val := by omega
  rw [State.hostWrite, if_pos (by omega), index, setIfInBounds_eq_set _ k.isLt]

theorem hostWrite_aperture {pa : Nat} (v : Word) (accepted : s.feature featHostMem = true) (low : paReserved pa = false)
    (high : paReserved (pa + 7) = false) :
    s.hostWrite (apertureBase + pa) v = ((s.writeBytes pa (leBytes 8 v.toNat)).repairFloor pa 8).tailStored pa 8 := by
  have base : apertureBase = 0x100000000000 := rfl
  have address : apertureBase + pa - apertureBase = pa := by omega
  rw [State.hostWrite, if_neg (by omega), if_neg (by omega), if_pos (by omega)]
  simp only [address, accepted, low, high, State.putFloor, leBytes_length, Bool.not_false, Bool.and_self, if_true]

/-! ## The bypass limit (R347) -/

/-- What a reservation leaves: all but the reservations, their count and the candidate's place. -/
theorem reserve_keeps {β : Type} (view : State → β)
    (keeps : ∀ t count reserved, view { t with pkg := { t.pkg with reserveCount := count, reserved := reserved } } = view t)
    (s : State) (c : Candidate) : view (s.reserve c).1 = view s := by
  fun_cases State.reserve
  · rfl
  · exact keeps s _ _
  · exact keeps s _ s.pkg.reserved

theorem reserveSlot_regions (s : State) (c : Candidate) : (s.reserveSlot c).regions = s.regions :=
  reserve_keeps State.regions (fun _ _ _ => rfl) s c

theorem reserveSlot_bypassLimit (s : State) (c : Candidate) : (s.reserveSlot c).pkg.bypassLimit = s.pkg.bypassLimit :=
  reserve_keeps (fun t => t.pkg.bypassLimit) (fun _ _ _ => rfl) s c

/-- A candidate over the limit reserves a die that it finds. -/
theorem reserveSlot_reserves {c : Candidate} {d : Nat} (bypassed : s.pkg.bypassLimit < c.bypass) (unplaced : c.reserveOrder = none)
    (found : s.dieToReserve c.offer = some d) : (s.reserveSlot c).pkg.reserved = s.pkg.reserved ++ [(d, c.offer)] := by
  have exceeds : ¬ (c.bypass ≤ s.pkg.bypassLimit ∨ c.reserveOrder.isSome = true) := by simp [unplaced, bypassed]
  have counted : State.dieToReserve { s with pkg := { s.pkg with reserveCount := s.pkg.reserveCount + 1 } } c.offer = some d := found
  simp only [State.reserveSlot, State.reserve, if_neg exceeds, counted]

/-- The state with another bypass limit. -/
def withBypassLimit (s : State) (n : Nat) : State := { s with pkg := { s.pkg with bypassLimit := n } }

/-- A start of the mailbox with bit 4 set takes the limit from its low bits, and the candidates reserve in rank order. -/
theorem exec_setBypassLimit {v : Word} (trained : s.pkg.ucieTrained = true) (sets : v.getLsbD 4 = true) (free : s.pkg.mailbox.running = none) :
    let t := withBypassLimit s (v.toNat % 16)
    exec (.setBypassLimit v) s = .next ((t.rankOrder s.pkg.slots).foldl State.reserveSlot t) := by
  have limit : bv v 0 4 = v.toNat % 16 := bv_low v 4
  show execSetBypassLimit v s = _
  simp [execSetBypassLimit, State.hostReaches, trained, bitAt, sets, free, limit, withBypassLimit]

/-- Settles O45: each write does what the equation of its row says; a candidate alone in its slots is the one that a new limit lets reserve. -/
theorem hostWritesAct : Obligations.HostWritesAct := by
  intro s trained
  refine ⟨fun c v window => ?headMoves, fun c v window => ?headStays, fun v empty => ?feata, fun v taken => ?feataStays, fun k v => ?mailbox,
    fun pa v aligned accepted low high => ?aperture, fun v sets free => ?limit⟩
  case headMoves => exact fun within => (exec_completionHeadWrite trained window).trans (if_pos within)
  case headStays => exact fun beyond => (exec_completionHeadWrite trained window).trans (if_neg (by omega))
  case feata => exact ⟨_, (exec_feataWrite_low trained).trans (if_pos empty), rfl⟩
  case feataStays => exact (exec_feataWrite_low trained).trans (if_neg taken)
  case mailbox => exact ⟨_, exec_hostRegisterWrite trained (by omega), congrArg (fun t : State => t.pkg.mailbox.m) (hostWrite_mailbox s k v)⟩
  case aperture => exact (exec_hostRegisterWrite trained (by omega)).trans (congrArg _ (hostWrite_aperture v accepted low high))
  case limit =>
    refine ⟨_, exec_setBypassLimit trained sets free, ?_, ?_, fun c d one bypassed unplaced found => ?_⟩
    · exact foldl_keeps (f := State.reserveSlot) (fun t => t.pkg.bypassLimit) reserveSlot_bypassLimit _ _
    · exact foldl_keeps (f := State.reserveSlot) State.regions reserveSlot_regions _ _
    · rw [one]
      exact reserveSlot_reserves (s := withBypassLimit s (v.toNat % 16)) bypassed unplaced found

end Sys2Proof.Claims
end

section
/-! PROOFS. Bring-up, the host link, and power (18 R334, R355, R356, R358). -/

namespace Sys2Proof.Claims

open Sys2Proof.Machine

variable {s : State}

/-! ## Bring-up and the link (R334, R358) -/

/-- The next step of bring-up succeeds: the fourth trains UCIe, and time counts from the sixth on. -/
def broughtUp (s : State) : State :=
  let p := { s.pkg with step := s.pkg.step + 1, ucieTrained := s.pkg.ucieTrained || s.pkg.step.toNat + 1 == 4 }
  if s.pkg.step.toNat + 1 = 6 then { s with pkg := p, stamp := 0, stampFrac := 0 } else { s with pkg := p }

theorem broughtUp_pkg (s : State) :
    (broughtUp s).pkg = { s.pkg with step := s.pkg.step + 1, ucieTrained := s.pkg.ucieTrained || s.pkg.step.toNat + 1 == 4 } := by
  rw [broughtUp]
  split <;> rfl

theorem exec_bringUp_succeeds (sound : s.pkg.fail = 0) (more : s.pkg.step.toNat < 6) : exec (.bringUp 0) s = .next (broughtUp s) := by
  have goes : ¬ (s.pkg.fail ≠ 0 ∨ 6 < s.pkg.step.toNat + 1) := by simp [sound]; omega
  show execBringUp 0 s = _
  simp only [execBringUp, if_neg goes]
  rfl

theorem exec_bringUp_fails {f : BitVec 4} (sound : s.pkg.fail = 0) (more : s.pkg.step.toNat < 6) (fails : f ≠ 0)
    (code : f.toNat ∈ failCodes (s.pkg.step.toNat + 1)) :
    exec (.bringUp f) s = .next { s with pkg := { s.pkg with step := s.pkg.step + 1, fail := f } } := by
  have goes : ¬ (s.pkg.fail ≠ 0 ∨ 6 < s.pkg.step.toNat + 1) := by simp [sound]; omega
  show execBringUp f s = _
  simp only [execBringUp, if_neg goes, if_neg fails, if_pos (List.contains_iff_mem.mpr code)]

theorem exec_ucieRetrain (reached : 4 ≤ s.pkg.step.toNat) (sound : s.pkg.fail = 0 ∨ s.pkg.fail = 5) (ok : Bool) :
    exec (.ucieRetrain ok) s = .next { s with pkg := { s.pkg with ucieTrained := ok, fail := if ok then 0 else 5 } } := by
  have goes : ¬ (s.pkg.step.toNat < 4 ∨ (s.pkg.fail ≠ 0 ∧ s.pkg.fail ≠ 5)) := by
    rintro (early | ⟨not0, not5⟩)
    · omega
    · exact sound.elim not0 not5
  show execUcieRetrain ok s = _
  simp only [execUcieRetrain, if_neg goes]
  cases ok <;> rfl

/-! ## The clock (R356) -/

theorem clockMayStep_of (due : ∀ t, s.pkg.lastClockStep = some t → t + 1000000 ≤ s.stamp) : s.clockMayStep = true := by
  rw [State.clockMayStep]
  split
  case h_1 t last => exact decide_eq_true (due t last)
  case h_2 => rfl

theorem exec_clockStep_up (s : State) :
    exec (.clockStep true) s =
      if s.clockMayStep = true ∧ s.pkg.level < 16 ∧ s.pkg.tmax.toNat + fiveDegrees ≤ s.pkg.modrec.thermal.toNat then
        .next (s.stepClock (s.pkg.level + 1))
      else .next s := by
  show execClockStep true s = _
  simp [execClockStep, and_assoc]

theorem exec_clockStep_cool (cool : s.pkg.tmax.toNat ≤ s.pkg.modrec.thermal.toNat) : exec (.clockStep false) s = .next s := by
  show execClockStep false s = _
  simp [execClockStep, Nat.not_lt.mpr cool]

/-- Over the thermal limit at the lowest level, the lantern budgets fall. -/
theorem exec_clockStep_lowest (lowest : s.pkg.level ≤ 8) (hot : s.pkg.modrec.thermal.toNat < s.pkg.tmax.toNat) :
    exec (.clockStep false) s = .next { s with pkg := { s.pkg with reduced := true } } := by
  show execClockStep false s = _
  simp [execClockStep, hot, lowest, Package.rebudget]

theorem exec_clockStep_down (due : s.clockMayStep = true) (above : 8 < s.pkg.level) (hot : s.pkg.modrec.thermal.toNat < s.pkg.tmax.toNat) :
    exec (.clockStep false) s = .next (s.stepClock (s.pkg.level - 1)) := by
  show execClockStep false s = _
  simp [execClockStep, hot, Nat.not_le.mpr above, due]

/-- After a step of the clock the budgets are reduced where the new level is the lowest and TMAX is over the thermal limit. -/
theorem stepClock_reduced (s : State) (level : Nat) :
    (s.stepClock level).pkg.reduced = (decide (level ≤ 8) && decide (s.pkg.modrec.thermal.toNat < s.pkg.tmax.toNat)) := rfl

/-! ## The hard limit (R356) -/

theorem exec_hardLimitStop (s : State) :
    exec .hardLimitStop s =
      if s.pkg.modrec.hard.toNat < s.pkg.tmax.toNat then .next { s with pkg := { s.pkg with stopped := true, fail := 4 } } else .next s := by
  show execHardLimitStop s = _
  simp [execHardLimitStop, Package.overHard]

theorem step_stopped (stopped : s.pkg.stopped = true) : step s = .fault .moduleStopped := if_pos stopped

/-- Settles O48: each event does what the equation of its row says, in the branch that the premises choose. -/
theorem bringUpPowerAndLinks : Obligations.BringUpPowerAndLinks := by
  intro s
  refine ⟨fun sound more => ⟨?succeeds, fun f code fails small => ?fails⟩,
    fun reached sound => ⟨exec_ucieRetrain reached sound true, exec_ucieRetrain reached sound false⟩,
    fun due => ⟨fun below cool => ?up, fun above hot => ?down⟩, exec_clockStep_lowest, fun warm => ?stays, exec_clockStep_cool, fun on => rfl,
    fun hot => (exec_hardLimitStop s).trans (if_pos hot), fun cool => (exec_hardLimitStop s).trans (if_neg (Nat.not_lt.mpr cool)), step_stopped⟩
  case succeeds =>
    refine ⟨_, exec_bringUp_succeeds sound more, ?_⟩
    rw [broughtUp_pkg]
    exact ⟨rfl, sound, fun third => by simp [third]⟩
  case fails =>
    have value : (BitVec.ofNat 4 f).toNat = f := (BitVec.toNat_ofNat ..).trans (Nat.mod_eq_of_lt small)
    refine exec_bringUp_fails sound more (fun zero => fails ?_) (value.symm ▸ code)
    rw [← value, zero]
    rfl
  case up =>
    refine ⟨_, (exec_clockStep_up s).trans (if_pos ⟨clockMayStep_of due, below, cool⟩), rfl, rfl, ?_⟩
    rw [stepClock_reduced, Bool.and_eq_false_iff]
    exact .inr (decide_eq_false (by omega))
  case down =>
    refine ⟨_, exec_clockStep_down (clockMayStep_of due) above hot, rfl, rfl, ?_⟩
    have lowest : s.pkg.level - 1 ≤ 8 ↔ s.pkg.level = 9 := by omega
    rw [stepClock_reduced, decide_eq_true hot, Bool.and_true, decide_eq_decide]
    exact lowest
  case stays => exact (exec_clockStep_up s).trans (if_neg fun ⟨_, _, cool⟩ => Nat.not_le.mpr warm cool)

end Sys2Proof.Claims
end

section
/-! PROOFS. The transport engines (19 R360, R361, R366 to R368, R371 to R374): packets out and in, completions, acknowledgements, failures, links. -/

namespace Sys2Proof.Claims

open Sys2Proof.Machine

variable {s t : State} {h : Nat} {c : Conn}

/-! ## What leaves the record of the engines as it was

An engine's translations and its writes of memory change nothing of `State.fabric`. -/

@[simp] theorem walk_fabric (s : State) (root : Nat) (domains : BitVec 256) (va : Nat) (es : List Nat) :
    (s.walk root domains va es).2.fabric = s.fabric :=
  (s.walk_reads root domains va es).fabric

@[simp] theorem engineTranslate_fabric (s : State) (ctx va : Nat) : (s.engineTranslate ctx va).2.fabric = s.fabric := by
  fun_cases State.engineTranslate <;> grind [walk_fabric]

@[simp] theorem rangeWritable_fabric (s : State) (ctx pages va len : Nat) : (s.rangeWritable ctx pages va len).2.fabric = s.fabric := by
  fun_induction State.rangeWritable <;> grind [engineTranslate_fabric]

theorem writeTarget_fabric (s : State) (c : Conn) (p : NetPacket) : (s.writeTarget c p).2.fabric = s.fabric := by
  fun_cases State.writeTarget <;> grind [rangeWritable_fabric]

@[simp] theorem loadFloor_fabric (s : State) (pa n : Nat) : (s.loadFloor pa n).2.fabric = s.fabric := (s.loadFloor_reads pa n).fabric

@[simp] theorem writeBytes_fabric (s : State) (pa : Nat) (l : List Byte) : (s.writeBytes pa l).fabric = s.fabric := by
  rw [State.writeBytes_frame]

@[simp] theorem writeLE_fabric (s : State) (pa n v : Nat) : (s.writeLE pa n v).fabric = s.fabric := writeBytes_fabric s pa _

theorem storeFloor_fabric {pa : Nat} {data : List Byte} (stored : s.storeFloor pa data = some t) : t.fabric = s.fabric := by
  rw [State.storeFloor_eq stored, writeBytes_fabric, (State.correctFloor_reads _ _ _).fabric, State.repairFloor_fabric]

theorem tailStored_fabric (s : State) (pa n : Nat) : (s.tailStored pa n).fabric = s.fabric := rfl

theorem performAt_fabric (s : State) (a : Access) (pa : Nat) : (s.performAt a pa).state.fabric = s.fabric := by
  fun_cases State.performAt <;> grind [Performed.state, loadFloor_fabric, storeFloor_fabric, tailStored_fabric, writeLE_fabric]

theorem setTile_fabric (s : State) (record n : Nat) (b : Bool) : (s.setTile record n b).fabric = s.fabric := writeLE_fabric s _ _ _

theorem returnFrame_fabric {p : Pool} {f : Nat} (returned : s.returnFrame p f = some t) : t.fabric = s.fabric := by
  revert returned
  fun_cases State.returnFrame <;> grind [tailStored_fabric, storeFloor_fabric, writeLE_fabric]

theorem birth_fabric {record n f : Nat} {p : Pool} (born : s.birth record n p f = some t) : t.fabric = s.fabric := by
  revert born
  fun_cases State.birth <;> grind [setTile_fabric, storeFloor_fabric, writeLE_fabric]

theorem tileExists_fabric (s : State) (record n : Nat) : (s.tileExists record n).2.fabric = s.fabric := (s.tileExists_reads record n).fabric

theorem tileFrame_fabric (s : State) (record n : Nat) : (s.tileFrame record n).2.fabric = s.fabric := loadFloor_fabric s _ _

theorem pool_fabric (s : State) (record : Nat) : (s.pool record).2.fabric = s.fabric := (s.pool_reads record).fabric

theorem applyVug_fabric (s : State) (a : Access) (record : Nat) : (s.applyVug a record).state.fabric = s.fabric := by
  fun_cases State.applyVug <;>
    grind [Performed.state, tileExists_fabric, tileFrame_fabric, pool_fabric, loadFloor_fabric, returnFrame_fabric, setTile_fabric, birth_fabric,
      performAt_fabric]

theorem engineWrite_fabric {ctx fuel va : Nat} {l : List Byte} (written : s.engineWrite ctx fuel va l = some t) : t.fabric = s.fabric := by
  revert written
  fun_induction State.engineWrite <;> grind [engineTranslate_fabric, performAt_fabric, applyVug_fabric, Performed.state]

/-! ## Connections and handles (R363, R371) -/

theorem conn?_handle (found : s.conn? h = some c) : c.handle = h := by simpa using List.find?_some found

theorem Serves.handle (v : Serves s h c) : c.handle = h := conn?_handle v.bound

theorem Serves.connWorks (v : Serves s h c) : s.connWorks c = true := v.works.1

theorem Serves.unfailed (v : Serves s h c) : c.failed = false := v.works.2.1

theorem Serves.unclosed (v : Serves s h c) : c.closing = false := v.works.2.2

theorem conn?_of_conns_eq (same : t.fabric.conns = s.fabric.conns) (h : Nat) : t.conn? h = s.conn? h := by
  rw [State.conn?, State.conn?, same]

/-- A connection that is changed in its place is found under its handle. -/
theorem conn?_setConn {new : Conn} (bound : s.conn? h = some c) (handle : new.handle = h) : (s.setConn new).conn? h = some new := by
  have places : ((fun x : Conn => x.handle == h) ∘ fun x => if x.handle = new.handle then new else x) = fun x => x.handle == h := by
    funext x
    by_cases at_ : x.handle = h <;> simp [at_, handle]
  show (s.fabric.conns.map fun x => if x.handle = new.handle then new else x).find? _ = _
  rw [List.find?_map, places]
  show (s.conn? h).map _ = _
  simp [bound, conn?_handle bound, handle]

/-- Freeing handles keeps what every release keeps. -/
theorem freeHandles_keeps {β : Type} (view : State → β) (keeps : ∀ s h, view (s.release h) = view s) (s : State) :
    view s.freeHandles = view s := by
  refine foldl_keeps view (fun s h => ?_) _ s
  split
  · rfl
  · exact keeps s h

@[simp] theorem freeHandles_msgs (s : State) : s.freeHandles.fabric.msgs = s.fabric.msgs := freeHandles_keeps (·.fabric.msgs) (fun _ _ => rfl) s

@[simp] theorem freeHandles_deadPorts (s : State) : s.freeHandles.fabric.deadPorts = s.fabric.deadPorts :=
  freeHandles_keeps (·.fabric.deadPorts) (fun _ _ => rfl) s

theorem freeHandles_conns_subset (s : State) : s.freeHandles.fabric.conns ⊆ s.fabric.conns := by
  refine List.foldlRecOn (motive := fun t : State => t.fabric.conns ⊆ s.fabric.conns) _ _ (List.Subset.refl _) fun t fewer k _ => ?_
  split
  · exact fewer
  · exact fun x there => fewer (List.mem_filter.mp there).1

/-- Where no connection and no buffer closes, there is no handle to free. -/
theorem freeHandles_of_open (conns : ∀ c ∈ s.fabric.conns, c.closing = false) (bufs : s.fabric.bufs = []) : s.freeHandles = s := by
  have none_ : s.fabric.conns.filter (·.closing) = [] := List.filter_eq_nil_iff.mpr fun c there => by simp [conns c there]
  simp [State.freeHandles, none_, bufs]

@[simp] theorem failConns_deadPorts (s : State) (p : Conn → Bool) : (s.failConns p).fabric.deadPorts = s.fabric.deadPorts := freeHandles_deadPorts _

theorem failConns_fails (s : State) (h : Nat) : ∀ x ∈ (s.failConns fun c => c.handle == h).fabric.conns, x.handle = h → x.failed = true := by
  intro x there named
  obtain ⟨c, -, rfl⟩ := List.mem_map.mp (freeHandles_conns_subset _ there)
  by_cases at_ : c.handle = h
  · simp [at_]
  · simp [at_] at named

theorem failConns_peergone {p : Conn → Bool} {m : NetMsg} (there : m ∈ s.fabric.msgs) (outstanding : m.status = none)
    (fails : ∃ c ∈ s.fabric.conns, c.handle = m.handle ∧ p c = true) : { m with status := some 4 } ∈ (s.failConns p).fabric.msgs := by
  rw [State.failConns, freeHandles_msgs]
  refine List.mem_map.mpr ⟨m, there, if_pos ?_⟩
  simpa [outstanding] using fails

/-! ## Sending (R366, R367, R371, R374) -/

section
variable {i p : Nat} {m : NetMsg} (there : s.fabric.msgs[i]? = some m) (serves : Serves s m.handle c) (outstanding : m.status = none)
  (inside : p < m.packets) (unacked : m.acked.contains p = false)
include there serves outstanding inside unacked

theorem exec_packetRetransmit_again {x : Nat} {w : WirePacket} (kept : m.kept.find? (fun x => x.1 == p) = some (x, w)) :
    exec (.packetRetransmit i p) s = .next (s.sendAgain c w) := by
  show execPacketRetransmit i p s = _
  simp [execPacketRetransmit, there, serves.bound, serves.connWorks, outstanding, Nat.not_le.mpr inside, unacked, kept, -List.contains_eq_mem]

theorem exec_packetRetransmit_first (fresh : m.kept.find? (fun x => x.1 == p) = none) :
    exec (.packetRetransmit i p) s =
      if m.op = .read then .next (s.sendRequest c i m) else if s.sourceWaits m then .next s else .next (s.sendBytes c i m p) := by
  show execPacketRetransmit i p s = _
  simp [execPacketRetransmit, there, serves.bound, serves.connWorks, outstanding, Nat.not_le.mpr inside, unacked, fresh, -List.contains_eq_mem]

end

theorem refuseMsg_unsent {m : NetMsg} (unsent : m.sent = []) (s : State) (i status : Nat) :
    s.refuseMsg i m status = s.setMsg i { m with status := some status } := by simp [State.refuseMsg, unsent]

theorem sendBytes_unmapped {i p : Nat} {m : NetMsg} (unmapped : s.rangeMapped c.ctx 514 m.laddr m.len = (false, t)) (unsent : m.sent = []) :
    s.sendBytes c i m p = t.setMsg i { m with status := some 3 } := by
  rw [State.sendBytes, messagePages, unmapped]
  exact refuseMsg_unsent unsent t i 3

theorem sendBytes_mapped {i p : Nat} {m : NetMsg} {u : State} {l : List Byte} (mapped : s.rangeMapped c.ctx 514 m.laddr m.len = (true, t))
    (read : t.engineRead c.ctx (m.packetLen p / 8 + 2) (m.laddr + (4096 * p - m.low)) (m.packetLen p) = (some l, u)) :
    let base := if m.op = .send then 0 else m.raddr
    s.sendBytes c i m p = sends_ u i m p ⟨m.handle, m.num, m.op, none, base + (4096 * p - m.low), base, m.len, m.tag, m.rc, l⟩ := by
  simp only [State.sendBytes, messagePages, mapped, chunkOff, read]
  cases m.op <;> rfl

theorem sendRequest_unpublished {i : Nat} {m : NetMsg} (none_ : s.bufferHolding c.ctx m.laddr m.len = none) (unsent : m.sent = []) :
    s.sendRequest c i m = s.setMsg i { m with status := some 1 } := by
  rw [State.sendRequest, none_]
  exact refuseMsg_unsent unsent s i 1

theorem sendRequest_published {i : Nat} {m : NetMsg} {b : PubBuf} (held : s.bufferHolding c.ctx m.laddr m.len = some b)
    (writable : s.rangeWritable c.ctx 514 (b.shadow + (m.laddr - b.visible)) m.len = (true, t)) :
    s.sendRequest c i m = sends_ t i m 0 ⟨m.handle, m.num, .read, none, m.raddr, m.laddr, m.len, m.tag, m.rc, []⟩ := by
  rw [State.sendRequest, held]
  simp only [PubBuf.shadowOf, messagePages, writable]
  rfl

theorem packetsOfMessagesAreSent : PacketsOfMessagesAreSent := by
  intro s i m c p there serves outstanding inside unacked
  have first := exec_packetRetransmit_first there serves outstanding inside unacked
  refine ⟨fun x w kept => exec_packetRetransmit_again there serves outstanding inside unacked kept, fun notRead fresh => ?bytes,
    fun read unsent fresh => ?request⟩
  case bytes =>
    have sends := (first fresh).trans (if_neg notRead)
    refine ⟨fun waits => ?_, fun s1 ready unmapped unsent => ?_, fun s1 l s2 ready mapped => ?_⟩
    · rw [sends, if_pos waits]
    · rw [sends, ready, if_neg Bool.false_ne_true, sendBytes_unmapped unmapped unsent]
    · intro off n base loaded w
      rw [sends, ready, if_neg Bool.false_ne_true, sendBytes_mapped mapped loaded]
  case request =>
    have sends := (first (by rw [fresh]; rfl)).trans (if_pos read)
    refine ⟨fun none_ => ?_, fun b s1 held writable => ?_⟩
    · rw [sends, sendRequest_unpublished none_ unsent]
    · rw [sends, sendRequest_published held writable]

/-! ## Receiving (R360, R366, R368) -/

/-- Without NET the engines take no packet (R360). -/
theorem exec_messagePacketPlace_refused (p : NetPacket) (off : s.feature 2 = false) : exec (.messagePacketPlace p) s = .next s := by
  show execMessagePacketPlace p s = _
  rw [execMessagePacketPlace]
  split
  · rfl
  · simp [featNet, off]

theorem exec_messagePacketPlace {p : NetPacket} (serves : Serves s p.handle c) :
    exec (.messagePacketPlace p) s = .next ((if p.kind = .readReply then s.placeAnswer c p else s.placeMessage c p).getD s) := by
  show execMessagePacketPlace p s = _
  simp [execMessagePacketPlace, serves.bound, serves.unfailed, featNet, serves.net]

/-- A message stands among those that arrive. -/
def arriving (s : State) (m : InMsg) : State := { s with fabric := { s.fabric with inMsgs := s.fabric.inMsgs ++ [m] } }

/-- A packet is the whole of a message, as one write of at most 4096 bytes is (R366). -/
structure WholeWrite (p : NetPacket) : Prop where
  kind : p.kind = .write
  noRecord : p.rc = false
  base : p.base = p.addr
  bytes : p.bytes.length = p.len
  some_ : 0 < p.len
  small : p.len ≤ 4096

theorem WholeWrite.covers {p : NetPacket} (w : WholeWrite p) (c : Conn) (buf slot : Option Nat) (done : Bool) :
    (InMsg.first c p buf slot done).covers p = true := by
  simp [InMsg.covers, InMsg.first, wordsWhole, w.kind, w.base, w.bytes]

/-- A packet of a message has been placed. -/
def partPlaced (s : State) (m : InMsg) (p : NetPacket) : State :=
  { s with fabric := { s.fabric with inMsgs := s.fabric.inMsgs.map fun x =>
      if x.handle = m.handle ∧ x.num = m.num ∧ !x.done then { x with placed := x.placed ++ [(p.addr, p.bytes.length)] } else x } }

theorem mem_partPlaced {m : InMsg} (there : m ∈ s.fabric.inMsgs) (open_ : m.done = false) (p : NetPacket) :
    { m with placed := m.placed ++ [(p.addr, p.bytes.length)] } ∈ (partPlaced s m p).fabric.inMsgs :=
  List.mem_map.mpr ⟨m, there, if_pos (by simp [open_])⟩

/-- A write without a record that a buffer takes begins to arrive. -/
theorem openMessage_write {p : NetPacket} {b : PubBuf} (w : WholeWrite p) (unclosed : c.closing = false) (target : s.writeTarget c p = (some b, t)) :
    s.openMessage c p = some (.first c p (some b.handle) none false, arriving t (.first c p (some b.handle) none false)) := by
  simp [State.openMessage, w.kind, w.some_, w.noRecord, unclosed, target, arriving]

/-- What begins to arrive is placed in the buffer that takes it. -/
theorem placeBytes_write {p : NetPacket} {b : PubBuf} {u : State} (w : WholeWrite p) (bound : t.buf? b.handle = some b)
    (written : t.engineWrite c.ctx (p.len / 8 + 2) (b.shadow + (p.addr - b.visible)) p.bytes = some u) :
    let m := InMsg.first c p (some b.handle) none false
    t.placeBytes c m p = some (partPlaced u m p) := by
  intro m
  have goes : ¬ (m.done || !m.covers p || decide (4096 < p.bytes.length)
      || (c.deliv != 2 && m.placed.contains (p.addr, p.bytes.length))) = true := by
    rw [show m.covers p = true from w.covers ..]
    simp [m, w.bytes, w.small, InMsg.first]
  have bytes : p.bytes.isEmpty = false := by
    rw [List.isEmpty_eq_false_iff, ← List.length_pos_iff, w.bytes]
    exact w.some_
  have address : t.placeAddress c m p = some (b.shadow + (p.addr - b.visible)) := by
    simp [State.placeAddress, m, InMsg.first, w.kind, bound, PubBuf.shadowOf]
  rw [State.placeBytes, if_neg goes, bytes, if_neg Bool.false_ne_true, address]
  simp [w.bytes, written, partPlaced]

/-- The first packet of a write begins the message, and is placed. -/
theorem placeMessage_first {p : NetPacket} {m : InMsg} (inOrder : s.inOrder c p.msg = true) (kind : p.kind = .write)
    (new : ∀ m ∈ s.fabric.inMsgs, ¬ (m.handle = c.handle ∧ m.num = p.msg)) (opened : s.openMessage c p = some (m, t))
    (bound : t.conn? c.handle = some c) :
    s.placeMessage c p = t.placeBytes c m p := by
  have unknown : s.fabric.inMsgs.find? (fun m => m.handle == c.handle && m.num == p.msg) = none :=
    List.find?_eq_none.mpr fun m there => by simpa using new m there
  simp [State.placeMessage, inOrder, kind, unknown, opened, bound]

theorem packetsOfPeersArePlaced : PacketsOfPeersArePlaced := by
  refine ⟨fun s p c serves => ⟨fun other => ?_, fun reply => ?_⟩, fun s p off => exec_messagePacketPlace_refused p off, ?write⟩
  · rw [exec_messagePacketPlace serves, if_neg other]
  · rw [exec_messagePacketPlace serves, if_pos reply]
  case write =>
    intro s p c b s1 serves kind noRecord base bytes some_ small inOrder new target bound m s2 written
    have w : WholeWrite p := ⟨kind, noRecord, base, bytes, some_, small⟩
    have same : s1.fabric = s.fabric := by
      have kept := writeTarget_fabric s c p
      rwa [target] at kept
    have conn : (arriving s1 m).conn? c.handle = some c := by
      have conns : (arriving s1 m).fabric.conns = s.fabric.conns := by rw [← same]; rfl
      rw [conn?_of_conns_eq conns, serves.handle]
      exact serves.bound
    have placed := (placeMessage_first inOrder kind new (openMessage_write w serves.unclosed target) conn).trans (placeBytes_write w bound written)
    have notReply : ¬ p.kind = .readReply := by simp [kind]
    have there : m ∈ s2.fabric.inMsgs := by
      rw [engineWrite_fabric written]
      exact List.mem_append_right _ (List.mem_singleton_self m)
    refine ⟨partPlaced s2 m p, ?_, rfl, bytes ▸ mem_partPlaced there rfl p⟩
    rw [exec_messagePacketPlace serves, if_neg notReply, placed, Option.getD_some]

/-! ## Serving a peer's read (R366, R367, R374) -/

theorem unanswered {msg : Nat} (new : ∀ a ∈ s.fabric.answers, ¬ (a.handle = h ∧ a.num = msg)) :
    s.fabric.answers.find? (fun a => a.handle == h && a.num == msg) = none :=
  List.find?_eq_none.mpr fun a there => by simpa using new a there

section
variable {msg addr len dest : Nat} (serves : Serves s h c) (small : len ≤ 2 ^ 30) (inOrder : s.inOrder c msg = true)
include serves small inOrder

theorem Serves.takesRead : ¬ (c.failed || c.closing || !s.feature featNet || decide (2 ^ 30 < len) || !s.inOrder c msg) = true := by
  simpa [serves.unfailed, serves.unclosed, featNet, serves.net, inOrder] using small

theorem exec_netReadServe_again {r : ReadAnswer} (answered : s.fabric.answers.find? (fun a => a.handle == h && a.num == msg) = some r) :
    exec (.netReadServe h msg addr ⟨len, dest⟩) s = .next (s.serveAgain c r) := by
  show execNetReadServe h msg addr ⟨len, dest⟩ s = _
  simp only [execNetReadServe, serves.bound, if_neg (serves.takesRead small inOrder), answered]

section
variable {ok : Bool} (new : ∀ a ∈ s.fabric.answers, ¬ (a.handle = h ∧ a.num = msg)) (mapped : s.rangeMapped c.ctx 514 addr len = (ok, t))
include new mapped

theorem exec_netReadServe_refused (refused : ok = false ∨ t.bufferHolding c.ctx addr len = none) :
    exec (.netReadServe h msg addr ⟨len, dest⟩) s =
      .next (t.answerRead (.read h ⟨msg, addr, len, dest⟩) [⟨h, msg, .read, some 1, 0, 0, len, 0, false, []⟩]) := by
  have no : (!ok || (t.bufferHolding c.ctx addr len).isNone) = true := by simpa using refused
  show execNetReadServe h msg addr ⟨len, dest⟩ s = _
  simp only [execNetReadServe, serves.bound, if_neg (serves.takesRead small inOrder), unanswered new, messagePages, mapped, if_pos no]
  rfl

theorem exec_netReadServe_answers {b : PubBuf} {ws : List WirePacket} {u : State} (yes : ok = true)
    (held : t.bufferHolding c.ctx addr len = some b)
    (read : t.answers c ⟨msg, addr, len, dest⟩ (max 1 ((len + dest % 4 + 4095) / 4096)) 0 = (some ws, u)) :
    exec (.netReadServe h msg addr ⟨len, dest⟩) s = .next (u.answerRead (.read h ⟨msg, addr, len, dest⟩) ws) := by
  have published : ¬ (!ok || (t.bufferHolding c.ctx addr len).isNone) = true := by simp [yes, held]
  show execNetReadServe h msg addr ⟨len, dest⟩ s = _
  simp only [execNetReadServe, serves.bound, if_neg (serves.takesRead small inOrder), unanswered new, messagePages, mapped, if_neg published, chunks,
    read]

end

end

/-- Packet p of an answer that the peer has not acknowledged is sent again, as it was. -/
theorem exec_packetRetransmit_answer {j p : Nat} {r : ReadAnswer} {w : WirePacket} (answered : s.fabric.answers[j]? = some r)
    (serves : Serves s r.handle c) (packet : r.packets[p]? = some w) (unacked : r.acked.contains p = false) :
    exec (.packetRetransmit (s.fabric.msgs.length + j) p) s = .next (s.sendAgain c w) := by
  show execPacketRetransmit (s.fabric.msgs.length + j) p s = _
  simp [execPacketRetransmit, answered, featNet, serves.net, State.answerAgain, serves.bound, packet, serves.connWorks, unacked,
    -List.contains_eq_mem]

theorem readsOfPeersAreServed : ReadsOfPeersAreServed := by
  refine ⟨fun s h msg addr len dest c r serves small inOrder answered =>
      ⟨_, exec_netReadServe_again serves small inOrder answered, rfl, rfl⟩,
    fun s j p r c w answered serves packet unacked => exec_packetRetransmit_answer answered serves packet unacked, ?_⟩
  intro s h msg addr len dest c ok s1 serves small inOrder new mapped
  refine ⟨fun b ws s' yes held read => ?_, fun refused => ?_⟩
  · exact ⟨_, exec_netReadServe_answers serves small inOrder new mapped yes held read, rfl, rfl, rfl⟩
  · exact ⟨_, exec_netReadServe_refused serves small inOrder new mapped refused, rfl, rfl⟩

/-! ## Completions (R367, R368, R372) -/

section
variable {msg : Nat} {m : InMsg} (bound : s.conn? h = some c) (net : s.feature 2 = true)
  (there : s.fabric.inMsgs.find? (fun x => x.handle == h && x.num == msg) = some m) (open_ : m.done = false) (whole : m.len ≤ placedBytes m.placed)
  (inOrder : s.inOrder c msg = true)
include bound net there open_ whole inOrder

theorem exec_remoteCompletion_noRecord (none_ : m.slot = none) : exec (.remoteCompletion h msg) s = .next (s.endInMsg m) := by
  show execRemoteCompletion h msg s = _
  simp [execRemoteCompletion, bound, there, featNet, net, open_, Nat.not_lt.mpr whole, inOrder, none_]

theorem exec_remoteCompletion_fills {q : Nat} (record : m.slot.isSome = true) (home : s.receiver c = .at_ q)
    (turn : inTurn (s.heldOf c.region c.recvRank c.recvWin) m.due = true) (fills : s.fillCompletion q c.recvWin (recordLanes c m) = some t) :
    exec (.remoteCompletion h msg) s = .next (t.endInMsg { m with pos := some ((s.seq q).recordPos c.recvWin (recordLanes c m)) }) := by
  have asks : m.slot ≠ none := Option.isSome_iff_ne_none.mp record
  show execRemoteCompletion h msg s = _
  simp [execRemoteCompletion, bound, there, featNet, net, open_, Nat.not_lt.mpr whole, inOrder, asks, home, turn, fills]

theorem exec_remoteCompletion_held (record : m.slot.isSome = true) (home : s.receiver c = .away) :
    exec (.remoteCompletion h msg) s = .next (s.holdRecord m) := by
  have asks : m.slot ≠ none := Option.isSome_iff_ne_none.mp record
  show execRemoteCompletion h msg s = _
  simp [execRemoteCompletion, bound, there, featNet, net, open_, Nat.not_lt.mpr whole, inOrder, asks, home]

end

/-- Without NET no message of a peer ends (R360). -/
theorem exec_remoteCompletion_refused (h msg : Nat) (off : s.feature 2 = false) : exec (.remoteCompletion h msg) s = .next s := by
  show execRemoteCompletion h msg s = _
  rw [execRemoteCompletion]
  split
  · simp [featNet, off]
  · rfl

section
variable {i answer status : Nat} {m : NetMsg} (there : s.fabric.msgs[i]? = some m) (bound : s.conn? m.handle = some c)
include there bound

/-- Only a connection under ROD makes a message wait for earlier ones. -/
theorem exec_localCompletion_ends (notRod : c.deliv ≠ 1) (has : s.statusWith m answer = some status) :
    exec (.localCompletion i answer) s = .next (s.endMsg i m status) := by
  have free : (c.deliv == 1) = false := beq_eq_false_iff_ne.mpr notRod
  show execLocalCompletion i answer s = _
  simp only [execLocalCompletion, there, bound, free, has]
  rfl

theorem exec_localCompletion_waits (rod : c.deliv = 1) (earlier : ∃ x ∈ s.fabric.msgs.take i, x.handle = m.handle ∧ x.status = none) :
    exec (.localCompletion i answer) s = .next s := by
  have any_ : ((s.fabric.msgs.take i).any fun x => x.handle == m.handle && x.status.isNone) = true := by simpa using earlier
  show execLocalCompletion i answer s = _
  simp only [execLocalCompletion, there, bound, rod, any_]
  rfl

end

theorem statusWith_answer {m : NetMsg} {answer : Nat} (serves : Serves s m.handle c) (open_ : m.status = none) (may : m.mayEnd c answer = true) :
    s.statusWith m answer = some answer := by simp [State.statusWith, open_, serves.bound, serves.connWorks, may]

theorem statusWith_own {m : NetMsg} {status : Nat} (own : m.status = some status) (s : State) (answer : Nat) :
    s.statusWith m answer = some status := by simp [State.statusWith, own]

theorem messagesComplete : MessagesComplete := by
  refine ⟨fun s h msg c m bound net there open_ whole inOrder => ⟨exec_remoteCompletion_noRecord bound net there open_ whole inOrder,
      fun q t => exec_remoteCompletion_fills bound net there open_ whole inOrder, exec_remoteCompletion_held bound net there open_ whole inOrder⟩,
    fun s h msg => exec_remoteCompletion_refused h msg,
    fun s i m c answer there serves open_ may => ⟨fun notRod => ?_, exec_localCompletion_waits there serves.bound⟩,
    fun s i m c status answer there bound notRod own => ?_⟩
  · exact exec_localCompletion_ends there serves.bound notRod (statusWith_answer serves open_ may)
  · exact exec_localCompletion_ends there bound notRod (statusWith_own own s answer)

/-! ## Acknowledgements and failed connections (R361, R371, R373) -/

theorem pathless_congr {f g : Fabric} (same : f.deadPorts = g.deadPorts) (c : Conn) : f.pathless c = g.pathless c := by
  simp [Fabric.pathless, Fabric.pathsUp, Fabric.livePaths, same]

@[simp] theorem acknowledge_deadPorts (s : State) (h : Nat) (a : NetAck) : (s.acknowledge h a).fabric.deadPorts = s.fabric.deadPorts := by
  fun_cases State.acknowledge <;> simp [State.setMsg]

/-- An acknowledgement of a message changes no connection. -/
theorem acknowledge_conns {a : NetAck} (message : a.answer = false) (s : State) (h : Nat) : (s.acknowledge h a).fabric.conns = s.fabric.conns := by
  fun_cases State.acknowledge <;> simp_all [State.setMsg]

theorem acknowledge_message {a : NetAck} {k : Nat} {m : NetMsg} (message : a.answer = false) (taken : a.refused = false)
    (at_ : s.fabric.msgs.findIdx? (fun m => m.handle == h && m.num == a.msg) = some k) (there : s.fabric.msgs[k]? = some m)
    (sent : ∃ x ∈ m.sent, x.1 = a.packet) (new : a.packet ∉ m.acked) :
    s.acknowledge h a = s.setMsg k { m with acked := m.acked ++ [a.packet] } := by
  have stays : ¬ (!(m.sent.any fun p => p.1 == a.packet) || m.acked.contains a.packet) = true := by simpa [new] using sent
  simp only [State.acknowledge, taken, message, at_, there, if_neg stays]
  rfl

/-- An acknowledged packet stands in its answer, once the handles that can be freed have been: where none closes, in every answer. -/
theorem acknowledge_answer {a : NetAck} {r : ReadAnswer} (answer : a.answer = true) (taken : a.refused = false)
    (conns : ∀ c ∈ s.fabric.conns, c.closing = false) (bufs : s.fabric.bufs = []) (there : r ∈ s.fabric.answers) (handle : r.handle = h)
    (num : r.num = a.msg) (new : a.packet ∉ r.acked) : { r with acked := r.acked ++ [a.packet] } ∈ (s.acknowledge h a).fabric.answers := by
  rw [State.acknowledge, taken, if_neg Bool.false_ne_true, if_pos answer, freeHandles_of_open (by exact conns) (by exact bufs)]
  exact List.mem_map.mpr ⟨r, there, if_pos (by simp [handle, num, new])⟩

theorem exec_ackReceive (serves : Serves s h c) (a : NetAck) :
    exec (.ackReceive h a) s =
      .next (if s.fabric.pathless (c.hear a s.time) then ((s.setConn (c.hear a s.time)).acknowledge h a).failConns fun x => x.handle == h
        else (s.setConn (c.hear a s.time)).acknowledge h a) := by
  have paths := pathless_congr (acknowledge_deadPorts (s.setConn (c.hear a s.time)) h a) (c.hear a s.time)
  show execAckReceive h a s = _
  simp only [execAckReceive, serves.bound, serves.connWorks, paths]
  rfl

theorem exec_ackReceive_pathless (serves : Serves s h c) (a : NetAck) (pathless : s.fabric.pathless (c.hear a s.time) = true) :
    exec (.ackReceive h a) s = .next (((s.setConn (c.hear a s.time)).acknowledge h a).failConns fun x => x.handle == h) := by
  rw [exec_ackReceive serves, if_pos pathless]

theorem exec_ackReceive_paths (serves : Serves s h c) (a : NetAck) (paths : s.fabric.pathless (c.hear a s.time) = false) :
    exec (.ackReceive h a) s = .next ((s.setConn (c.hear a s.time)).acknowledge h a) := by
  rw [exec_ackReceive serves, paths, if_neg Bool.false_ne_true]

/-- An endpoint that is gone, or a packet that is overdue, fails the connection. -/
theorem exec_connectionFail {gone : Bool} (fails : gone = true ∨ s.overdue h = true) :
    exec (.connectionFail ⟨h, gone⟩) s = .next (s.failConns fun c => c.handle == h) := by
  show execConnectionFail ⟨h, gone⟩ s = _
  simp [execConnectionFail, fails]

/-! ## Links (R361, R355) -/

/-- A link goes out of service, and its row of retries ends. -/
def outOfService (s : State) (p : Fin 16) : State :=
  { s with fabric := { s.fabric with
      deadPorts := p.val :: s.fabric.deadPorts, portFails := s.fabric.portFails.filter fun x => x.1 != p.val } }

section
variable {p : Fin 16} (inService : s.fabric.deadPorts.contains p.val = false)
include inService

theorem exec_linkLevelRetry_fails :
    exec (.linkLevelRetry ⟨p, false⟩) s = .next { s with
      agenda := if 63 ≤ s.portRetries p then (0, .event (.linkOutOfService p)) :: s.agenda else s.agenda
      fabric := { s.fabric with portFails := (p.val, s.portRetries p + 1) :: s.fabric.portFails.filter fun x => x.1 != p.val } } := by
  show execLinkLevelRetry ⟨p, false⟩ s = _
  simp [execLinkLevelRetry, inService, -List.contains_eq_mem]

theorem exec_linkLevelRetry_replayed (goesOn : s.portRetries p < 64) :
    exec (.linkLevelRetry ⟨p, true⟩) s =
      .next { s with fabric := { s.fabric with portFails := s.fabric.portFails.filter fun x => x.1 != p.val } } := by
  show execLinkLevelRetry ⟨p, true⟩ s = _
  simp [execLinkLevelRetry, inService, Nat.not_le.mpr goesOn, -List.contains_eq_mem]

theorem exec_linkOutOfService (spent : 64 ≤ s.portRetries p) :
    exec (.linkOutOfService p) s = .next ((outOfService s p).packageEventWhole 6 (some (BitVec.ofNat 64 p))).failPathless := by
  show execLinkOutOfService p s = _
  simp [execLinkOutOfService, inService, Nat.not_lt.mpr spent, outOfService, -List.contains_eq_mem]

end

/-- A link that has failed 64 times in a row gets no replay through. -/
theorem exec_linkLevelRetry_spent {p : Fin 16} (spent : 64 ≤ s.portRetries p) : exec (.linkLevelRetry ⟨p, true⟩) s = .next s := by
  show execLinkLevelRetry ⟨p, true⟩ s = _
  simp [execLinkLevelRetry, spent]

theorem exec_linkOutOfService_early {p : Fin 16} (early : s.portRetries p < 64) : exec (.linkOutOfService p) s = .next s := by
  show execLinkOutOfService p s = _
  simp [execLinkOutOfService, early]

theorem portRetries_ended {p : Nat} (ended : t.fabric.portFails = s.fabric.portFails.filter fun x => x.1 != p) : t.portRetries p = 0 := by
  have none_ : (s.fabric.portFails.filter fun x => x.1 != p).find? (fun x => x.1 == p) = none :=
    List.find?_eq_none.mpr fun x there => by simpa using (List.mem_filter.mp there).2
  rw [State.portRetries, ended, none_]

theorem portRetries_head {p k : Nat} {others : List (Nat × Nat)} (head : t.fabric.portFails = (p, k) :: others) : t.portRetries p = k := by
  simp [State.portRetries, head]

theorem acknowledgementsAndFailures : AcknowledgementsAndFailures := by
  refine ⟨fun s h a c serves handle => ⟨fun noPath => ?noPath, fun path answer taken one bufs => ?answer, fun path message => ?message⟩,
    fun s h gone fails => ?fails, fun s h inTime => ?inTime,
    fun s p inService => ⟨?retryFails, fun goesOn => ?replayed, exec_linkLevelRetry_spent, exec_linkOutOfService_early,
      fun spent => ?outOfService⟩⟩
  case noPath => exact ⟨_, exec_ackReceive_pathless serves a noPath, failConns_fails _ h⟩
  case answer =>
    have open_ : ∀ x ∈ (s.setConn (c.hear a s.time)).fabric.conns, x.closing = false := by
      simpa [State.setConn, one, Conn.hear] using serves.unclosed
    exact ⟨_, exec_ackReceive_paths serves a path, fun r there => acknowledge_answer answer taken open_ bufs there⟩
  case message =>
    refine ⟨_, exec_ackReceive_paths serves a path, ?_, fun k m at_ there taken sent new => ?_⟩
    · rw [conn?_of_conns_eq (acknowledge_conns message _ h)]
      exact conn?_setConn serves.bound handle
    · have acked := acknowledge_message (s := s.setConn (c.hear a s.time)) message taken at_ there sent new
      rw [acked]
      rfl
  case fails =>
    refine ⟨_, exec_connectionFail fails, failConns_fails s h, fun m there named outstanding bound => failConns_peergone there outstanding ?_⟩
    obtain ⟨c, mem, handle⟩ := bound
    exact ⟨c, mem, handle.trans named.symm, by simp [handle]⟩
  case inTime =>
    show execConnectionFail ⟨h, false⟩ s = _
    simp [execConnectionFail, inTime]
  case retryFails =>
    refine ⟨_, exec_linkLevelRetry_fails inService, portRetries_head rfl, rfl, ?_⟩
    show (if _ then _ else _) = _
    split <;> rfl
  case replayed => exact ⟨_, exec_linkLevelRetry_replayed inService goesOn, portRetries_ended (s := s) rfl, rfl⟩
  case outOfService => exact ⟨_, exec_linkOutOfService inService spent, failConns_deadPorts ((outOfService s p).packageEventWhole 6 _) _⟩

/-- Settles O49: each event does what the equation of its case says; an engine's writes leave the record of the engines as it was. -/
theorem networkEventsAct : Obligations.NetworkEventsAct :=
  ⟨packetsOfMessagesAreSent, packetsOfPeersArePlaced, readsOfPeersAreServed, messagesComplete, acknowledgementsAndFailures⟩

end Sys2Proof.Claims
end

section
/-! PROOFS. Registers and predicates (08 R173), and words: decoding undoes encoding (03 R43, R49; 08 R178, R179). -/

namespace Sys2Proof.Claims

open Sys2Proof.Machine

/-! ## Registers and predicates -/

/-- A predicate reads as it was written, predicate 0 aside (R173). -/
theorem readPred_writePred (v : Vector Bool 8) (p : Pred) (x : Bool) (h : p ≠ 0) : readPred (writePred v p x) p = x := by
  unfold readPred writePred
  rw [if_neg h, if_neg h]
  simp

theorem readPred_writePred_other (v : Vector Bool 8) {p i : Pred} (x : Bool) (h : i ≠ p) : readPred (writePred v p x) i = readPred v i := by
  unfold readPred writePred
  split
  · rfl
  · split
    · rfl
    · have h' : ¬ p.toNat = i.toNat := fun e => h (BitVec.eq_of_toNat_eq e.symm)
      simp [h']

/-- Settles O56: reading after a write of the same and of another register or predicate. -/
theorem registerFilesReadBack : Obligations.RegisterFilesReadBack := by
  refine ⟨fun r d e x => ⟨readReg_zero r, writeReg_zero r x, fun hd => ?_⟩, fun r d e x => ⟨rfl, rfl, fun hd => ?_⟩⟩
  · split
    next same => rw [same, readReg_writeReg r d x hd]
    next other => exact readReg_writeReg_other r x other
  · split
    next same => rw [same, readPred_writePred r d x hd]
    next other => exact readPred_writePred_other r x other

/-! ## Bits of a word -/

/-- Bits lo + n - 1 to lo of a word, as its fields give them: fields above are passed over, and the first that does not lie above holds the
bits. -/
def fieldBits (g lo n : Nat) : List (Nat × Nat) → Nat
  | [] => bitsOf g lo n
  | (x, l) :: fs => if lo + n ≤ l then fieldBits g lo n fs else if l ≤ lo then bitsOf x (lo - l) n else bitsOf (placed ((x, l) :: fs) + g) lo n

/-- Every field of a word lies above all that stands behind it. -/
def Laid (g : Nat) : List (Nat × Nat) → Prop
  | [] => True
  | (_, l) :: fs => placed fs + g < 2 ^ l ∧ Laid g fs

/-- Bits of a word are those of its fields (R178). -/
theorem bitsOf_placed {g lo n : Nat} : ∀ {fs : List (Nat × Nat)}, Laid g fs → bitsOf (placed fs + g) lo n = fieldBits g lo n fs
  | [], _ => by rw [placed, Nat.zero_add, fieldBits]
  | (x, l) :: fs, ⟨rest, laid⟩ => by
    rw [fieldBits]
    split
    next above =>
      have e : x * 2 ^ l = 2 ^ lo * (2 ^ n * (x * 2 ^ (l - lo - n))) := by
        have : 2 ^ l = 2 ^ lo * 2 ^ n * 2 ^ (l - lo - n) := by rw [← Nat.pow_add, ← Nat.pow_add]; congr 1; omega
        rw [this]; ring
      rw [← bitsOf_placed laid, bitsOf, bitsOf, placed, Nat.add_assoc, e, Nat.mul_add_div (Nat.two_pow_pos _), Nat.mul_add_mod]
    next =>
      split
      next below =>
        have e : 2 ^ lo = 2 ^ l * 2 ^ (lo - l) := by rw [← Nat.pow_add]; congr 1; omega
        rw [bitsOf, bitsOf, placed, e, ← Nat.div_div_eq_div_mul, Nat.add_assoc, Nat.mul_comm x, Nat.mul_add_div (Nat.two_pow_pos _),
          Nat.div_eq_of_lt rest, Nat.add_zero]
      next => rfl

/-- So are the bits of the word that the encoder writes, which has room for its fields. -/
theorem bitsOf_seqWord {op : Nat} {fs : List (Nat × Nat)} {g : Pred} {lo n : Nat} (laid : Laid g.toNat ((op, 26) :: fs)) (inside : lo + n ≤ 32) :
    bitsOf (seqWord op fs g).toNat lo n = fieldBits g.toNat lo n ((op, 26) :: fs) := by
  have e : 2 ^ 32 = 2 ^ lo * 2 ^ (32 - lo) := by rw [← Nat.pow_add]; congr 1; omega
  rw [← bitsOf_placed laid, seqWord, BitVec.toNat_ofNat, bitsOf, bitsOf, placed, e, Nat.mod_mul_right_div_self,
    Nat.mod_mod_of_dvd _ (Nat.pow_dvd_pow 2 (by omega))]

/-! A field holds its value: its bits from 0 on are the value, and those beyond its width are 0. -/

theorem bitsOf_toNat {n : Nat} (x : BitVec n) : bitsOf x.toNat 0 n = x.toNat := by
  rw [bitsOf, Nat.pow_zero, Nat.div_one, Nat.mod_eq_of_lt x.isLt]

theorem bitsOf_toNat_above {m lo n : Nat} (x : BitVec m) (above : m ≤ lo) : bitsOf x.toNat lo n = 0 := by
  rw [bitsOf, Nat.div_eq_of_lt (Nat.lt_of_lt_of_le x.isLt (Nat.pow_le_pow_right Nat.two_pos above)), Nat.zero_mod]

theorem fld_eq_bitsOf (w : Code) (lo n : Nat) : fld w lo n = BitVec.ofNat n (bitsOf w.toNat lo n) := by
  apply BitVec.eq_of_toNat_eq; simp [fld, bitsOf]

theorem bitsOf_low {x n : Nat} (fits : x < 2 ^ n) : bitsOf x 0 n = x := by rw [bitsOf, Nat.pow_zero, Nat.div_one, Nat.mod_eq_of_lt fits]
theorem bitsOf_above {x lo n : Nat} (above : x < 2 ^ lo) : bitsOf x lo n = 0 := by rw [bitsOf, Nat.div_eq_of_lt above, Nat.zero_mod]

/-- The encoder writes the fields of an instruction where the decoder reads them. -/
def ReadsBack (i : Instr) : Prop := ∀ w, encodeSeq i = some w → decodeSeq w = .ok i

/-- An instruction reads back where it does so from any word with its major opcode and its fields. -/
theorem readsBack_of_reads {op : Nat} {fs : List (Nat × Nat)} {g : Pred} {i : Instr} (enc : encodeSeq i = some (seqWord op fs g))
    (laid : Laid g.toNat ((op, 26) :: fs)) (major : op < 2 ^ 6)
    (h : ∀ w : Code, bitsOf w.toNat 26 6 = op → (∀ lo n, lo + n ≤ 32 → bitsOf w.toNat lo n = fieldBits g.toNat lo n ((op, 26) :: fs)) →
      decodeSeq w = .ok i) : ReadsBack i := by
  intro w e
  obtain rfl := Option.some.inj (enc.symm.trans e)
  exact h _ ((bitsOf_seqWord laid (by decide)).trans (bitsOf_low major)) fun _ _ inside => bitsOf_seqWord laid inside

/-! ## Words of a block, by group (R186, R191 to R199, R217) -/

theorem readsBack_control (d a : Reg) (code : BitVec 15) (off : BitVec 23) (imm : BitVec 18) (g : Pred) :
    ∀ i ∈ [Instr.seqNop .plain false g, .halt false g, .wfe false g, .yield false g, .ret a false g, .eret false g, .trap code false g, .exitr a
      false g, .exitWord off g, .call d imm g], ReadsBack i := by
  simp only [List.forall_mem_cons, List.not_mem_nil, false_implies, implies_true, and_true]
  and_intros
  all_goals
    refine readsBack_of_reads rfl (by simp only [Laid, placed, and_true]; omega) (by decide) fun w major reads => ?_
    rw [decodeSeq, major]
    simp [decodeControl, reads, fld_eq_bitsOf, fieldBits, anySet, bitsOf_toNat, bitsOf_toNat_above, bitsOf_low, bitsOf_above]

theorem readsBack_integer (d a b : Reg) (p g : Pred) :
    ∀ i ∈ [Instr.add d a b false g, .sub d a b false g, .mul d a b false g, .mulh d a b false g, .mulhu d a b false g, .div d a b false g, .divu
      d a b false g, .rem d a b false g, .remu d a b false g, .andW d a b false g, .orW d a b false g, .xorW d a b false g, .shl d a b false g,
      .shr d a b false g, .sra d a b false g, .minW d a b false g, .maxW d a b false g, .minu d a b false g, .maxu d a b false g, .clz d a b false
      g, .ctz d a b false g, .popc d a b false g, .seqSel d a b p g], ReadsBack i := by
  simp only [List.forall_mem_cons, List.not_mem_nil, false_implies, implies_true, and_true]
  and_intros
  all_goals
    refine readsBack_of_reads rfl (by simp only [Laid, placed, and_true]; omega) (by decide) fun w major reads => ?_
    rw [decodeSeq, major]
    simp [decodeInteger, reads, fld_eq_bitsOf, fieldBits, anySet, bitsOf_toNat, bitsOf_toNat_above, bitsOf_low]

theorem readsBack_immediate (d a b : Reg) (imm : BitVec 13) (n : BitVec 6) (k : BitVec 18) (h : BitVec 2) (half : BitVec 16) (p p' p'' f g : Pred) :
    ∀ i ∈ [Instr.addi d a imm g, .andi d a imm g, .ori d a imm g, .xori d a imm g, .shli d a n false g, .shri d a n false g, .srai d a n false
      g, .li d k g, .lui d h half g, .lea d k g, .cmp p a b f false g, .pand p p' p'' false g, .por p p' p'' false g, .pnot p p' false g, .widGet
      d a f false g, .widSet d a f false g], ReadsBack i := by
  simp only [List.forall_mem_cons, List.not_mem_nil, false_implies, implies_true, and_true]
  and_intros
  all_goals
    refine readsBack_of_reads rfl (by simp only [Laid, placed, and_true]; omega) (by decide) fun w major reads => ?_
    rw [decodeSeq, major]
    simp [decodePredicate, decodeWorkId, reads, fld_eq_bitsOf, fieldBits, anySet, bitsOf_toNat, bitsOf_toNat_above, bitsOf_low, bitsOf_above]

theorem readsBack_memory (d a b : Reg) (w : BitVec 2) (u : BitVec 1) (off : BitVec 10) (near : BitVec 7) (scope : BitVec 4) (f : AmoFields)
    (p g : Pred) :
    ∀ i ∈ [Instr.ld d a w u off g, .st d a w u off g, .ldx d a w u p near g, .verase a false g, .amoAdd d a b f false g, .amoAnd d a b f false
      g, .amoOr d a b f false g, .amoXor d a b f false g, .amoMin d a b f false g, .amoMax d a b f false g, .amoMinu d a b f false g, .amoMaxu d a
      b f false g, .amoSwap d a b f false g, .cas d a b f false g, .fence scope false g, .publish d a scope false g], ReadsBack i := by
  simp only [List.forall_mem_cons, List.not_mem_nil, false_implies, implies_true, and_true]
  and_intros
  all_goals
    refine readsBack_of_reads rfl (by simp only [Laid, placed, and_true]; omega) (by decide) fun w major reads => ?_
    rw [decodeSeq, major]
    simp [amoFields, reads, fld_eq_bitsOf, fieldBits, anySet, bitsOf_toNat, bitsOf_toNat_above]

theorem readsBack_commands (d a b : Reg) (imm : BitVec 12) (t : BitVec 9) (e : BitVec 2) (scope : BitVec 4) (all : BitVec 1) (csr : BitVec 10)
    (m g : Pred) :
    ∀ i ∈ [Instr.wrdCore d a b false g, .wflCore d a b false g, .wshrCore d a b false g, .wstCore d a b false g, .wrdLocal d imm m g, .wflLocal
      d imm m g, .wstLocal d imm m g, .wshrLocal imm m false g, .sbind d a t e g, .sgo d a t e g, .sstop d a t e g, .sbar d a t e g, .cfgLoad d a
      false g, .cfgShadow d a false g, .cfgSwap d a false g, .cfgDrain d a false g, .cfgPhase d a false g, .cfgSig d a false g, .lantReq d a false
      g, .lantRel d a false g, .taskFill a b m false g, .taskTake d a b m false g, .taskSteal d a b m false g, .taskDone d a b m false g, .launch
      d a b m false g, .xlat d a scope all false g, .tlbinv d a scope all false g, .relatch d a scope all false g, .netWrite d a b false g,
      .netRead d a b false g, .netSend d a b false g, .netStat d a b false g, .netBind d a b false g, .csrr d a csr g, .csrw a csr false g, .time
      d false g], ReadsBack i := by
  simp only [List.forall_mem_cons, List.not_mem_nil, false_implies, implies_true, and_true]
  and_intros
  all_goals
    refine readsBack_of_reads rfl (by simp only [Laid, placed, and_true]; omega) (by decide) fun w major reads => ?_
    rw [decodeSeq, major]
    simp [decodeWindow, decodeStream, decodeConfig, decodeTask, decodeTranslation, decodeLantern, decodeNetwork, decodeSystem, reads,
      fld_eq_bitsOf, fieldBits, anySet, bitsOf_toNat, bitsOf_toNat_above, bitsOf_low, bitsOf_above]

/-- A field that must be 0 is 0 in a well-formed word. -/
theorem wf_x {x : Bool} (h : (!x) = true) : x = false := by simpa using h

/-- Every well-formed word of a block reads back (R178, R179). -/
theorem readsBack_of_wf {i : Instr} (hi : i.wf = true) : ReadsBack i := by
  cases i
  case seqNop kind x g =>
    obtain ⟨rfl, rfl⟩ : kind = .plain ∧ x = false := by simpa using (show (kind == .plain && !x) = true from hi)
    exact readsBack_control 0 0 0 0 0 g _ (by simp)
  case halt | wfe | yield | eret =>
    rename_i x g
    obtain rfl := wf_x hi
    exact readsBack_control 0 0 0 0 0 g _ (by simp)
  case ret | exitr =>
    rename_i a x g
    obtain rfl := wf_x hi
    exact readsBack_control 0 a 0 0 0 g _ (by simp)
  case trap code x g =>
    obtain rfl := wf_x hi
    exact readsBack_control 0 0 code 0 0 g _ (by simp)
  case exitWord off g => exact readsBack_control 0 0 0 off 0 g _ (by simp)
  case call d imm g => exact readsBack_control d 0 0 0 imm g _ (by simp)
  case add | sub | mul | mulh | mulhu | div | divu | rem | remu | andW | orW | xorW | shl | shr | sra | minW | maxW | minu | maxu | clz | ctz
      | popc =>
    rename_i d a b x g
    obtain rfl := wf_x hi
    exact readsBack_integer d a b 0 g _ (by simp)
  case seqSel d a b p g => exact readsBack_integer d a b p g _ (by simp)
  case addi | andi | ori | xori =>
    rename_i d a imm g
    exact readsBack_immediate d a 0 imm 0 0 0 0 0 0 0 0 g _ (by simp)
  case shli | shri | srai =>
    rename_i d a n x g
    obtain rfl := wf_x hi
    exact readsBack_immediate d a 0 0 n 0 0 0 0 0 0 0 g _ (by simp)
  case li | lea =>
    rename_i d k g
    exact readsBack_immediate d 0 0 0 0 k 0 0 0 0 0 0 g _ (by simp)
  case lui d h k g => exact readsBack_immediate d 0 0 0 0 0 h k 0 0 0 0 g _ (by simp)
  case cmp p a b c x g =>
    obtain rfl := wf_x (Bool.and_elim_right hi)
    exact readsBack_immediate 0 a b 0 0 0 0 0 p 0 0 c g _ (by simp)
  case pand | por =>
    rename_i p p' p'' x g
    obtain rfl := wf_x hi
    exact readsBack_immediate 0 0 0 0 0 0 0 0 p p' p'' 0 g _ (by simp)
  case pnot p p' x g =>
    obtain rfl := wf_x hi
    exact readsBack_immediate 0 0 0 0 0 0 0 0 p p' 0 0 g _ (by simp)
  case widGet | widSet =>
    rename_i d a f x g
    obtain rfl := wf_x (Bool.and_elim_right hi)
    exact readsBack_immediate d a 0 0 0 0 0 0 0 0 0 f g _ (by simp)
  case ld | st =>
    rename_i d a w u off g
    exact readsBack_memory d a 0 w u off 0 0 ⟨0, 0, 0, 0⟩ 0 g _ (by simp)
  case ldx d a w u p off g => exact readsBack_memory d a 0 w u 0 off 0 ⟨0, 0, 0, 0⟩ p g _ (by simp)
  case verase a x g =>
    obtain rfl := wf_x hi
    exact readsBack_memory 0 a 0 0 0 0 0 0 ⟨0, 0, 0, 0⟩ 0 g _ (by simp)
  case amoAdd | amoAnd | amoOr | amoXor | amoMin | amoMax | amoMinu | amoMaxu | amoSwap | cas =>
    rename_i d a b f x g
    obtain rfl := wf_x hi
    exact readsBack_memory d a b 0 0 0 0 0 f 0 g _ (by simp)
  case fence scope x g =>
    obtain rfl := wf_x hi
    exact readsBack_memory 0 0 0 0 0 0 0 scope ⟨0, 0, 0, 0⟩ 0 g _ (by simp)
  case publish d a scope x g =>
    obtain rfl := wf_x hi
    exact readsBack_memory d a 0 0 0 0 0 scope ⟨0, 0, 0, 0⟩ 0 g _ (by simp)
  case wrdCore | wflCore | wshrCore | wstCore | netWrite | netRead | netSend | netStat | netBind =>
    rename_i d a b x g
    obtain rfl := wf_x hi
    exact readsBack_commands d a b 0 0 0 0 0 0 0 g _ (by simp)
  case wrdLocal | wflLocal | wstLocal =>
    rename_i d imm m g
    exact readsBack_commands d 0 0 imm 0 0 0 0 0 m g _ (by simp)
  case wshrLocal imm m x g =>
    obtain rfl := wf_x hi
    exact readsBack_commands 0 0 0 imm 0 0 0 0 0 m g _ (by simp)
  case sbind | sgo | sstop | sbar =>
    rename_i d a t e g
    exact readsBack_commands d a 0 0 t e 0 0 0 0 g _ (by simp)
  case cfgLoad | cfgShadow | cfgSwap | cfgDrain | cfgPhase | cfgSig | lantReq | lantRel =>
    rename_i d a x g
    obtain rfl := wf_x hi
    exact readsBack_commands d a 0 0 0 0 0 0 0 0 g _ (by simp)
  case taskFill a b m x g =>
    obtain rfl := wf_x hi
    exact readsBack_commands 0 a b 0 0 0 0 0 0 m g _ (by simp)
  case taskTake | taskSteal | taskDone | launch =>
    rename_i d a b m x g
    obtain rfl := wf_x hi
    exact readsBack_commands d a b 0 0 0 0 0 0 m g _ (by simp)
  case xlat | tlbinv | relatch =>
    rename_i d a scope all x g
    obtain rfl := wf_x hi
    exact readsBack_commands d a 0 0 0 0 scope all 0 0 g _ (by simp)
  case csrr d a csr g => exact readsBack_commands d a 0 0 0 0 0 0 csr 0 g _ (by simp)
  case csrw a csr x g =>
    obtain rfl := wf_x hi
    exact readsBack_commands 0 a 0 0 0 0 0 0 csr 0 g _ (by simp)
  case time d x g =>
    obtain rfl := wf_x hi
    exact readsBack_commands d 0 0 0 0 0 0 0 0 0 g _ (by simp)
  all_goals exact fun w e => nomatch e

/-! ## Stage words -/

/-- A stage word holds its opcode and its fields where the decoder reads them (R43). -/
theorem fields_stageWord (op : BitVec 6) (f : StageFields) : fld (stageWord op f) 26 6 = op ∧ stageFields (stageWord op f) = f := by
  have laid : Laid f.aux.toNat [(op.toNat, 26), (f.a.toNat, 21), (f.b.toNat, 16), (f.c.toNat, 11), (f.mod.toNat, 8), (f.lant.toNat, 7),
      (f.dst.toNat, 4)] := by simp only [Laid, placed, and_true]; omega
  have whole : (stageWord op f).toNat = placed [(op.toNat, 26), (f.a.toNat, 21), (f.b.toNat, 16), (f.c.toNat, 11), (f.mod.toNat, 8),
      (f.lant.toNat, 7), (f.dst.toNat, 4)] + f.aux.toNat := by
    simp only [stageWord, BitVec.toNat_ofNat, placed]; omega
  simp [stageFields, fld_eq_bitsOf, whole, bitsOf_placed laid, fieldBits, bitsOf_toNat]

/-- Every word is the stage word of its fields (R43). -/
theorem stageWord_fields (w : Code) : stageWord (fld w 26 6) (stageFields w) = w := by
  apply BitVec.eq_of_toNat_eq
  simp only [stageWord, stageFields, fld, BitVec.toNat_ofNat]
  omega

/-- The opcode map and its inverse agree (R49). -/
theorem stageOpcode_stageOf (op : BitVec 6) (f : StageFields) : stageOpcode (stageOf op.toNat f) = some (op, f) := by
  obtain ⟨n, hn⟩ := op
  interval_cases n <;> rfl

theorem stageOf_stageOpcode {i : Instr} {op : BitVec 6} {f : StageFields} (h : stageOpcode i = some (op, f)) : stageOf op.toNat f = i := by
  cases i
  case stageNop kind _ => cases kind <;> cases h <;> rfl
  all_goals cases h
  all_goals rfl

/-- Settles O53: a word of a block by `readsBack_of_wf`, a stage word by its fields and the opcode map. -/
theorem decodeAndEncodeAgree : Obligations.DecodeAndEncodeAgree := by
  refine ⟨fun i w hi he => ?_, fun w => ⟨_, _, stageOpcode_stageOf _ _, stageWord_fields w⟩⟩
  cases h : stageOpcode i with
  | none =>
    simp only [encode, h] at he
    simpa only [DecodesTo, h] using readsBack_of_wf hi w he
  | some p =>
    obtain ⟨op, f⟩ := p
    simp only [encode, h, Option.some.injEq] at he
    subst he
    obtain ⟨hop, hf⟩ := fields_stageWord op f
    simp only [DecodesTo, h, decodeStage, hop, hf]
    exact stageOf_stageOpcode h

/-- Settles O52: each word is a constant, which the decoder reads. -/
theorem wordsDecode : Obligations.WordsDecode := by
  unfold Obligations.WordsDecode
  and_intros <;> rfl

end Sys2Proof.Claims
end

section
/-! PROOFS. Integer, immediate, compare and predicate words of the sequencer (08 R191 to R196), and the integer stages (04 R72 to R78). -/

namespace Sys2Proof.Claims

open Sys2Proof.Machine

/-! ## Counts of bits (R77, R191) -/

/-- The numbers below n that a bool holds of before the first that it does not hold of. -/
theorem length_takeWhile_range {n k : Nat} {p : Nat → Bool} (hk : k ≤ n) (below : ∀ i < k, p i = true) (stop : k < n → p k = false) :
    ((List.range n).takeWhile p).length = k := by
  obtain ⟨m, rfl⟩ := Nat.exists_eq_add_of_le hk
  rw [List.range_add, List.takeWhile_append_of_pos (by simpa using below), List.takeWhile_map]
  cases m with
  | zero => simp
  | succ m => simp [List.range_succ_eq_map, stop (by omega)]

theorem onesCount_eq (n w : Nat) : onesCount n w = ((List.range n).filter fun i => w.testBit i).length := by
  induction n generalizing w with
  | zero => rfl
  | succ n ih =>
    rw [onesCount, ih, List.range_succ_eq_map, List.filter_cons, List.filter_map, Nat.testBit_zero]
    rcases Nat.mod_two_eq_zero_or_one w with even | odd
    · simp [even, Function.comp_def, Nat.testBit_succ]
    · simp [odd, Function.comp_def, Nat.testBit_succ, Nat.add_comm]

theorem trailingZeros_eq (n w : Nat) : trailingZeros n w = ((List.range n).takeWhile fun i => !w.testBit i).length := by
  induction n generalizing w with
  | zero => rfl
  | succ n ih =>
    rw [trailingZeros, ih, List.range_succ_eq_map, List.takeWhile_cons, List.takeWhile_map, Nat.testBit_zero]
    rcases Nat.mod_two_eq_zero_or_one w with even | odd
    · simp [even, Function.comp_def, Nat.testBit_succ]
    · simp [odd]

/-- Above the highest 1 bit all bits are 0. -/
theorem leadingZeros_eq {n w : Nat} (fits : w < 2 ^ n) :
    (if w = 0 then n else n - 1 - Nat.log2 w) = ((List.range n).takeWhile fun i => !w.testBit (n - 1 - i)).length := by
  symm
  split
  next zero => exact length_takeWhile_range le_rfl (by simp [zero]) (by omega)
  next nonzero =>
    have top : w.log2 < n := (Nat.log2_lt nonzero).mpr fits
    refine length_takeWhile_range (by omega) (fun i hi => ?_) fun _ => ?_
    · rw [Nat.testBit_lt_two_pow (Nat.lt_of_lt_of_le Nat.lt_log2_self (Nat.pow_le_pow_right Nat.two_pos (by omega)))]
      rfl
    · rw [show n - 1 - (n - 1 - w.log2) = w.log2 by omega, Nat.testBit_log2 nonzero]
      rfl

theorem ones_eq (u : Word) : onesCount 64 u.toNat = ones u := by simp only [onesCount_eq, ones, BitVec.testBit_toNat]
theorem zerosBelow_eq (u : Word) : trailingZeros 64 u.toNat = zerosBelow u := by simp only [trailingZeros_eq, zerosBelow, BitVec.testBit_toNat]
theorem zerosAbove_eq (u : Word) : wordLeadingZeros 64 u.toNat = zerosAbove u := by
  rw [wordLeadingZeros, leadingZeros_eq u.isLt]
  simp only [zerosAbove, BitVec.testBit_toNat]

/-! ## Words with issue effects only -/

section
variable {s : State} {q : Nat} {b b' : Block} {reads : List Reg}

/-- A word with issue effects only leaves its block as its body says, with its warnings (R182, R215). -/
theorem WordReady.plainWord (h : WordReady s q b reads) {f : WordCtx → Block} {more : Word} (mbz : Bool)
    (does : f ⟨q, s.seq q, b⟩ = b'.warn more) (keeps : b'.swarn = b.swarn) :
    s.plainWord reads mbz f = .next (issued s q b { b' with swarn := warned b reads mbz more }) := by
  have swarn : b'.swarn ||| more ||| (WordCtx.crd ⟨q, s.seq q, b⟩ reads ||| warnIf mbz swMBZ) = warned b reads mbz more := by
    rw [warned_eq b q (s.seq q), keeps]
    ac_rfl
  rw [State.plainWord_issues h.focus h.block h.awaits, does]
  simp only [issued, Block.warn, swarn]

/-- So does one without a warning of its own. -/
theorem WordReady.plainWord_quiet (h : WordReady s q b reads) {f : WordCtx → Block} (mbz : Bool) (does : f ⟨q, s.seq q, b⟩ = b')
    (keeps : b'.swarn = b.swarn) : s.plainWord reads mbz f = .next (issued s q b { b' with swarn := warned b reads mbz 0 }) :=
  h.plainWord mbz (does.trans (by simp [Block.warn])) keeps

/-- A word of two operands (R191). -/
theorem binaryWord_of_exec {i : Reg → Reg → Reg → Bool → Pred → Instr} {f warn : Word → Word → Word} {op : Word → Word → Word × Word}
    (hx : ∀ d a c x g s, exec (i d a c x g) s = s.intWord d a c x op) (value : ∀ u v, op u v = (f u v, warn u v)) : BinaryWord i f warn := by
  intro s q b d a c x g h
  refine (hx ..).trans (h.plainWord x (b' := b.write d (f (readReg b.regs a) (readReg b.regs c))) ?_ rfl)
  simp only [reg_eq, value]

/-- A word of one operand (R191). -/
theorem WordReady.unaryWord {d a : Reg} (h : WordReady s q b [a]) (x : Bool) {f op : Word → Word} (value : ∀ u, op u = f u) :
    s.unaryWord d a x op = .next (issued s q b (wrote b d (f (readReg b.regs a)) (warned b [a] x 0))) :=
  h.plainWord_quiet x (b' := b.write d (f (readReg b.regs a))) (by simp only [reg_eq, value]) rfl

theorem unaryWord_of_exec {i : Reg → Reg → Reg → Bool → Pred → Instr} {f op : Word → Word}
    (hx : ∀ d a c x g s, exec (i d a c x g) s = s.unaryWord d a x op) (value : ∀ u, op u = f u) : UnaryWord i f :=
  fun _ _ _ _ _ _ x _ h => (hx ..).trans (h.unaryWord x value)

/-- A word of one operand and an immediate (R193). -/
theorem immWord_of_exec {i : Pred → Instr} {d a : Reg} {x : Bool} {f op : Word → Word} (value : ∀ u, op u = f u)
    (hx : ∀ g s, exec (i g) s = s.unaryWord d a x op) : ImmWord i d a x f :=
  fun _ _ _ _ h => (hx ..).trans (h.unaryWord x value)

/-- A word that writes a predicate (R196). -/
theorem predWord_of_exec {i : Pred → Instr} {p : Pred} {x : Bool} {f : Block → Bool}
    (hx : ∀ g s, exec (i g) s = s.plainWord [] x fun c => c.b.writePred p (f c.b)) : PredWord i p x f :=
  fun _ _ b _ h => (hx ..).trans (h.plainWord_quiet x (b' := b.writePred p (f b)) rfl rfl)

end

/-- R191, R192: every word of the group is one with two operands, whose value and warning are those of the rule. -/
theorem binaryWords : Claims.IntegerWordsWriteTheirResults := by
  have quietly_ {i : Reg → Reg → Reg → Bool → Pred → Instr} {f g : Word → Word → Word} (value : ∀ u v, g u v = f u v)
      (hx : ∀ d a c x p s, exec (i d a c x p) s = s.intWord d a c x fun u v => (g u v, 0)) : BinaryWord i f quietly :=
    binaryWord_of_exec hx fun u v => by rw [value]; rfl
  have divides {i : Reg → Reg → Reg → Bool → Pred → Instr} {f g : Word → Word → Word} (value : ∀ u v, g u v = f u v)
      (hx : ∀ d a c x p s, exec (i d a c x p) s = s.intWord d a c x fun u v => (g u v, divWarn v)) : BinaryWord i f divz :=
    binaryWord_of_exec hx fun u v => by rw [value]; simp [divWarn, divz, warnIf, swDIVZ, bit64]
  refine ⟨?_, ?_, ?_, ?mulh, ?_, ?div, ?divu, ?rem, ?remu, ?_, ?_, ?_, ?_, ?_, ?_, ?min, ?max, ?minu, ?maxu⟩
  case mulh => exact quietly_ (g := mulhValue) (fun u v => by rw [mulhValue, Int.fdiv_eq_ediv_of_nonneg _ (by norm_num)]) fun _ _ _ _ _ _ => rfl
  case divu =>
    refine divides (g := divuValue) (fun u v => ?_) fun _ _ _ _ _ _ => rfl
    simp only [divuValue, BitVec.udiv_def]
  case remu =>
    refine divides (g := remuValue) (fun u v => ?_) fun _ _ _ _ _ _ => rfl
    simp only [remuValue, BitVec.umod_def]
  case min =>
    refine quietly_ (g := fun u v => if u.toInt ≤ v.toInt then u else v) (fun u v => ?_) fun _ _ _ _ _ _ => rfl
    rcases lt_trichotomy u.toInt v.toInt with lt | eq | gt
    · rw [if_pos lt.le, if_pos lt]
    · obtain rfl := BitVec.eq_of_toInt_eq eq
      simp
    · rw [if_neg (by omega), if_neg (by omega)]
  case max =>
    refine quietly_ (g := fun u v => if v.toInt ≤ u.toInt then u else v) (fun u v => ?_) fun _ _ _ _ _ _ => rfl
    rcases lt_trichotomy u.toInt v.toInt with lt | eq | gt
    · rw [if_neg (by omega), if_neg (by omega)]
    · obtain rfl := BitVec.eq_of_toInt_eq eq
      simp
    · rw [if_pos gt.le, if_pos gt]
  case minu =>
    refine quietly_ (g := fun u v => if u.toNat ≤ v.toNat then u else v) (fun u v => ?_) fun _ _ _ _ _ _ => rfl
    rcases lt_trichotomy u.toNat v.toNat with lt | eq | gt
    · rw [if_pos lt.le, if_pos lt]
    · obtain rfl := BitVec.eq_of_toNat_eq eq
      simp
    · rw [if_neg (by omega), if_neg (by omega)]
  case maxu =>
    refine quietly_ (g := fun u v => if v.toNat ≤ u.toNat then u else v) (fun u v => ?_) fun _ _ _ _ _ _ => rfl
    rcases lt_trichotomy u.toNat v.toNat with lt | eq | gt
    · rw [if_neg (by omega), if_neg (by omega)]
    · obtain rfl := BitVec.eq_of_toNat_eq eq
      simp
    · rw [if_pos gt.le, if_pos gt]
  case div | rem => exact divides (fun _ _ => rfl) fun _ _ _ _ _ _ => rfl
  all_goals exact quietly_ (fun _ _ => rfl) fun _ _ _ _ _ _ => rfl

/-- Settles O1: the words of two operands by `binaryWords`, the counts by what the model's counts come to. -/
theorem integerWordsWriteTheirResults : Obligations.IntegerWordsWriteTheirResults := by
  refine ⟨binaryWords, ?popc, ?clz, ?ctz⟩
  case popc => exact unaryWord_of_exec (op := fun u => BitVec.ofNat 64 (onesCount 64 u.toNat)) (fun _ _ _ _ _ _ => rfl) fun u => by rw [ones_eq]
  case clz =>
    exact unaryWord_of_exec (op := fun u => BitVec.ofNat 64 (wordLeadingZeros 64 u.toNat)) (fun _ _ _ _ _ _ => rfl) fun u => by rw [zerosAbove_eq]
  case ctz =>
    exact unaryWord_of_exec (op := fun u => BitVec.ofNat 64 (trailingZeros 64 u.toNat)) (fun _ _ _ _ _ _ => rfl) fun u => by rw [zerosBelow_eq]

/-- Sixteen bits of a register replaced (R194). -/
theorem luiValue_eq (u : Word) (h : BitVec 2) (k : BitVec 16) :
    luiValue u h k = (u &&& ~~~(BitVec.ofNat 64 (0xFFFF * 2 ^ (16 * h.toNat)))) ||| BitVec.ofNat 64 (k.toNat * 2 ^ (16 * h.toNat)) := by
  have shifted (m : Nat) : BitVec.ofNat 64 m <<< (16 * h.toNat) = BitVec.ofNat 64 (m * 2 ^ (16 * h.toNat)) := by
    apply BitVec.eq_of_toNat_eq
    simp [BitVec.toNat_shiftLeft, Nat.shiftLeft_eq, Nat.mod_mul_mod]
  have half : k.setWidth 64 = BitVec.ofNat 64 k.toNat := by simp
  rw [luiValue, ← shifted, ← shifted, half]
  rfl

/-- Settles O4: each word with an immediate is one of a single operand, and the constants read no register. -/
theorem immediateWordsWriteTheirResults : Obligations.ImmediateWordsWriteTheirResults := by
  constructor
  · intro d a imm n x h k
    refine ⟨?_, ?_, ?_, ?_, ?_, ?_, ?_, ?lui⟩
    case lui => exact immWord_of_exec (op := fun u => luiValue u h k) (fun u => luiValue_eq u h k) fun _ _ => rfl
    all_goals exact immWord_of_exec (fun _ => rfl) fun _ _ => rfl
  · intro s q b d imm g h
    constructor
    · show execLi d imm g s = _
      exact h.plainWord_quiet (b' := b.write d (imm.signExtend 64)) false rfl rfl
    · show execLea d imm g s = _
      exact h.plainWord_quiet (b' := b.write d ((s.seq q).pc.setWidth 64 + BitVec.ofInt 64 (4 * imm.toInt))) false rfl rfl

/-! ## Compares and predicates (R195, R196) -/

theorem cmpHolds_eq (k : BitVec 3) (u v : Word) : cmpHolds k u v = condition k u v := by
  obtain ⟨k, hk⟩ := k
  interval_cases k <;> rfl

/-- Settles O2: each is a word with issue effects only. -/
theorem comparesAndPredicates : Obligations.ComparesAndPredicates := by
  refine ⟨fun p a c x => ⟨?_, ?_, ?_⟩, fun s q b p a c k x g h => ?cmp, fun s q b d a c p g h => ?sel⟩
  case cmp =>
    have reserved : warnIf (decide (6 ≤ k.toNat)) swRSVF = if 6 ≤ k.toNat then 0x8 else 0 := by simp [warnIf, swRSVF, bit64]
    show execCmp p a c k x g s = _
    refine h.plainWord x (b' := b.writePred p (condition k (readReg b.regs a) (readReg b.regs c))) ?_ rfl
    simp only [reg_eq, cmpHolds_eq, reserved]
  case sel =>
    show execSeqSel d a c p g s = _
    exact h.plainWord_quiet (b' := b.write d (if readPred b.preds p then readReg b.regs a else readReg b.regs c)) false rfl rfl
  all_goals exact predWord_of_exec fun _ _ => rfl

end Sys2Proof.Claims
end

section
/-! PROOFS. The integer stages (04 R72 to R78): each is the shared compute stage with the function of its rule. -/

namespace Sys2Proof.Claims

open Sys2Proof.Machine

/-! ## Integer stages (R72 to R78) -/

/-- A stage whose function gives in each lane what the rule gives. -/
theorem computes_of_values {op : BitVec 6} {i : StageFields → Instr} {warn : StageFields → Lane} {g h : StageFields → Lane → Lane → Lane → Flagged}
    (value : ∀ f a b c, h f a b c = g f a b c) (hx : ∀ f s, exec (i f) s = s.runStage op.toNat f fun x o => x.compute o (warn f) (h f)) :
    Computes op i warn g := by
  obtain rfl : h = g := by funext f a b c; exact value f a b c
  exact computes_of_compute hx

/-- The modifiers of R16, as MOD names them. -/
theorem satm_eq (f : StageFields) (z : Int) : satm (satOf f.mod.toNat) z = narrowed f z := by
  obtain ⟨a, b, c, ⟨mod, hmod⟩, lant, dst, aux⟩ := f
  interval_cases mod <;> rfl

theorem shiftAmount_eq (b : Lane) : shiftAmount b = b.toNat % 64 := by simp [shiftAmount, bv, bitsOf]

theorem ishrOp_eq (a b : Lane) : ishrOp a b = a >>> (b.toNat % 64) := by
  apply BitVec.eq_of_toNat_eq
  rw [ishrOp, shiftAmount_eq, BitVec.toNat_ofNat, BitVec.toNat_ushiftRight, Nat.shiftRight_eq_div_pow,
    Nat.mod_eq_of_lt (Nat.lt_of_le_of_lt (Nat.div_le_self ..) a.isLt)]

theorem israOp_eq (a b : Lane) : israOp a b = a.sshiftRight (b.toNat % 64) := by
  rw [israOp, shiftAmount_eq, BitVec.sshiftRight, Int.shiftRight_eq_div_pow]
  push_cast
  rfl

theorem icmpOp_eq (k : BitVec 3) (a b : Lane) : plain (laneOfBool (icmpOp k.toNat a b)) = truth (compared k a b) := by
  obtain ⟨k, hk⟩ := k
  interval_cases k <;> rfl

theorem lanes_leadingZeros (w : Lane) : leadingZeros w = ((List.range 36).takeWhile fun i => !w.getLsbD (35 - i)).length := by
  have zero : w = 0 ↔ w.toNat = 0 := ⟨fun h => h ▸ rfl, fun h => BitVec.eq_of_toNat_eq h⟩
  have counted := leadingZeros_eq w.isLt
  simp only [BitVec.testBit_toNat] at counted
  simp only [leadingZeros, zero]
  exact counted

/-- Settles O20: each stage is the shared compute stage with a function that gives what the rule gives. -/
theorem integerStagesCompute : Obligations.IntegerStagesCompute := by
  have saturates_ {op : BitVec 6} {i : StageFields → Instr} {z : Lane → Lane → Lane → Int}
      (hx : ∀ f s, exec (i f) s = s.runStage op.toNat f fun x o => x.compute o (saturates f) fun a b c => satm (satOf f.mod.toNat) (z a b c)) :
      Computes op i saturates fun f a b c => narrowed f (z a b c) := computes_of_values (fun f _ _ _ => satm_eq f _) hx
  refine ⟨?_, ?_, ?add, ?sub, ?mul, ?mad, ?_, ?_, ?_, ?_, ?shl, ?shr, ?sra, ?cmp, ?min, ?max, ?_, ?clz⟩
  case add => exact saturates_ fun _ _ => rfl
  case sub => exact saturates_ fun _ _ => rfl
  case mul => exact saturates_ fun _ _ => rfl
  case mad => exact saturates_ fun _ _ => rfl
  case shl =>
    exact computes_of_values (h := fun f a b _ => ishlOp (satOf f.mod.toNat) a b)
      (fun f a b _ => by rw [ishlOp, satm_eq, shiftAmount_eq]) fun _ _ => rfl
  case shr => exact computes_of_values (h := fun _ a b _ => plain (ishrOp a b)) (fun _ a b _ => by rw [ishrOp_eq]; rfl) fun _ _ => rfl
  case sra => exact computes_of_values (h := fun _ a b _ => plain (israOp a b)) (fun _ a b _ => by rw [israOp_eq]; rfl) fun _ _ => rfl
  case cmp =>
    exact computes_of_values (h := fun f a b _ => plain (laneOfBool (icmpOp f.mod.toNat a b)))
      (fun f a b _ => icmpOp_eq f.mod a b) fun _ _ => rfl
  case min =>
    exact computes_of_values (h := fun _ a b _ => plain (if b.toInt < a.toInt then b else a)) (fun _ a b _ => by simp [BitVec.slt, plain, quiet])
      fun _ _ => rfl
  case max =>
    exact computes_of_values (h := fun _ a b _ => plain (if a.toInt < b.toInt then b else a)) (fun _ a b _ => by simp [BitVec.slt, plain, quiet])
      fun _ _ => rfl
  case clz =>
    exact computes_of_values (h := fun _ a _ _ => plain (BitVec.ofNat 36 (leadingZeros a))) (fun _ a _ _ => by rw [lanes_leadingZeros]; rfl)
      fun _ _ => rfl
  all_goals exact computes_of_values (fun _ _ _ _ => rfl) fun _ _ => rfl

end Sys2Proof.Claims
end

section
/-! PROOFS. Control words, and the words that queue an effect of the sequencer's own (08 R183 to R186, R197, R207 to R213; 09 R222, R244, R254). -/

namespace Sys2Proof.Claims

open Sys2Proof.Machine

/-! ## A reserved function with a field that must be 0 -/

/-- A block of one word, in issue in the only sequencer that has anything to do. -/
def loneBlock : Block := Block.start [0] (Vector.replicate 32 0) (Vector.replicate 8 false)

/-- The word at its head is about to run. -/
def loneState : State := { State.reset with focus := .seq 0, seqs := [(0, { Seq.init with blk := some loneBlock })] }

theorem loneState_ready : WordReady loneState 0 loneBlock [] := ⟨rfl, rfl, fun _ h => nomatch h⟩

/-- The word 0x208 is a reserved function of opcode 0, FN 8, with bit 3 set, which R178 marks 0. -/
theorem decodeSeq_reserved : decodeSeq 0x208 = .ok (.seqNop (.reservedFn 0 65) false 0) := by rfl

/-- The model sets MBZ with RSVF for it. -/
theorem loneState_warns :
    exec (.seqNop (.reservedFn 0 65) false 0) loneState = .next (issued loneState 0 loneBlock { loneBlock with swarn := 0x18 }) := rfl

/-- The block of a sequencer after its word has issued. -/
theorem issued_blk (s : State) (q : Nat) (b b' : Block) : ((issued s q b b').seq q).blk = some { b' with idx := b.idx + 1, waiting := false } := by
  rw [issued, State.seq_setSeq]

/-- Refutes O5: a reserved function may have more fields that must be 0 than the one that `x` stands for. Where one of them is not, as bit 3 of the
word in `loneState_warns`, the model sets MBZ beside RSVF, and `ExitWordsNameTheSuccessor` has RSVF alone. -/
theorem not_controlWordsMarkTheBlock : ¬ Obligations.ControlWordsMarkTheBlock := by
  rintro ⟨-, -, -, nops⟩
  have quiet := nops loneState 0 loneBlock (.reservedFn 0 65) false 0 loneState_ready
  have same := Host.Outcome.next.inj (loneState_warns.symm.trans quiet)
  have swarn := congrArg (fun t : State => (t.seq 0).blk.map Block.swarn) same
  simp only [issued_blk] at swarn
  exact absurd swarn (by decide)

end Sys2Proof.Claims
end

section
/-! PROOFS. Words that queue an effect of the sequencer's own, and those that read a CSR, the time or a window (08 R182, R197, R207 to R213; 09 R222,
R244, R254). -/

namespace Sys2Proof.Claims

open Sys2Proof.Machine

section
variable {s s' : State} {q : Nat} {b b' : Block} {reads : List Reg}

/-- A word whose body queues one effect, with some warnings, leaves the effect in its block (R183). -/
theorem WordReady.queues (h : WordReady s q b reads) {body : State → WordCtx → WordRes × State} {e : Effect} {regs : List Reg} {w warn : Word}
    (hb : body s ⟨q, s.seq q, b⟩ = (.issue ((b.queue s.nextId (s.seq q).blocks.toNat e regs).warn w), oneId s)) (hw : b.swarn ||| w = warn) :
    s.runWord body = .next (issued (oneId s) q b (queued s q b e regs warn)) := by
  obtain rfl := hw
  exact h.issues hb

/-- A word whose body writes a register, with some warnings, leaves it written in its block (R182). -/
theorem WordReady.writes (h : WordReady s q b reads) {body : State → WordCtx → WordRes × State} {d : Reg} {x w warn : Word}
    (hb : body s ⟨q, s.seq q, b⟩ = (.issue ((b.write d x).warn w), s)) (hw : b.swarn ||| w = warn) :
    s.runWord body = .next (issued s q b (wrote b d x warn)) := by
  obtain rfl := hw
  exact h.issues hb

/-- The warnings of a word that reads no register. -/
theorem warned_of_no_reads (b : Block) (mbz : Bool) (more : Word) : warned b [] mbz more = b.swarn ||| (warnIf mbz swMBZ ||| more) := by
  rw [warned_eq b 0 Seq.init]
  simp [WordCtx.crd, warnIf]

/-- SCOPEX, as the model and as the statements write it (R207). -/
theorem scopeWarn_eq (scope : BitVec 4) : scopeWarn scope = scopex scope := by simp [scopeWarn, scopex, warnIf, swSCOPEX, bit64]

/-- RSVF of a work-ID word (R197). -/
theorem widReserved_eq (f : BitVec 3) : warnIf (f == 7) swRSVF = if f = 7 then 0x8 else 0 := by simp [warnIf, swRSVF, bit64]

end

/-- Settles O7: each queues its effect; a reserved scope acts as `scopeOf` has it. -/
theorem orderWordsAreQueued : Obligations.OrderWordsAreQueued := by
  constructor
  · intro s q b scope x g h
    show execFence scope x g s = _
    refine h.queues rfl ?_
    rw [warned_of_no_reads, scopeWarn_eq]
  · intro s q b d a scope x g h
    show execPublish d a scope x g s = _
    refine h.queues (w := WordCtx.crd ⟨q, s.seq q, b⟩ [a] ||| warnIf x swMBZ ||| scopeWarn scope) ?_ ?_
    · simp only [h.awaits, if_neg Bool.false_ne_true, reg_eq]
      rfl
    · rw [warned_eq b q (s.seq q), scopeWarn_eq]

/-- Settles O8: a read writes what it finds, a write is queued. -/
theorem csrTimeAndWorkIdWords : Obligations.CsrTimeAndWorkIdWords := by
  refine ⟨?csrr, ?csrw, ?time, ?get, ?set⟩
  case csrr =>
    intro s q b d a csr g h free
    show execCsrr d a csr g s = _
    have number : csr.toNat = csrWID ↔ csr = 8 := ⟨fun e => BitVec.eq_of_toNat_eq e, fun e => e ▸ rfl⟩
    refine h.writes (x := seesAhead b (s.readCsr q csr.toNat)) (w := warnIf (b.changesCsr csr.toNat) swCRD) ?_ ?_
    · refine (if_neg ?_).trans rfl
      rintro ⟨wid, taking⟩
      exact absurd ((free (number.1 wid)).symm.trans taking) Bool.false_ne_true
    · rw [warned_of_no_reads]
      simp [warnIf, swCRD, bit64]
  case csrw =>
    intro s q b a csr x g h
    show execCsrw a csr x g s = _
    refine h.queues (w := WordCtx.crd ⟨q, s.seq q, b⟩ [a] ||| warnIf x swMBZ) ?_ ?_
    · simp only [h.awaits, if_neg Bool.false_ne_true, reg_eq]
      rfl
    · rw [warned_without_more b q (s.seq q)]
  case time =>
    intro s q b d x g h
    show execTime d x g s = _
    refine h.writes (x := seesAhead b (BitVec.ofNat 64 s.stamp)) (w := warnIf x swMBZ) rfl ?_
    simp [warned_of_no_reads]
  case get =>
    intro s q b d a f x g h free
    show execWidGet d a f x g s = _
    refine h.writes ((if_neg ?_).trans rfl) ?_
    · simp [free]
    · rw [warned_of_no_reads, ← widReserved_eq]
      simp only [warnIf, swCRD, csrWID, csrWIDF, bit64]
      ac_rfl
  case set =>
    intro s q b d a f x g h
    show execWidSet d a f x g s = _
    refine h.queues (w := WordCtx.crd ⟨q, s.seq q, b⟩ [a] ||| warnIf (f == 7) swRSVF ||| warnIf x swMBZ) ?_ ?_
    · simp only [h.awaits, if_neg Bool.false_ne_true, reg_eq]
      rfl
    · rw [warned_eq b q (s.seq q), widReserved_eq]
      ac_rfl

/-! ## Windows of the sequencer (R222, R244) -/

/-- A local window word on a bound window that can hold what it asks for runs its body (R222). -/
theorem localWord_runs {s : State} {q : Nat} {b : Block} {m : BitVec 3} {bad : Word → Bool}
    (focus : s.focus = .seq q) (block : (s.seq q).blk = some b)
    (bound : bitAt ((s.seq q).desc m) 63 = true) (good : bad ((s.seq q).desc m) = false) (body : State → WordCtx → WordRes × State) :
    s.localWord m bad body = s.runWord body := by
  have passes : (!mdV ((s.seq q).desc m) || bad ((s.seq q).desc m)) = false := by simp [mdV, bound, good]
  simp only [State.localWord, State.runWord_next focus block, passes, if_neg Bool.false_ne_true]

/-- The registers of an element (R222). -/
theorem elemRegs_eq (s : State) (q : Nat) (m : BitVec 3) (d : Reg) : elemRegs ((s.seq q).desc m) d = elementRegs s q m d := by
  unfold elemRegs elementRegs mdStep mdElem
  split <;> simp [regRun, List.range_succ]

theorem elementRegs_of_record {s : State} {q : Nat} {m : BitVec 3} (record : bitAt ((s.seq q).desc m) 62 = true) (d : Reg) :
    elementRegs s q m d = regRun d 4 := by rw [← elemRegs_eq, elemRegs, mdStep, mdElem, record, if_pos rfl]

/-- Settles O9: each runs its body, which reads the window as the block's earlier words leave it, or queues its effect. -/
theorem localWindowWords : Obligations.LocalWindowWords := by
  refine ⟨?read, ?fill, ?shrink, ?write, ?taskFill, ?take⟩
  case read =>
    intro s q b d imm m g h holds
    show execWrdLocal d imm m g s = _
    refine (localWord_runs h.focus h.block holds.bound (decide_eq_false (Nat.not_le.mpr holds.most)) _).trans (h.issues ?_)
    refine (if_neg (Nat.not_le.mpr holds.count)).trans ?_
    rw [elemRegs_eq]
  case fill =>
    intro s q b d imm m g h fits
    show execWflLocal d imm m g s = _
    refine (localWord_runs h.focus h.block fits.bound rfl _).trans (h.queues (w := WordCtx.crd ⟨q, s.seq q, b⟩ (elementRegs s q m d)) ?_ ?_)
    · refine (if_neg ?_).trans ?_
      · have room : ¬ mdCap ((s.seq q).desc m) ≤ ((WordCtx.view ⟨q, s.seq q, b⟩).win m).filled := Nat.not_le.mpr fits.count
        simp [elemRegs_eq, h.awaits, room]
      · rw [elemRegs_eq]
        rfl
    · simp [warned_eq b q (s.seq q), warnIf]
  case shrink =>
    intro s q b imm m x g h bound most count
    show execWshrLocal imm m x g s = _
    refine (localWord_runs h.focus h.block bound (decide_eq_false (Nat.not_lt.mpr most)) _).trans (h.queues (w := warnIf x swMBZ) ?_ ?_)
    · exact (if_neg (Nat.not_lt.mpr count)).trans rfl
    · simp [warned_of_no_reads]
  case write =>
    intro s q b d imm m g h holds
    show execWstLocal d imm m g s = _
    refine (localWord_runs h.focus h.block holds.bound (decide_eq_false (Nat.not_le.mpr holds.most)) _).trans
      (h.queues (w := WordCtx.crd ⟨q, s.seq q, b⟩ (elementRegs s q m d)) ?_ ?_)
    · refine (if_neg ?_).trans ?_
      · simpa [elemRegs_eq, h.awaits] using holds.count
      · rw [elemRegs_eq]
        rfl
    · simp [warned_eq b q (s.seq q), warnIf]
  case taskFill =>
    intro s q b a c m x g record h fits
    show execTaskFill a c m x g s = _
    refine (localWord_runs h.focus h.block fits.bound (by simp [mdElem, record]) _).trans
      (h.queues (w := WordCtx.crd ⟨q, s.seq q, b⟩ (elementRegs s q m a) ||| warnIf x swMBZ) ?_ ?_)
    · refine (if_neg ?_).trans ?_
      · have room : ¬ mdCap ((s.seq q).desc m) ≤ ((WordCtx.view ⟨q, s.seq q, b⟩).win m).filled := Nat.not_le.mpr fits.count
        simp [← elementRegs_of_record record, h.awaits, room]
      · rw [← elementRegs_of_record record]
        rfl
    · rw [warned_without_more b q (s.seq q)]
  case take =>
    intro s q b d a c m x g record bound h
    show execTaskTake d a c m x g s = _
    refine (localWord_runs h.focus h.block bound (by simp [mdElem, record]) _).trans (h.queues (w := warnIf x swMBZ) ?_ ?_)
    · simp [State.fresh, oneId, regRun, List.range_succ, WordCtx.tag]
    · simp [warned_of_no_reads]

/-- Settles O10: a steal queues a take of the sequencer that it names, `task.done` an atomic of -1. -/
theorem taskStealAndDone : Obligations.TaskStealAndDone := by
  constructor
  · intro s q b d a c m x g r h region member
    show execTaskSteal d a c m x g s = _
    have victim : bv (readReg b.regs a) 0 8 = (readReg b.regs a).toNat % 256 := by simp [bv, bitsOf]
    refine h.queues (w := WordCtx.crd ⟨q, s.seq q, b⟩ [a] ||| warnIf x swMBZ) ?_ ?_
    · simp only [h.awaits, if_neg Bool.false_ne_true, reg_eq, State.regionOf, region, victim, member, Bool.not_true]
      simp [State.fresh, oneId, regRun, List.range_succ, WordCtx.tag]
    · rw [warned_without_more b q (s.seq q)]
  · intro s q b d a c m x g fo s' _ h room goes
    replace goes : Reaches s q (readReg b.regs a) (readReg b.regs a).toNat 8 true fo s' := goes
    show execTaskDone d a c m x g s = _
    refine h.issues ?_
    simp only [reg_eq, h.awaits, room.full, Bool.or_false, if_neg Bool.false_ne_true, goes.addrCheck, goes.reach, queueAccess_eq goes.nextId,
      warned_without_more b q (s.seq q)]
    rfl

end Sys2Proof.Claims
end

section
/-! PROOFS. A command word whose unused register field names the register that it reads (09 R217, R253). -/

namespace Sys2Proof.Claims

open Sys2Proof.Machine

/-- The lone block with 5 in register 1. -/
def fiveBlock : Block := Block.start [0] ((Vector.replicate 32 0).set 1 5) (Vector.replicate 8 false)

/-- The word at its head is about to run. -/
def fiveState : State := { State.reset with focus := .seq 0, seqs := [(0, { Seq.init with blk := some fiveBlock })] }

theorem fiveState_ready (reads : List Reg) : WordReady fiveState 0 fiveBlock reads :=
  ⟨rfl, rfl, fun _ _ => .inr (.inr fun _ h => nomatch (show _ ∈ ([] : List Await) from h))⟩

/-- A `net.bind` whose second source field names register 1 too sends that register as the second value of its command. -/
theorem fiveState_sends :
    exec (.netBind 2 1 1 false 0) fiveState =
      sends fiveState 0 fiveBlock (.netBind 2 1 1 false 0) .engine 5 5 0 [2] (warned fiveBlock [1] false 0) := rfl

/-- The second value of the first command that a block has queued. -/
def secondValue (b : Block) : Option Word := b.effects.head?.bind fun e => match e.eff with | .cmd c _ _ => some c.b | _ => none

/-- Refutes O12: its last clause has every `net.bind` send 0 as its second value. The model sends the register that the unused field
names where that is the register that the word reads, as in `fiveState_sends`. -/
theorem not_commandWordsAreQueued : ¬ Obligations.CommandWordsAreQueued := by
  rintro ⟨-, -, -, -, -, bind⟩
  have zero := bind fiveState 0 fiveBlock 2 1 1 false 0 (fiveState_ready _)
  have same := Host.Outcome.next.inj (fiveState_sends.symm.trans zero)
  have second := congrArg (fun t : State => (t.seq 0).blk.bind secondValue) same
  simp only [issued_blk] at second
  exact absurd second (by decide)

end Sys2Proof.Claims
end

section
/-! PROOFS. Synchronous traps of words (08 R185, R187, R188, R190, R198, R199; 09 R221, R222, R244; 14 R304). -/

namespace Sys2Proof.Claims

open Sys2Proof.Machine

/-! ## Taking a trap -/

/-- ECAUSE, as the model and as the statements write it (R188). -/
theorem ecauseWord_eq (cause idx code : Nat) : ecauseWord cause idx code = ecause cause idx code := by
  simp only [ecauseWord, ecause, at_]
  congr 1
  omega

/-- ECAUSE holds the cause in its lowest four bits (R188). -/
theorem ecause_cause {cause : Nat} (small : cause < 16) (idx code : Nat) : (ecause cause idx code).toNat % 16 = cause := by
  rw [ecause, BitVec.toNat_ofNat]
  omega

/-- The lower half of a word, as the record of a double trap holds it (R261). -/
theorem lowHalf_eq (x : Word) : bv x 0 32 = x.toNat % 2 ^ 32 := by simp [bv, bitsOf]

/-- A double trap is reported as the statements have it (R190). -/
theorem reportDouble_eq {cause : Nat} (small : cause < 16) (s : State) (q : Nat) (epc : Word) (idx code : Nat) :
    s.reportDouble q epc cause idx code = reported s q epc (ecause cause idx code) := by
  simp only [State.reportDouble, reported, ecauseWord_eq, ecause_cause small, lowHalf_eq]

/-- Taking a trap enters the handler, or is a double trap (R187, R190). -/
theorem takeTrap_eq {cause : Nat} (small : cause < 16) (s : State) (q : Nat) (epc : Word) (idx code : Nat) (addr : Word) :
    s.takeTrap q epc cause idx code addr = traps s q epc (ecause cause idx code) addr := by
  simp only [State.takeTrap, traps, reportDouble_eq small, Seq.enterTrap, ecauseWord_eq]
  rfl

section
variable {s s' : State} {q : Nat} {b : Block} {reads : List Reg} {body : State → WordCtx → WordRes × State} {cause : Nat} {addr : Word}

/-- The trap of a word at the head of a block in issue, in a state with that block (R187). -/
theorem endWord_traps (small : cause < 16) (same : s'.seq q = s.seq q) (block : (s.seq q).blk = some b) (old : Block) :
    s'.endWord q old (.trap cause addr) = traps s' q ((s.seq q).pc.setWidth 64) (ecause cause b.idx 0) addr := by
  simp only [State.endWord, State.trapWord, same, block, takeTrap_eq small]

/-- A word whose body traps takes the trap (R187). -/
theorem WordReady.traps_to (h : WordReady s q b reads) (small : cause < 16) (same : s'.seq q = s.seq q)
    (hb : body s ⟨q, s.seq q, b⟩ = (.trap cause addr, s')) :
    s.runWord body = .next (traps s' q ((s.seq q).pc.setWidth 64) (ecause cause b.idx 0) addr) := by
  rw [State.runWord_next h.focus h.block, hb, endWord_traps small same h.block]

theorem WordReady.traps (h : WordReady s q b reads) (small : cause < 16) (hb : body s ⟨q, s.seq q, b⟩ = (.trap cause addr, s)) :
    s.runWord body = .next (Claims.traps s q ((s.seq q).pc.setWidth 64) (ecause cause b.idx 0) addr) := h.traps_to small rfl hb

/-- A word whose body waits leaves its block at the word (R186, R189). -/
theorem WordReady.waits_to (h : WordReady s q b reads) (hb : body s ⟨q, s.seq q, b⟩ = (.wait, s')) : s.runWord body = waitsAt s' q b := by
  rw [State.runWord_next h.focus h.block, hb]
  rfl

end

/-! ## Control targets (R185) -/

/-- A register that is no control target gives ADDR where its high bits are set, and ALIGN elsewhere. -/
theorem registerTarget_bad {u : Word} (bad : ¬ goodTarget u) : registerTarget u = .error (if 2 ^ 56 ≤ u.toNat then 4 else 3, u) := by
  unfold registerTarget
  by_cases high : 2 ^ 56 ≤ u.toNat
  · rw [if_pos high, if_pos high]
    rfl
  · have unaligned : u.toNat % 4 ≠ 0 := fun aligned => bad ⟨Nat.not_le.mp high, aligned⟩
    rw [if_neg high, if_neg high, if_pos unaligned]
    rfl

/-- A word that has a part in its block and finds no control target in its register traps (R185). -/
theorem targetWord_traps {s : State} {q : Nat} {b : Block} {a : Reg} (h : WordReady s q b [a]) (bad : ¬ goodTarget (readReg b.regs a)) (mbz : Bool)
    {nop : WordCtx → Bool} (acts : nop ⟨q, s.seq q, b⟩ = false) (f : Block → BitVec 56 → Block) :
    s.targetWord a mbz nop f =
      .next (traps s q ((s.seq q).pc.setWidth 64) (ecause (if 2 ^ 56 ≤ (readReg b.regs a).toNat then 4 else 3) b.idx 0) (readReg b.regs a)) := by
  refine h.traps (by split <;> decide) ?_
  simp only [acts, h.awaits, if_neg Bool.false_ne_true, reg_eq, registerTarget_bad bad]

theorem badControlTargetTraps : BadControlTargetTraps := by
  intro s q b a x g h bad trap
  constructor
  · intro unclosed
    show execRet a x g s = _
    exact targetWord_traps h bad x (by simp [unclosed]) _
  · intro early
    show execExitr a x g s = _
    exact targetWord_traps h bad x (decide_eq_false (Nat.not_le.mpr early)) _

/-! ## Addresses (R198) -/

section
variable {s s' : State} {q : Nat} {b : Block} {reads : List Reg} {u : Word} {va n : Nat} {write : Bool} {r : Region}

theorem addrCheck_high (high : 2 ^ 56 ≤ u.toNat) : addrCheck u va n = some (4, u) := if_pos high

theorem addrCheck_control (high : u.toNat < 2 ^ 56) (control : isControl va = true) : addrCheck u va n = some (7, BitVec.ofNat 64 va) :=
  (if_neg (Nat.not_le.mpr high)).trans (if_pos control)

theorem addrCheck_unaligned (high : u.toNat < 2 ^ 56) (plain : isControl va = false) (unaligned : va % n ≠ 0) :
    addrCheck u va n = some (3, BitVec.ofNat 64 va) :=
  (if_neg (Nat.not_le.mpr high)).trans ((if_neg (by simp [plain])).trans (if_pos unaligned))

/-- A translation that fails is that of the access (R188, R300). -/
theorem reach_fails {code : Nat} (region : s.regionOfSeq q = some r)
    (fails : s.translate q r.ctx va true (s.blockReader q) = (.error code, s')) (b : Block) :
    s.reach ⟨q, s.seq q, b⟩ va write = (.error (if code = codeStopped then .wait else .trap (xlatCause code) (BitVec.ofNat 64 va)), s') := by
  have reader : WordCtx.reader ⟨q, s.seq q, b⟩ = s.blockReader q := rfl
  simp only [State.reach, State.regionOf, region, reader, fails]

/-- A page that may not be written stops a store (R188). -/
theorem reach_not_writable {f : Found} (region : s.regionOfSeq q = some r)
    (found : s.translate q r.ctx va true (s.blockReader q) = (.ok f, s')) (closed : f.tr.writable = false) (b : Block) :
    s.reach ⟨q, s.seq q, b⟩ va true = (.error (.trap 6 (BitVec.ofNat 64 va)), s') := by
  have reader : WordCtx.reader ⟨q, s.seq q, b⟩ = s.blockReader q := rfl
  simp only [State.reach, State.regionOf, region, reader, found, closed]
  rfl

/-- A page that is translated lets a load through, whether it may be written or not. -/
theorem reach_loads {f : Found} (region : s.regionOfSeq q = some r) (found : s.translate q r.ctx va true (s.blockReader q) = (.ok f, s'))
    (b : Block) :
    s.reach ⟨q, s.seq q, b⟩ va false = (.ok f, s') := by
  have reader : WordCtx.reader ⟨q, s.seq q, b⟩ = s.blockReader q := rfl
  simp [State.reach, State.regionOf, region, reader, found]

/-- A translation leaves the sequencers as they were. -/
theorem translate_seq {ctx : Nat} {who : Option Reader} {got : Except Nat Found} (t : s.translate q ctx va true who = (got, s')) (p : Nat) :
    s'.seq p = s.seq p := by
  have reads := s.translate_reads q ctx va true who
  rw [t] at reads
  exact reads.seq p

/-- A word that makes the checks of an access, and then translates, traps as R198 has it. `stops`: what the checks find is its trap, but for a control
address that the word may name. `fails`: what the translation finds is how the word ends. -/
theorem addressTraps_of {i : Instr} {control : Bool} {goes : Prop} {body : State → WordCtx → WordRes × State} (h : WordReady s q b reads)
    (hx : exec i s = s.runWord body)
    (stops : ∀ c a, 2 ^ 56 ≤ u.toNat ∨ control = false ∨ isControl va = false → addrCheck u va n = some (c, a) →
      body s ⟨q, s.seq q, b⟩ = (.trap c a, s))
    (fails : ∀ w s', goes → isControl va = false → addrCheck u va n = none → s.reach ⟨q, s.seq q, b⟩ va write = (.error w, s') →
      body s ⟨q, s.seq q, b⟩ = (w, s')) :
    AddressTraps s q b i u va n control write goes where
  high high := hx.trans (h.traps (by decide) (stops _ _ (.inl high) (addrCheck_high high)))
  plain high plain control := hx.trans (h.traps (by decide) (stops _ _ (.inr (.inl plain)) (addrCheck_control high control)))
  aligned high plain unaligned := hx.trans (h.traps (by decide) (stops _ _ (.inr (.inr plain)) (addrCheck_unaligned high plain unaligned)))
  found r code s' goes high plain aligned region translated := by
    have ends := fails _ s' goes plain (addrCheck_passes high plain aligned) (reach_fails region translated b)
    have same := translate_seq translated q
    constructor
    · intro cause listed
      simp only [List.mem_cons, Prod.mk.injEq, List.not_mem_nil, or_false] at listed
      rcases listed with ⟨rfl, rfl⟩ | ⟨rfl, rfl⟩ | ⟨rfl, rfl⟩ <;> exact hx.trans (h.traps_to (by decide) same ends)
    · rintro rfl
      exact hx.trans (h.waits_to ends)
  may r f s' goes write high plain aligned region translated closed := by
    subst write
    have ends := fails _ s' goes plain (addrCheck_passes high plain aligned) (reach_not_writable region translated closed b)
    exact hx.trans (h.traps_to (by decide) (translate_seq translated q) ends)

/-- The load of the word at the head ends as its translation fails (R198). -/
theorem loadMemory_fails {w : WordRes} (ready : LoadReady s q b va n) (fails : s.reach ⟨q, s.seq q, b⟩ va false = (.error w, s'))
    (f : Block → Nat → Bool → Block) (warn : Word) : loadMemory s ⟨q, s.seq q, b⟩ va n f warn = (w, s') := by
  have unsent : b.loadOf b.idx = none := by simpa [Block.loadOf, List.find?_eq_none] using ready.fresh
  simp only [loadMemory, unsent, WordCtx.loadHeld, ready.held, ready.fenced, Bool.or_false, if_neg Bool.false_ne_true, fails]

/-- A load that has met an uncorrectable error traps FLOOR (R304). -/
theorem loadMemory_bad {l : BlockLoad} {bad : Nat} (back : LoadBack b l (.bad bad)) (f : Block → Nat → Bool → Block) (warn : Word) :
    loadMemory s ⟨q, s.seq q, b⟩ va n f warn = (.trap 9 (BitVec.ofNat 64 va), s) := by
  have sent : b.loadOf b.idx = some l := back.sent
  simp only [loadMemory, sent, finishLoad, back.back]
  rfl

end

section
variable {s s' : State} {q : Nat} {b : Block} {d a : Reg} {w : BitVec 2} {u : BitVec 1} {va : Nat}

/-- An `ld` or an `st` takes its address for a register's only where it may name one (R138). -/
theorem names_no_register {x : Word} (free : 2 ^ 56 ≤ x.toNat ∨ (w == 3) = false ∨ isControl va = false) :
    ¬ (x.toNat < 2 ^ 56 ∧ isControl va = true ∧ 2 ^ w.toNat = 8) := by
  rintro ⟨high, control, doubleword⟩
  rcases free with f | f | f
  · omega
  · rw [← doubleword_iff, doubleword] at f
    exact absurd f (by decide)
  · exact absurd (f.symm.trans control) Bool.false_ne_true

theorem ld_addressTraps (h : WordReady s q b [a]) (off : BitVec 10) (g : Pred) :
    let n : Nat := 2 ^ w.toNat
    let va := address (readReg b.regs a) (off.toInt * n)
    AddressTraps s q b (.ld d a w u off g) (readReg b.regs a) va n (w == 3) false (LoadReady s q b va n) := by
  refine addressTraps_of h (show execLd d a w u off g s = _ from rfl) ?_ ?_
  · intro c addr free stops
    simp only [reg_eq, wordAddr_eq, h.awaits, if_neg Bool.false_ne_true, if_neg (names_no_register free), stops]
  · intro w' s' ready plain passes fails
    simp only [reg_eq, wordAddr_eq, h.awaits, if_neg Bool.false_ne_true, if_neg (not_control plain _ _), passes, loadMemory_fails ready fails]

theorem ldx_addressTraps (h : WordReady s q b [a]) (p : Pred) (off : BitVec 7) (g : Pred) :
    let n : Nat := 2 ^ w.toNat
    let va := address (readReg b.regs a) (off.toInt * n)
    AddressTraps s q b (.ldx d a w u p off g) (readReg b.regs a) va n false false (LoadReady s q b va n) := by
  refine addressTraps_of h (show execLdx d a w u p off g s = _ from rfl) ?_ ?_
  · intro c addr _ stops
    simp only [reg_eq, wordAddr_eq, h.awaits, if_neg Bool.false_ne_true, stops]
  · intro w' s' ready plain passes fails
    simp only [reg_eq, wordAddr_eq, h.awaits, if_neg Bool.false_ne_true, passes, loadMemory_fails ready fails]

theorem st_addressTraps (h : WordReady s q b [a, d]) (room : HasRoom s q b) (off : BitVec 10) (g : Pred) :
    let n : Nat := 2 ^ w.toNat
    let va := address (readReg b.regs a) (off.toInt * n)
    AddressTraps s q b (.st d a w u off g) (readReg b.regs a) va n (w == 3) true True := by
  refine addressTraps_of h (State.commandWord_issues h.focus (stIssue d a w u off g) _) ?_ ?_
  · intro c addr free stops
    simp only [stIssue, reg_eq, wordAddr_eq, h.awaits, room.full, Bool.or_false, if_neg Bool.false_ne_true, if_neg (names_no_register free), stops]
  · intro w' s' _ plain passes fails
    simp only [stIssue, reg_eq, wordAddr_eq, h.awaits, room.full, Bool.or_false, if_neg Bool.false_ne_true, if_neg (not_control plain _ _),
      passes, fails]

theorem verase_addressTraps (h : WordReady s q b [a]) (room : HasRoom s q b) (x : Bool) (g : Pred) :
    AddressTraps s q b (.verase a x g) (readReg b.regs a) (readReg b.regs a).toNat 1 false false True := by
  refine addressTraps_of h (show execVerase a x g s = _ from rfl) ?_ ?_
  · intro c addr _ stops
    simp only [reg_eq, h.awaits, room.full, Bool.or_false, if_neg Bool.false_ne_true, stops]
  · intro w' s' _ plain passes fails
    simp only [reg_eq, h.awaits, room.full, Bool.or_false, if_neg Bool.false_ne_true, passes, fails]

/-- A read-modify-write makes the checks of its access (R204, R205). -/
theorem atomicWord_addressTraps {i : Instr} {reads : List Reg} {f : AmoFields} {c : Reg} {x : Bool} {op : WordCtx → AccessOp} {code : Code}
    (h : WordReady s q b reads) (room : HasRoom s q b) (hx : exec i s = s.atomicWord d a c f x reads op code) :
    AddressTraps s q b i (readReg b.regs a) (readReg b.regs a).toNat (if f.sz = 1 then 8 else 4) false true True := by
  refine addressTraps_of h hx ?_ ?_
  · intro cause addr _ stops
    simp only [reg_eq, h.awaits, room.full, Bool.or_false, if_neg Bool.false_ne_true, stops]
  · intro w' s' _ plain passes fails
    simp only [reg_eq, h.awaits, room.full, Bool.or_false, if_neg Bool.false_ne_true, passes, fails]

theorem taskDone_addressTraps {c : Reg} (h : WordReady s q b [a]) (room : HasRoom s q b) (m : BitVec 3) (x : Bool) (g : Pred) :
    AddressTraps s q b (.taskDone d a c m x g) (readReg b.regs a) (readReg b.regs a).toNat 8 false true True := by
  refine addressTraps_of h (show execTaskDone d a c m x g s = _ from rfl) ?_ ?_
  · intro cause addr _ stops
    simp only [reg_eq, h.awaits, room.full, Bool.or_false, if_neg Bool.false_ne_true, stops]
  · intro w' s' _ plain passes fails
    simp only [reg_eq, h.awaits, room.full, Bool.or_false, if_neg Bool.false_ne_true, passes, fails]

end

/-- R187, R188, R190, R198, R244: every one of them makes the checks of its access. -/
theorem atomicsTrap : AtomicsTrap := by
  intro s q b d a c f m x g n u room
  refine ⟨fun h i listed => ?amo, fun h => ?cas, fun h => taskDone_addressTraps h room m x g⟩
  case cas => exact atomicWord_addressTraps h room (show execCas d a c f x g s = _ from rfl)
  case amo =>
    simp only [List.mem_cons, List.not_mem_nil, or_false] at listed
    rcases listed with rfl | rfl | rfl | rfl | rfl | rfl | rfl | rfl | rfl
    · exact atomicWord_addressTraps h room (show execAmoAdd d a c f x g s = _ from rfl)
    · exact atomicWord_addressTraps h room (show execAmoAnd d a c f x g s = _ from rfl)
    · exact atomicWord_addressTraps h room (show execAmoOr d a c f x g s = _ from rfl)
    · exact atomicWord_addressTraps h room (show execAmoXor d a c f x g s = _ from rfl)
    · exact atomicWord_addressTraps h room (show execAmoMin d a c f x g s = _ from rfl)
    · exact atomicWord_addressTraps h room (show execAmoMax d a c f x g s = _ from rfl)
    · exact atomicWord_addressTraps h room (show execAmoMinu d a c f x g s = _ from rfl)
    · exact atomicWord_addressTraps h room (show execAmoMaxu d a c f x g s = _ from rfl)
    · exact atomicWord_addressTraps h room (show execAmoSwap d a c f x g s = _ from rfl)

/-! ## What else stops a memory word -/

/-- A control address that names no register: of a die, or of a core of the region (R138, R305). -/
def NamesNothing (s : State) (q va : Nat) : Prop :=
  (isDieControl va = true ∧ dieControl va = none) ∨ (isDieControl va = false ∧ ∀ r, s.regionOfSeq q = some r → s.coreControl r va = none)

section
variable {s s' : State} {q : Nat} {b : Block} {d a : Reg} {u : BitVec 1} {va : Nat}

theorem controlRead_none (nothing : NamesNothing s q va) (b : Block) : s.controlRead ⟨q, s.seq q, b⟩ va = none := by
  rcases nothing with ⟨die, unlisted⟩ | ⟨core, unnamed⟩
  · simp [State.controlRead, die, unlisted]
  · cases region : s.regionOfSeq q <;> simp [State.controlRead, core, State.regionOf, region, unnamed _]

theorem storeControl_traps (nothing : NamesNothing s q va) (b : Block) (i : Instr) (v warn : Word) :
    storeControl s ⟨q, s.seq q, b⟩ va i v warn = (.trap 7 (BitVec.ofNat 64 va), s) := by
  rcases nothing with ⟨die, unlisted⟩ | ⟨core, unnamed⟩
  · simp only [storeControl, die, unlisted, if_true]
    rfl
  · cases region : s.regionOfSeq q with
    | none => simp [storeControl, core, State.regionOf, region, causeCTL]
    | some r => simp [storeControl, core, State.regionOf, region, unnamed r region, causeCTL]

/-- A load of a control address that names no register traps CTL (R138). -/
theorem ld_traps_control {off : BitVec 10} (h : WordReady s q b [a]) (high : (readReg b.regs a).toNat < 2 ^ 56)
    (control : isControl (address (readReg b.regs a) (off.toInt * 8)) = true)
    (nothing : NamesNothing s q (address (readReg b.regs a) (off.toInt * 8)))
    (g : Pred) :
    exec (.ld d a 3 u off g) s =
      .next (traps s q ((s.seq q).pc.setWidth 64) (ecause 7 b.idx 0) (BitVec.ofNat 64 (address (readReg b.regs a) (off.toInt * 8)))) := by
  show execLd d a 3 u off g s = _
  refine h.traps (by decide) ?_
  simp only [h.awaits, if_neg Bool.false_ne_true]
  refine (if_pos ⟨high, control, rfl⟩).trans ?_
  refine Eq.trans (b := loadControl s ⟨q, s.seq q, b⟩ (address (readReg b.regs a) (off.toInt * 8)) d
    (WordCtx.crd ⟨q, s.seq q, b⟩ [a] ||| warnIf (u == 1 && true) swUNSG)) rfl ?_
  simp only [loadControl, controlRead_none nothing]
  rfl

/-- So does a store (R138). -/
theorem st_traps_control {off : BitVec 10} (h : WordReady s q b [a, d]) (room : HasRoom s q b) (high : (readReg b.regs a).toNat < 2 ^ 56)
    (control : isControl (address (readReg b.regs a) (off.toInt * 8)) = true)
    (nothing : NamesNothing s q (address (readReg b.regs a) (off.toInt * 8)))
    (g : Pred) :
    exec (.st d a 3 u off g) s =
      .next (traps s q ((s.seq q).pc.setWidth 64) (ecause 7 b.idx 0) (BitVec.ofNat 64 (address (readReg b.regs a) (off.toInt * 8)))) := by
  refine (State.commandWord_issues h.focus _ _).trans (h.traps (by decide) ?_)
  rw [stIssue_control h room high control, storeControl_traps nothing]

/-- An erase of a vug page that may not be written traps PERM (R202). -/
theorem verase_traps_closed {x : Bool} {r : Region} {f : Found} (h : WordReady s q b [a]) (room : HasRoom s q b)
    (high : (readReg b.regs a).toNat < 2 ^ 56) (plain : isControl (readReg b.regs a).toNat = false) (region : s.regionOfSeq q = some r)
    (found : s.translate q r.ctx (readReg b.regs a).toNat true (s.blockReader q) = (.ok f, s')) (vug : f.tr.vug = true)
    (closed : f.tr.writable = false)
    (g : Pred) :
    exec (.verase a x g) s = .next (traps s' q ((s.seq q).pc.setWidth 64) (ecause 6 b.idx 0) (readReg b.regs a)) := by
  show execVerase a x g s = _
  refine h.traps_to (by decide) (translate_seq found q) ?_
  simp only [reg_eq, h.awaits, room.full, Bool.or_false, if_neg Bool.false_ne_true, addrCheck_passes high plain (Nat.mod_one _),
    reach_loads region found, vug, closed, Bool.not_true, Bool.not_false, if_true]
  rfl

end

/-- R187, R188, R190, R198: the words make the checks of their access, and find what else stops them behind these. -/
theorem badAddressesTrap : BadAddressesTrap := by
  intro s q b d a w u off off' p x g n base va va' traps_
  refine ⟨fun h => ⟨ld_addressTraps h off g, ldx_addressTraps h p off' g, ?ldBad, ?ldxBad⟩, fun h room => st_addressTraps h room off g,
    fun h room => ⟨verase_addressTraps h room x g, ?closed⟩, ?control⟩
  case ldBad =>
    intro l bad high plain aligned back
    refine (ld_ends h rfl plain (addrCheck_passes high plain aligned) (loadMemory_bad back _ _) g).trans ?_
    rw [endWord_traps (by decide) rfl h.block]
  case ldxBad =>
    intro l bad high plain aligned back
    refine (ldx_ends h rfl (addrCheck_passes high plain aligned) (loadMemory_bad back _ _) g).trans ?_
    rw [endWord_traps (by decide) rfl h.block]
  case closed =>
    intro r f s' high plain region found vug closed
    refine (verase_traps_closed h room high plain region found vug closed g).trans ?_
    simp [base]
  case control =>
    rintro high control nothing rfl
    exact ⟨fun h => ld_traps_control h high control nothing g, fun h room => st_traps_control h room high control nothing g⟩

/-! ## Window words and command words (R221, R222, R244) -/

/-- A local window word on a window that is not bound, or that can never hold what it asks for, traps WIN (R222). -/
theorem localWord_traps {s : State} {q : Nat} {b : Block} {reads : List Reg} {m : BitVec 3} {bad : Word → Bool} (h : WordReady s q b reads)
    (unfit : bitAt ((s.seq q).desc m) 63 = false ∨ bad ((s.seq q).desc m) = true) (body : State → WordCtx → WordRes × State) :
    s.localWord m bad body = .next (traps s q ((s.seq q).pc.setWidth 64) (ecause 14 b.idx 0) 0) := by
  have stops : (!mdV ((s.seq q).desc m) || bad ((s.seq q).desc m)) = true := by
    rcases unfit with unbound | unfit
    · simp [mdV, unbound]
    · simp [unfit]
  refine h.traps (by decide) ?_
  simp only [stops, if_true]
  rfl

theorem localWindowWordsTrapWIN : LocalWindowWordsTrapWIN := by
  intro s q b d a c imm m x g v trap h
  refine ⟨fun unfit => ⟨?read, ?write⟩, fun unfit => ?shrink, fun unbound => ?fill, fun unfit => ⟨?taskFill, ?take⟩⟩
  case read =>
    show execWrdLocal d imm m g s = trap
    exact localWord_traps h (unfit.imp_right decide_eq_true) _
  case write =>
    show execWstLocal d imm m g s = trap
    exact localWord_traps h (unfit.imp_right decide_eq_true) _
  case shrink =>
    show execWshrLocal imm m x g s = trap
    exact localWord_traps h (unfit.imp_right decide_eq_true) _
  case fill =>
    show execWflLocal d imm m g s = trap
    exact localWord_traps h (.inl unbound) _
  case taskFill =>
    show execTaskFill a c m x g s = trap
    exact localWord_traps h (unfit.imp_right fun doubleword => by simpa using doubleword) _
  case take =>
    show execTaskTake d a c m x g s = trap
    exact localWord_traps h (unfit.imp_right fun doubleword => by simpa using doubleword) _

section
variable {s : State} {q : Nat} {b : Block} {a c d : Reg} {r : Region} {i : Instr}

/-- Coordinates that name no core of the region, or a dark one, give no target (R218, R221). -/
theorem target_none {x y : Nat} (region : s.regionOfSeq q = some r) (unnamed : ∀ n, ¬ Names s q x y n) (b : Block) :
    ((s.regionOf ⟨q, s.seq q, b⟩).bind fun r => s.target r x y) = none := by
  rw [State.regionOf, region, Option.bind_some, State.target, Region.target]
  by_cases inside : x < r.w ∧ y < r.h
  · rw [if_pos inside, Option.filter_some, if_neg]
    intro bright
    exact unnamed (r.core x y) ⟨⟨r, region, inside.1, inside.2, rfl⟩, by simpa using bright⟩
  · rw [if_neg inside]
    rfl

/-- A window command that names no core traps TGT (R221). -/
theorem windowIssue_traps {useB : Bool} {mbz : Bool} {warnB : Word → Word} (h : WordReady s q b (if useB then [a, c] else [a])) (room : HasRoom s q b)
    (region : s.regionOfSeq q = some r) (unnamed : ∀ n, ¬ Names s q ((readReg b.regs a).toNat % 256) ((readReg b.regs a).toNat / 256 % 256) n)
    (apply : State → Nat → Cmd → State) :
    s.commandWord (windowIssue i d a c useB mbz warnB) apply = .next (traps s q ((s.seq q).pc.setWidth 64) (ecause 12 b.idx 0) 0) := by
  have x : bv (readReg b.regs a) 0 8 = (readReg b.regs a).toNat % 256 := by simp [bv, bitsOf]
  have y : bv (readReg b.regs a) 8 8 = (readReg b.regs a).toNat / 256 % 256 := by simp [bv, bitsOf]
  refine (State.commandWord_issues h.focus _ _).trans (h.traps (by decide) ?_)
  simp only [windowIssue, h.awaits, room.full, Bool.or_false, if_neg Bool.false_ne_true, reg_eq, x, y, target_none region unnamed]
  rfl

/-- The registers that a target field names (R218). -/
theorem targetReg_toList (t : BitVec 9) : (targetReg t).toList = targetRegs t := by
  unfold targetReg targetRegs bitAt
  split <;> rfl

/-- The coordinates of a target field that names a register are those of the register's value (R218). -/
theorem targetXY_of_register {t : BitVec 9} {r : Reg} (named : targetReg t = some r) (regs : Vector Word 32) :
    targetXY t (readReg regs r) = (targetX t regs, targetY t regs) := by
  unfold targetReg at named
  split at named
  next bit =>
    obtain rfl := Option.some.inj named
    rw [bitAt] at bit
    simp [targetXY, targetX, targetY, bitAt, bit, bv, bitsOf]
  next => cases named

/-- Those of another are its own (R218). -/
theorem targetXY_of_field {t : BitVec 9} (own : targetReg t = none) (u : Word) (regs : Vector Word 32) :
    targetXY t u = (targetX t regs, targetY t regs) := by
  unfold targetReg at own
  split at own
  next => cases own
  next bit =>
    rw [bitAt, Bool.not_eq_true] at bit
    simp only [targetXY, targetX, targetY, bitAt, bit, if_neg Bool.false_ne_true]
    simp [bv, bitsOf]

/-- A stream command that names no core traps TGT (R221). -/
theorem streamIssue_traps {t : BitVec 9} {a : Option Reg} (h : WordReady s q b (a.toList ++ targetRegs t)) (room : HasRoom s q b)
    (region : s.regionOfSeq q = some r) (unnamed : ∀ n, ¬ Names s q (targetX t b.regs) (targetY t b.regs) n) (apply : State → Nat → Cmd → State) :
    s.commandWord (streamIssue i d t a) apply = .next (traps s q ((s.seq q).pc.setWidth 64) (ecause 12 b.idx 0) 0) := by
  refine (State.commandWord_issues h.focus _ _).trans (h.traps (by decide) ?_)
  have there := h.awaits
  rw [← targetReg_toList] at there
  cases named : targetReg t with
  | some r =>
    rw [named] at there
    simp only [streamIssue, there, room.full, Bool.or_false, if_neg Bool.false_ne_true, reg_eq, named,
      targetXY_of_register named, target_none region unnamed]
    rfl
  | none =>
    rw [named] at there
    simp only [streamIssue, there, room.full, Bool.or_false, if_neg Bool.false_ne_true, named,
      targetXY_of_field named _ b.regs, target_none region unnamed]
    rfl

/-- A configuration command that only the owner may issue traps OWNER in another sequencer (R221). -/
theorem configIssue_traps {mbz : Bool} {regs : List Reg} (h : WordReady s q b [a]) (region : s.regionOfSeq q = some r) (member : r.owner ≠ q)
    (apply : State → Nat → Cmd → State) :
    s.commandWord (configIssue i a regs true mbz) apply = .next (traps s q ((s.seq q).pc.setWidth 64) (ecause 13 b.idx 0) 0) := by
  refine (State.commandWord_issues h.focus _ _).trans (h.traps (by decide) ?_)
  simp [configIssue, h.awaits, State.regionOf, region, member, causeOWNER]

/-- So does a lantern word (R221). -/
theorem lanternIssue_traps {x : Bool} (h : WordReady s q b [a]) (region : s.regionOfSeq q = some r) (member : r.owner ≠ q)
    (apply : State → Nat → Cmd → State) :
    s.commandWord (lanternIssue i d a x) apply = .next (traps s q ((s.seq q).pc.setWidth 64) (ecause 13 b.idx 0) 0) := by
  refine (State.commandWord_issues h.focus _ _).trans (h.traps (by decide) ?_)
  simp [lanternIssue, h.awaits, State.regionOf, region, member, causeOWNER]

/-- A steal from a cluster without a sequencer of the region traps TGT (R244). -/
theorem taskSteal_traps {m : BitVec 3} {x : Bool} (h : WordReady s q b [a]) (region : s.regionOfSeq q = some r)
    (other : q / 256 * 256 + (readReg b.regs a).toNat % 256 ∉ r.seqs) (g : Pred) :
    exec (.taskSteal d a c m x g) s = .next (traps s q ((s.seq q).pc.setWidth 64) (ecause 12 b.idx 0) 0) := by
  have victim : bv (readReg b.regs a) 0 8 = (readReg b.regs a).toNat % 256 := by simp [bv, bitsOf]
  show execTaskSteal d a c m x g s = _
  refine h.traps (by decide) ?_
  simp [h.awaits, reg_eq, State.regionOf, region, victim, other, causeTGT]

end

/-- R221, R244: each is a command of its group, which looks for its target or its owner at issue. -/
theorem commandWordsTrapTGTAndOWNER : CommandWordsTrapTGTAndOWNER := by
  intro s q b d a c m t e x g r v u trap region
  refine ⟨fun room unnamed => ⟨fun h => ⟨?_, ?_⟩, fun h => ⟨?_, ?_⟩⟩, fun room unnamed => ⟨fun h => ?_, fun h => ⟨?_, ?_, ?_⟩⟩,
    fun h other => taskSteal_traps h region other g, fun h member => ⟨?_, ?_, ?_, ?_, ?_⟩, fun h member => ?swap⟩
  case swap =>
    have noRegister : WordReady s q b [0] := ⟨h.focus, h.block, fun r listed => .inl (by simpa using listed)⟩
    show execCfgSwap d a x g s = trap 13
    exact configIssue_traps noRegister region member _
  · show execWrdCore d a c x g s = trap 12
    exact windowIssue_traps (useB := false) (c := c) h room region unnamed _
  · show execWshrCore d a c x g s = trap 12
    exact windowIssue_traps (useB := false) (c := c) h room region unnamed _
  · show execWstCore d a c x g s = trap 12
    exact windowIssue_traps (useB := true) h room region unnamed _
  · show execWflCore d a c x g s = trap 12
    exact windowIssue_traps (useB := true) h room region unnamed _
  · show execSbind d a t e g s = trap 12
    exact streamIssue_traps (a := some a) h room region unnamed _
  · show execSgo d a t e g s = trap 12
    exact streamIssue_traps (a := none) h room region unnamed _
  · show execSstop d a t e g s = trap 12
    exact streamIssue_traps (a := none) h room region unnamed _
  · show execSbar d a t e g s = trap 12
    exact streamIssue_traps (a := none) h room region unnamed _
  · show execCfgLoad d a x g s = trap 13
    exact configIssue_traps h region member _
  · show execCfgShadow d a x g s = trap 13
    exact configIssue_traps h region member _
  · show execCfgDrain d a x g s = trap 13
    exact configIssue_traps h region member _
  · show execLantReq d a x g s = trap 13
    exact lanternIssue_traps h region member _
  · show execLantRel d a x g s = trap 13
    exact lanternIssue_traps h region member _

/-- Settles O17: each word of the five groups finds what stops it before it changes anything, and takes the trap. -/
theorem wordsTrap : Obligations.WordsTrap :=
  ⟨badControlTargetTraps, badAddressesTrap, atomicsTrap, localWindowWordsTrapWIN, commandWordsTrapTGTAndOWNER⟩

end Sys2Proof.Claims
end

section
/-! PROOFS. The commit of a block that ends in `trap` inside a trap handler (08 R186, R190). -/

namespace Sys2Proof.Claims

open Sys2Proof.Machine

/-- A block of one word that has issued: a `trap` with code 5. -/
def trapBlock : Block := { loneBlock with idx := 1, closing := some (.trap 5 0) }

/-- It is to commit while a handler runs. -/
def doubleState : State := { State.reset with seqs := [(0, { Seq.init with blk := some trapBlock, tl := true })] }

theorem doubleState_done : BlockDone doubleState 0 trapBlock [] :=
  ⟨rfl, rfl, rfl, rfl, rfl, rfl, fun _ h => (nomatch (show _ ∈ ([] : List Await) from h)), fun _ h => (nomatch h), rfl⟩

/-- The model moves PC to the block's successor before the double trap stops the sequencer. -/
theorem doubleState_commits : ∃ t, exec (.blockCommit 0) doubleState = .next t ∧ (t.seq 0).pc = 8 := ⟨_, rfl, rfl⟩

/-- The statement leaves PC at the block. -/
theorem doubleState_traps :
    ((traps ((oneId doubleState).setSeq 0 (committed (doubleState.seq 0) trapBlock)) 0 8 (ecause 10 0 5) 0).seq 0).pc = 0 := rfl

/-- Refutes O3: where a block that ends in `trap` commits with TL = 1, its double trap leaves PC at the block's successor,
as in `doubleState_commits`; the last clause of `CommitFollowsTheClosingWord` has `traps` of a sequencer whose PC is still that of the block. -/
theorem not_commitFollowsTheClosingWord : ¬ Obligations.CommitFollowsTheClosingWord := by
  intro h
  obtain ⟨-, -, -, -, -, -, -, traps⟩ := h doubleState 0 trapBlock doubleState_done
  obtain ⟨t, commits, moved⟩ := doubleState_commits
  have same := Host.Outcome.next.inj (commits.symm.trans (traps 5 0 rfl))
  have stays := doubleState_traps
  rw [same] at moved
  exact absurd (stays.symm.trans moved) (by decide)

end Sys2Proof.Claims
end

section
/-! PROOFS. What a word changes at issue (08 R182, R183, R190): its own sequencer, and what the walks of its translations leave;
it sends loads alone. -/

namespace Sys2Proof.Machine

variable {s t : State} {q : Nat} {body : State → WordCtx → WordRes × State}

/-! ## What lies outside the translation caches -/

/-- The parts of the state that no issuing word changes in another way than by sending a load. -/
def State.outside (s : State) : List Host.Cell × List (Nat × Core) × List Region × Package × Fabric × List Cmd × List (Nat × Seq) × List Packet :=
  (s.mem, s.cores, s.regions, s.pkg, s.fabric, s.cmds, s.seqs, s.net)

theorem State.ReadsTo.outside (h : s.ReadsTo t) : t.outside = s.outside := by rw [h]; rfl

@[simp] theorem State.fresh_outside (s : State) : s.fresh.2.outside = s.outside := rfl

@[simp] theorem State.translate_outside (s : State) (cluster ctx va : Nat) (waits : Bool) (who : Option Reader) :
    (s.translate cluster ctx va waits who).2.outside = s.outside := (s.translate_reads cluster ctx va waits who).outside

@[simp] theorem State.reach_outside (s : State) (x : WordCtx) (va : Nat) (write : Bool) : (s.reach x va write).2.outside = s.outside := by
  unfold State.reach
  split
  · rfl
  · next r _ =>
    have walk := s.translate_outside x.q r.ctx va true x.reader
    dsimp only
    split <;> next h => simpa only [h] using walk

@[simp] theorem queueAccess_outside (s : State) (x : WordCtx) (op : AccessOp) (va : Nat) (place : Place) (size : Nat) (data : List Byte)
    (aq rl : Bool)
    (code : Code) (regs : List Reg) (warn : Word) : (queueAccess s x op va place size data aq rl code regs warn).2.outside = s.outside := rfl

@[simp] theorem sendCmd_outside (s : State) (x : WordCtx) (unit : UnitId) (i : Instr) (a b d : Word) (regs : List Reg) (warn : Word) :
    (sendCmd s x unit i a b d regs warn).2.outside = s.outside := rfl

@[simp] theorem storeControl_outside (s : State) (x : WordCtx) (va : Nat) (i : Instr) (v warn : Word) :
    (storeControl s x va i v warn).2.outside = s.outside := by
  unfold storeControl
  dsimp only
  split <;> split <;> rfl

@[simp] theorem loadControl_outside (s : State) (x : WordCtx) (va : Nat) (d : Reg) (warn : Word) :
    (loadControl s x va d warn).2.outside = s.outside := by
  unfold loadControl
  split <;> rfl

@[simp] theorem State.xlat_outside (s : State) (cluster ctx : Nat) (u : Word) (who : Option Reader) :
    (s.xlat cluster ctx u who).2.outside = s.outside := by
  unfold State.xlat
  split
  · rfl
  · have walk := s.translate_outside cluster ctx u.toNat true who
    split <;> next h => simpa only [h] using walk

@[simp] theorem stIssue_outside (d a : Reg) (w : BitVec 2) (u : BitVec 1) (off : BitVec 10) (g : Pred) (s : State) (x : WordCtx) :
    (stIssue d a w u off g s x).2.outside = s.outside := by
  grind [stIssue, State.reach_outside, queueAccess_outside, storeControl_outside]

@[simp] theorem windowIssue_outside (i : Instr) (d a b : Reg) (useB mbz : Bool) (warnB : Word → Word) (s : State) (x : WordCtx) :
    (windowIssue i d a b useB mbz warnB s x).2.outside = s.outside := by grind [windowIssue, sendCmd_outside]
@[simp] theorem streamIssue_outside (i : Instr) (d : Reg) (t : BitVec 9) (a : Option Reg) (s : State) (x : WordCtx) :
    (streamIssue i d t a s x).2.outside = s.outside := by
  unfold streamIssue
  dsimp only
  split
  · rfl
  · split <;> rfl
@[simp] theorem launchIssue_outside (i : Instr) (d a b : Reg) (mbz : Bool) (s : State) (x : WordCtx) :
    (launchIssue i d a b mbz s x).2.outside = s.outside := by grind [launchIssue, sendCmd_outside]
@[simp] theorem transIssue_outside (i : Instr) (d a : Reg) (scope : BitVec 4) (mbz : Bool) (s : State) (x : WordCtx) :
    (transIssue i d a scope mbz s x).2.outside = s.outside := by grind [transIssue, sendCmd_outside]
@[simp] theorem lanternIssue_outside (i : Instr) (d a : Reg) (mbz : Bool) (s : State) (x : WordCtx) :
    (lanternIssue i d a mbz s x).2.outside = s.outside := by grind [lanternIssue, sendCmd_outside]
@[simp] theorem configIssue_outside (i : Instr) (a : Reg) (regs : List Reg) (owner mbz : Bool) (s : State) (x : WordCtx) :
    (configIssue i a regs owner mbz s x).2.outside = s.outside := by grind [configIssue, sendCmd_outside]
@[simp] theorem netIssue_outside (i : Instr) (d : Reg) (reads : List Reg) (a b : Reg) (mbz : Bool) (s : State) (x : WordCtx) :
    (netIssue i d reads a b mbz s x).2.outside = s.outside := by grind [netIssue, sendCmd_outside]

/-! ## What a word leaves outside its sequencer -/

/-- t is s but for sequencer q, for what lies inside the translation caches, and for loads that q has sent. -/
structure SendsLoads (q : Nat) (s t : State) : Prop where
  mem : t.mem = s.mem
  cores : t.cores = s.cores
  regions : t.regions = s.regions
  pkg : t.pkg = s.pkg
  fabric : t.fabric = s.fabric
  cmds : t.cmds = s.cmds
  net : ∃ l, t.net = s.net ++ l ∧ ∀ p ∈ l, ∃ a, p = Claims.accessPacket q a ∧ a.op = .load
  others : ∀ p, p ≠ q → t.seq p = s.seq p

theorem sendsLoads_of_outside (h : t.outside = s.outside) : SendsLoads q s t := by
  simp only [State.outside, Prod.mk.injEq] at h
  obtain ⟨mem, cores, regions, pkg, fabric, cmds, seqs, net⟩ := h
  exact ⟨mem, cores, regions, pkg, fabric, cmds, ⟨[], by simpa using net, by simp⟩, fun p _ => by rw [State.seq, State.seq, seqs]⟩

theorem SendsLoads.trans {u : State} (h : SendsLoads q s t) (k : SendsLoads q t u) : SendsLoads q s u := by
  obtain ⟨l, net, loads⟩ := h.net
  obtain ⟨m, net', loads'⟩ := k.net
  exact ⟨k.mem.trans h.mem, k.cores.trans h.cores, k.regions.trans h.regions, k.pkg.trans h.pkg, k.fabric.trans h.fabric, k.cmds.trans h.cmds,
    ⟨l ++ m, by rw [net', net, List.append_assoc], fun p hp => (List.mem_append.1 hp).elim (loads p) (loads' p)⟩,
    fun p hp => (k.others p hp).trans (h.others p hp)⟩

/-- A change of the sequencer's own is none outside it. -/
theorem sendsLoads_setSeq (v : Seq) : SendsLoads q s (s.setSeq q v) :=
  ⟨rfl, rfl, rfl, rfl, rfl, rfl, ⟨[], by simp, by simp⟩, fun _ hp => State.seq_setSeq_other _ _ hp⟩

/-- Where sequencer q was in no trap handler, or has not double-trapped, o leaves what lies outside of it, but for loads. -/
def IssuesOnly (s : State) (o : Host.Outcome State Fault Refusal) : Prop :=
  ∀ q t, s.focus = .seq q → (s.seq q).tl = false ∨ (t.seq q).doubleTrapped = false → o = .next t → SendsLoads q s t

/-- A double trap leaves the sequencer stopped (R190). -/
theorem reportDouble_doubleTrapped (s : State) (q p : Nat) (epc : Word) (cause idx code : Nat) :
    ((s.reportDouble q epc cause idx code).seq p).doubleTrapped = (s.seq p).doubleTrapped := by
  unfold State.reportDouble
  split
  · rfl
  · dsimp only
    split <;> rfl

/-- The end of a word changes its own sequencer, where it is no double trap (R182, R187). -/
theorem endWord_sendsLoads {old : Block} {r : WordRes} (h : (s.seq q).tl = false ∨ ((s.endWord q old r).seq q).doubleTrapped = false) :
    SendsLoads q s (s.endWord q old r) := by
  cases r with
  | issue b => exact sendsLoads_setSeq _
  | hold b => exact sendsLoads_setSeq _
  | wait => exact sendsLoads_setSeq _
  | trap cause addr =>
    simp only [State.endWord, State.trapWord, State.takeTrap] at h ⊢
    split
    next handler =>
      rw [if_pos handler, handler] at h
      simp [reportDouble_doubleTrapped, Seq.stopDouble] at h
    next => exact sendsLoads_setSeq _

/-- A word issues only, where its body sends loads alone and leaves its sequencer. -/
theorem runWord_issues (h : ∀ q b, SendsLoads q s (body s ⟨q, s.seq q, b⟩).2 ∧ (body s ⟨q, s.seq q, b⟩).2.seq q = s.seq q) :
    IssuesOnly s (s.runWord body) := by
  intro q t focus single next
  cases block : (s.seq q).blk with
  | none =>
    rw [State.runWord_no_block focus block] at next
    obtain rfl := Host.Outcome.next.inj next
    exact sendsLoads_of_outside rfl
  | some b =>
    rw [State.runWord_next focus block] at next
    obtain rfl := Host.Outcome.next.inj next
    obtain ⟨sends, own⟩ := h q b
    exact sends.trans (endWord_sendsLoads (by rwa [own]))

/-- So it does where its body changes nothing outside the translation caches. -/
theorem runWord_issues_quietly (h : ∀ s x, (body s x).2.outside = s.outside) : IssuesOnly s (s.runWord body) := by
  refine runWord_issues fun q b => ⟨sendsLoads_of_outside (h ..), ?_⟩
  have same := h s ⟨q, s.seq q, b⟩
  simp only [State.outside, Prod.mk.injEq] at same
  obtain ⟨-, -, -, -, -, -, seqs, -⟩ := same
  rw [State.seq, seqs, State.seq]

theorem plainWord_issues_only {reads : List Reg} {mbz : Bool} {f : WordCtx → Block} : IssuesOnly s (s.plainWord reads mbz f) :=
  runWord_issues_quietly fun _ _ => rfl

theorem localWord_issues_only {m : BitVec 3} {bad : Word → Bool} (h : ∀ s x, (body s x).2.outside = s.outside) :
    IssuesOnly s (s.localWord m bad body) :=
  runWord_issues_quietly fun s x => by dsimp only; split <;> simp [h]

theorem targetWord_issues_only {a : Reg} {mbz : Bool} {nop : WordCtx → Bool} {f : Block → BitVec 56 → Block} :
    IssuesOnly s (s.targetWord a mbz nop f) :=
  runWord_issues_quietly fun s x => by grind

theorem atomicWord_issues_only {d a b : Reg} {f : AmoFields} {x : Bool} {reads : List Reg} {op : WordCtx → AccessOp} {code : Code} :
    IssuesOnly s (s.atomicWord d a b f x reads op code) :=
  runWord_issues_quietly fun s x => by grind [State.reach_outside, queueAccess_outside]

/-- At its sequencer, a command word only issues. -/
theorem commandWord_issues_only {issue : State → WordCtx → WordRes × State} {apply : State → Nat → Cmd → State}
    (h : ∀ s x, (issue s x).2.outside = s.outside) : IssuesOnly s (s.commandWord issue apply) := by
  intro q t focus
  rw [State.commandWord_issues focus]
  exact runWord_issues_quietly h q t focus

/-! ## Loads -/

/-- A state that a word's body leaves: loads have been sent, and no sequencer has changed. -/
def BodySends (q : Nat) (s t : State) : Prop := SendsLoads q s t ∧ t.seqs = s.seqs

theorem bodySends_of_outside (h : t.outside = s.outside) : BodySends q s t := by
  refine ⟨sendsLoads_of_outside h, ?_⟩
  simp only [State.outside, Prod.mk.injEq] at h
  obtain ⟨-, -, -, -, -, -, seqs, -⟩ := h
  exact seqs

/-- The load of a word is one packet (R198). -/
theorem issueLoad_sends (s : State) (x : WordCtx) (idx va n : Nat) (found : Found) : BodySends x.q s (s.issueLoad x idx va n found).2 := by
  refine ⟨⟨rfl, rfl, rfl, rfl, rfl, rfl, ⟨_, rfl, ?_⟩, fun _ _ => rfl⟩, rfl⟩
  intro p one
  obtain rfl := List.mem_singleton.1 one
  exact ⟨{ id := s.nextId, source := .seq x.q, op := .load, va := va, place := found.place, size := n, data := [], aq := false, rl := false,
           tag := 0, code := 0 }, rfl, rfl⟩

theorem loadMemory_bodySends (s : State) (x : WordCtx) (va n : Nat) (f : Block → Nat → Bool → Block) (warn : Word) :
    BodySends x.q s (loadMemory s x va n f warn).2 := by
  have reached := s.reach_outside x va false
  unfold loadMemory
  split
  next => exact bodySends_of_outside rfl
  next =>
    split
    next => exact bodySends_of_outside rfl
    next =>
      split
      next fails => exact bodySends_of_outside (by simpa only [fails] using reached)
      next found s' reaches =>
        rw [reaches] at reached
        obtain ⟨walks, same⟩ : BodySends x.q s s' := bodySends_of_outside reached
        obtain ⟨sends, same'⟩ := issueLoad_sends s' x x.b.idx va n found
        exact ⟨walks.trans sends, same'.trans same⟩

/-- A word issues only, where its body sends loads alone. -/
theorem runWord_issues_loads (h : ∀ s x, BodySends x.q s (body s x).2) : IssuesOnly s (s.runWord body) :=
  runWord_issues fun q b => ⟨(h s ⟨q, s.seq q, b⟩).1, by rw [State.seq, (h s ⟨q, s.seq q, b⟩).2, State.seq]⟩

theorem execLd_issues_only {d a : Reg} {w : BitVec 2} {u : BitVec 1} {off : BitVec 10} {g : Pred} : IssuesOnly s (execLd d a w u off g s) := by
  refine runWord_issues_loads fun s x => ?_
  dsimp only
  split
  · exact bodySends_of_outside rfl
  · split
    · exact bodySends_of_outside (loadControl_outside ..)
    · split
      · exact bodySends_of_outside rfl
      · exact loadMemory_bodySends ..

theorem execLdx_issues_only {d a : Reg} {w : BitVec 2} {u : BitVec 1} {p : Pred} {off : BitVec 7} {g : Pred} :
    IssuesOnly s (execLdx d a w u p off g s) := by
  refine runWord_issues_loads fun s x => ?_
  dsimp only
  split
  · exact bodySends_of_outside rfl
  · split
    · exact bodySends_of_outside rfl
    · exact loadMemory_bodySends ..

/-! ## Words with a body of their own -/

theorem intWord_issues_only {d a b : Reg} {mbz : Bool} {f : Word → Word → Word × Word} : IssuesOnly s (s.intWord d a b mbz f) :=
  plainWord_issues_only

theorem unaryWord_issues_only {d a : Reg} {mbz : Bool} {f : Word → Word} : IssuesOnly s (s.unaryWord d a mbz f) := plainWord_issues_only

theorem execSeqNop_issues_only {kind : SeqNopKind} {x : Bool} {g : Pred} : IssuesOnly s (execSeqNop kind x g s) := by
  cases kind <;> exact plainWord_issues_only

theorem execVerase_issues_only {a : Reg} {x : Bool} {g : Pred} : IssuesOnly s (execVerase a x g s) :=
  runWord_issues_quietly fun _ _ => by grind [State.reach_outside, queueAccess_outside]

theorem execTaskDone_issues_only {d a b : Reg} {m : BitVec 3} {x : Bool} {g : Pred} : IssuesOnly s (execTaskDone d a b m x g s) :=
  runWord_issues_quietly fun _ _ => by grind [State.reach_outside, queueAccess_outside]

theorem execXlat_issues_only {d a : Reg} {scope : BitVec 4} {all : BitVec 1} {x : Bool} {g : Pred} : IssuesOnly s (execXlat d a scope all x g s) :=
  runWord_issues_quietly fun _ _ => by grind [State.xlat_outside]

theorem execTaskSteal_issues_only {d a b : Reg} {m : BitVec 3} {x : Bool} {g : Pred} : IssuesOnly s (execTaskSteal d a b m x g s) :=
  runWord_issues_quietly fun _ _ => by grind [State.fresh_outside]

/-- Every word of a sequencer issues only: by what its form allows. -/
theorem exec_issues_only {i : Instr} {w : Code} (word : encodeSeq i = some w) : IssuesOnly s (exec i s) := by
  cases i
  all_goals dsimp only [exec]
  case ret | exitr => exact targetWord_issues_only
  case halt | wfe | yield | eret | trap | exitWord | call | seqSel | li | lea | cmp | pand | por | pnot =>
    exact plainWord_issues_only
  case add | sub | mul | mulh | mulhu | div | divu |
      rem | remu | andW | orW | xorW | shl | shr | sra | minW | maxW | minu | maxu =>
    exact intWord_issues_only
  case clz | ctz | popc | addi | andi | ori | xori | shli | shri | srai | lui =>
    exact unaryWord_issues_only
  case st | wrdCore | wflCore | wshrCore | wstCore | sbind | sgo | sstop | sbar | cfgLoad | cfgShadow | cfgSwap | cfgDrain | cfgPhase | cfgSig |
    launch |
      tlbinv | relatch | lantReq | lantRel | netWrite | netRead | netSend | netStat | netBind =>
    exact commandWord_issues_only fun _ _ => by simp
  case amoAdd | amoAnd | amoOr | amoXor | amoMin | amoMax | amoMinu | amoMaxu | amoSwap | cas => exact atomicWord_issues_only
  case fence | time => exact runWord_issues_quietly fun _ _ => rfl
  case publish | csrr | csrw | widGet | widSet => exact runWord_issues_quietly fun _ _ => by split <;> rfl
  case wrdLocal | wflLocal | wshrLocal | wstLocal | taskFill => exact localWord_issues_only fun _ _ => by dsimp only; split <;> rfl
  case taskTake => exact localWord_issues_only fun _ _ => rfl
  case seqNop => exact execSeqNop_issues_only
  case ld => exact execLd_issues_only
  case ldx => exact execLdx_issues_only
  case verase => exact execVerase_issues_only
  case taskSteal => exact execTaskSteal_issues_only
  case taskDone => exact execTaskDone_issues_only
  case xlat => exact execXlat_issues_only
  all_goals cases word

end Sys2Proof.Machine

namespace Sys2Proof.Claims

open Sys2Proof.Machine

/-- Settles O57: `exec_issues_only`, by what the form of each word allows. -/
theorem sequencerWordsOnlyIssue : Obligations.SequencerWordsOnlyIssue := by
  intro i w s q t word focus single next
  obtain ⟨mem, cores, regions, pkg, fabric, cmds, net, others⟩ := exec_issues_only word q t focus single next
  exact ⟨mem, cores, regions, pkg, fabric, cmds, net, others⟩

end Sys2Proof.Claims
end

section
/-! PROOFS. What a stage changes (03 R39, R41, R42): its own core, and the moves to come where its firing has run its sixth stage. -/

namespace Sys2Proof.Machine

/-- The entry of a list that has been replaced. -/
theorem getElem?_setNth {α : Type} {l : List α} {k : Nat} {x : α} (y : α) (there : l[k]? = some x) : (setNth l k y)[k]? = some y := by
  induction l generalizing k with
  | nil => simp at there
  | cons z l ih =>
    cases k with
    | zero => rfl
    | succ k => exact ih (by simpa using there)

section
variable {c c' : Core} {w : Win} {b : Beat}

/-! ## Fills leave the pipeline as it was -/

@[simp] theorem Core.storeWord_pipe (c : Core) (a : Nat) (x : Lane) : (c.storeWord a x).pipe = c.pipe := rfl
@[simp] theorem Core.setWin_pipe (c : Core) (w : Win) (v : WinState) : (c.setWin w v).pipe = c.pipe := rfl
@[simp] theorem Core.admitted_pipe (c : Core) (w : Win) (k : Nat) : (c.admitted w k).pipe = c.pipe := rfl
@[simp] theorem Core.credited_pipe (c : Core) (w : Win) (k : Nat) : (c.credited w k).pipe = c.pipe := rfl
@[simp] theorem Core.freeHead_pipe (c : Core) (w : Win) (k : Nat) : (c.freeHead w k).pipe = c.pipe := rfl

@[simp] theorem Core.storeWords_pipe (c : Core) (a : Nat) (l : List Lane) : (c.storeWords a l).pipe = c.pipe := by
  induction l generalizing c a with
  | nil => rfl
  | cons x l ih => rw [Core.storeWords, ih, Core.storeWord_pipe]

@[simp] theorem Core.writeStore_pipe (c : Core) (l : List (Nat × Lane)) : (c.writeStore l).pipe = c.pipe := by
  induction l generalizing c with
  | nil => rfl
  | cons x l ih => rw [Core.writeStore, ih, Core.storeWord_pipe]

@[simp] theorem Core.correctStore_pipe (c : Core) (reads : List (Nat × Win)) : (c.correctStore reads).pipe = c.pipe := by
  unfold Core.correctStore
  dsimp only
  split <;> rfl

@[simp] theorem Core.append_pipe (c : Core) (w : Win) (words : List Lane) : (c.append w words).pipe = c.pipe := by simp [Core.append]

@[simp] theorem Core.appendData_pipe (c : Core) (w : Win) (words : List Lane) : (c.appendData w words).pipe = c.pipe := by
  unfold Core.appendData
  dsimp only
  split
  · simp
  · split <;> simp

@[simp] theorem Core.appendWords_pipe (c : Core) (w : Win) (l : List Lane) : (c.appendWords w l).pipe = c.pipe := by
  induction l generalizing c with
  | nil => rfl
  | cons x l ih => rw [Core.appendWords, ih, Core.appendData_pipe]

theorem Core.fillPoint_pipe (h : c.fillPoint w b = some c') : c'.pipe = c.pipe := by
  grind [Core.fillPoint, Core.append_pipe, Core.setWin_pipe]

theorem Core.fillFree_pipe (h : c.fillFree w b = some c') : c'.pipe = c.pipe := by
  grind [Core.fillFree, Core.fillPoint_pipe, Core.appendData_pipe, Core.appendWords_pipe]

theorem Core.fillBeat_pipe (h : c.fillBeat w b = some c') : c'.pipe = c.pipe := by
  grind [Core.fillBeat, Core.fillFree_pipe]

theorem Core.sendPort_pipe {j : Fin 4} (h : c.sendPort j b = some c') : c'.pipe = c.pipe := by
  unfold Core.sendPort at h
  split at h
  · cases h; rfl
  · split at h
    · cases h; rfl
    · dsimp only at h
      split at h <;> cases h
      rfl

theorem Core.deliver_pipe {d : Dest} {warn : Lane} (h : c.deliver d b = .ok (c', warn)) : c'.pipe = c.pipe := by
  cases d <;> grind [Core.deliver, Core.sendPort_pipe, Core.fillBeat_pipe]

@[simp] theorem Core.deliverAll_pipe (c : Core) (l : List (Dest × Beat)) : (c.deliverAll l).1.pipe = c.pipe := by
  induction l generalizing c with
  | nil => rfl
  | cons x l ih =>
    obtain ⟨d, b⟩ := x
    unfold Core.deliverAll
    split
    · rfl
    · next c' warn delivered =>
      rw [← Core.deliver_pipe delivered]
      exact ih c'

/-- A stage that has run stands at the next one (R39). -/
theorem Core.commitStage_pipe (c : Core) (k : Nat) (fr : Firing) (keep : Bool) (o : StageOut) (cwarn : Lane) :
    ∃ g : Firing, (c.commitStage k fr keep o cwarn).pipe = setNth c.pipe k g ∧ g.stage = fr.stage + 1 := by
  simp only [Core.commitStage, Core.setFiring, Core.writeStore_pipe, Core.correctStore_pipe]
  exact ⟨_, rfl, rfl⟩

end

/-! ## What lies outside a core -/

/-- t is s but for core n, the moves to come, and the record of one fault. -/
structure ChangesCore (n : Nat) (s t : State) : Prop where
  mem : t.mem = s.mem
  seqs : t.seqs = s.seqs
  regions : t.regions = s.regions
  pkg : t.pkg = s.pkg
  fabric : t.fabric = s.fabric
  cmds : t.cmds = s.cmds
  atSlice : t.atSlice = s.atSlice
  withheld : t.withheld = s.withheld
  others : ∀ m, m ≠ n → t.core m = s.core m
  net : t.net = s.net ∨ ∃ p rec, t.net = s.net ++ [p] ∧ p.payload = .record rec

variable {s t : State} {n k : Nat} {fr : Firing}

@[refl] theorem ChangesCore.refl (n : Nat) (s : State) : ChangesCore n s s := ⟨rfl, rfl, rfl, rfl, rfl, rfl, rfl, rfl, fun _ _ => rfl, .inl rfl⟩

/-- A change of the core alone, before another change. -/
theorem ChangesCore.after_setCore {c : Core} (h : ChangesCore n (s.setCore n c) t) : ChangesCore n s t :=
  { h with others := fun m other => (h.others m other).trans (State.core_setCore_other s c other) }

theorem changesCore_setCore (s : State) (n : Nat) (c : Core) : ChangesCore n s (s.setCore n c) := (ChangesCore.refl n _).after_setCore

/-- The moves to come are no part of it. -/
theorem ChangesCore.thenComplete (h : ChangesCore n s t) (stage : Nat) : ChangesCore n s (t.thenComplete n stage) := by
  unfold State.thenComplete
  split
  · exact { h with }
  · exact h

/-- A fault is noted in its core, and its record is sent (R143, R262). -/
theorem changesCore_coreFault (s : State) (n cause slot stage win addr : Nat) (detail extra : Word) :
    ChangesCore n s (s.coreFault n cause slot stage win addr detail extra) := by
  refine ChangesCore.after_setCore (c := { s.core n with cfault := cfaultWith (s.core n).cfault cause slot stage win addr }) ?_
  unfold State.coreFault State.recordOfCore
  dsimp only
  split
  · exact { ChangesCore.refl n (s.setCore n { s.core n with cfault := cfaultWith (s.core n).cfault cause slot stage win addr }) with
      net := .inr ⟨_, _, rfl, rfl⟩ }
  · rfl

theorem changesCore_storeFault (s : State) (n slot stage : Nat) (hit : Nat × Win) : ChangesCore n s (s.storeFault n slot stage hit) :=
  (changesCore_coreFault ..).after_setCore

/-- A fault leaves the pipeline and the moves to come. -/
theorem coreFault_pipe (s : State) (n cause slot stage win addr : Nat) (detail extra : Word) :
    ((s.coreFault n cause slot stage win addr detail extra).core n).pipe = (s.core n).pipe
      ∧ (s.coreFault n cause slot stage win addr detail extra).agenda = s.agenda := by
  have pipe := congrArg Core.pipe (State.core_setCore s n { s.core n with cfault := cfaultWith (s.core n).cfault cause slot stage win addr })
  unfold State.coreFault State.recordOfCore
  dsimp only
  split <;> exact ⟨pipe, rfl⟩

theorem storeFault_pipe (s : State) (n slot stage : Nat) (hit : Nat × Win) :
    ((s.storeFault n slot stage hit).core n).pipe = (s.core n).pipe ∧ (s.storeFault n slot stage hit).agenda = s.agenda := by
  have stopped := congrArg Core.pipe (State.core_setCore s n { s.core n with stop := true, stopAddr := hit.1 })
  obtain ⟨pipe, agenda⟩ := coreFault_pipe (s.setCore n { s.core n with stop := true, stopAddr := hit.1 }) n 2 slot stage hit.2 hit.1
    (BitVec.ofNat 64 hit.1) 0
  exact ⟨pipe.trans stopped, agenda⟩

/-! ## A step of a firing -/

/-- The moves to come after a stage of firing k of core n, which stood at a stage before (log 97). -/
def Moves (s t : State) (n k stage : Nat) : Prop :=
  let ran := ∃ g, (t.core n).pipe[k]? = some g ∧ g.stage = stage + 1
  (ran → stage = 6 → t.agenda = (0, .event (.firingComplete n)) :: s.agenda) ∧ (¬ (ran ∧ stage = 6) → t.agenda = s.agenda)

/-- A firing that stays at its stage changes no move to come. -/
theorem moves_of_stays {g : Firing} (there : (t.core n).pipe[k]? = some g) (stays : g.stage = fr.stage) (agenda : t.agenda = s.agenda) :
    Moves s t n k fr.stage := by
  refine ⟨fun ⟨g', there', ran⟩ => ?_, fun _ => agenda⟩
  obtain rfl := Option.some.inj (there.symm.trans there')
  omega

/-- One that has run its stage completes next where it was the sixth. -/
theorem moves_of_ran {g : Firing} (there : (t.core n).pipe[k]? = some g) (ran : g.stage = fr.stage + 1) (agenda : t.agenda = s.agenda) :
    Moves s (t.thenComplete n fr.stage) n k fr.stage := by
  have same : ((t.thenComplete n fr.stage).core n).pipe[k]? = some g := by
    rw [← there]
    unfold State.thenComplete
    split <;> rfl
  refine ⟨fun _ sixth => ?_, fun stands => ?_⟩
  · rw [State.thenComplete, if_pos sixth, agenda]
  · rw [State.thenComplete, if_neg fun sixth => stands ⟨⟨g, same, ran⟩, sixth⟩, agenda]

/-- A stage changes its own core, and the moves to come as its firing goes on. -/
def StageChanges (n k : Nat) (fr : Firing) (s t : State) : Prop := ChangesCore n s t ∧ Moves s t n k fr.stage

/-- The firing that has been replaced in a core that is written back. -/
theorem setFiring_there {c : Core} (there : c.pipe[k]? = some fr) (g : Firing) : ((s.setCore n (c.setFiring k g)).core n).pipe[k]? = some g := by
  rw [State.core_setCore]
  exact getElem?_setNth g there

theorem holdStage_changes (there : (s.core n).pipe[k]? = some fr) (h : Hold) : StageChanges n k fr s (s.holdStage n k fr h) := by
  exact ⟨changesCore_setCore .., moves_of_stays (setFiring_there there _) rfl rfl⟩

/-- A key fault changes the core alone, and no firing (R103). -/
theorem keyRecorded_changes (s : State) (n : Nat) (fr : Firing) (key : Option (Lane × Win)) :
    ChangesCore n s (Claims.keyRecorded s n fr key) ∧ ((Claims.keyRecorded s n fr key).core n).pipe = (s.core n).pipe
      ∧ (Claims.keyRecorded s n fr key).agenda = s.agenda := by
  cases key with
  | none => exact ⟨.refl .., rfl, rfl⟩
  | some x => exact ⟨changesCore_coreFault s n 1 fr.slot.val fr.stage x.2.val 0 (x.1.setWidth 64) 0, coreFault_pipe ..⟩

theorem finishStage_changes (there : (s.core n).pipe[k]? = some fr) (f : StageFields) (h : HandlerRec) (o : StageOut) (dests : List Dest)
    (cwarn : Lane) : StageChanges n k fr s (s.finishStage n k fr f h o dests cwarn) := by
  cases bad : (s.core n).badRead o.reads with
  | some hit =>
    obtain ⟨pipe, agenda⟩ := storeFault_pipe (s.holdStage n k fr .stopped) n fr.slot fr.stage hit
    simp only [State.finishStage, bad]
    refine ⟨(changesCore_storeFault ..).after_setCore, moves_of_stays (g := (s.core n).held fr .stopped) ?_ rfl agenda⟩
    rw [pipe]
    exact setFiring_there there _
  | none =>
    have kept := Core.deliverAll_pipe (s.core n) ((Claims.delivered (Claims.leaving h o) dests).drop fr.sent)
    cases deliveries : (s.core n).deliverAll ((Claims.delivered (Claims.leaving h o) dests).drop fr.sent) with
    | mk c' rest =>
      obtain ⟨sent, w, held⟩ := rest
      rw [deliveries] at kept
      rw [← kept] at there
      cases held with
      | some hd =>
        rw [Claims.finishStage_holds bad deliveries]
        exact ⟨changesCore_setCore .., moves_of_stays (setFiring_there there _) rfl rfl⟩
      | none =>
        rw [Claims.finishStage_commits bad deliveries]
        obtain ⟨g, commits, ran⟩ := Core.commitStage_pipe c' k (fr.filling ((s.core n).newFills c')) (f.dst != 7) (Claims.leaving h o) (cwarn ||| w)
        generalize c'.commitStage k (fr.filling ((s.core n).newFills c')) (f.dst != 7) (Claims.leaving h o) (cwarn ||| w) = done at commits
        obtain ⟨core, pipe, agenda⟩ := keyRecorded_changes (s.setCore n done) n (fr.filling ((s.core n).newFills c')) o.keyFault
        refine ⟨core.after_setCore.thenComplete _, moves_of_ran (g := g) ?_ ran agenda⟩
        rw [pipe, State.core_setCore, commits]
        exact getElem?_setNth g there

/-- Every step of a firing holds or finishes its stage. -/
theorem stageStep_changes (there : (s.core n).pipe[k]? = some fr) (op : Nat) (f : StageFields) (body : StageCtx → Operands → StageRes) :
    StageChanges n k fr s (s.stageStep n k fr op f body) := by
  unfold State.stageStep
  dsimp only
  split
  · exact holdStage_changes there _
  · split
    · exact holdStage_changes there _
    · split
      · exact holdStage_changes there _
      · exact finishStage_changes there ..
      · exact finishStage_changes there ..

/-- A stage instruction changes its own core, where it changes anything. -/
theorem runStage_changes {op : Nat} {f : StageFields} {body : StageCtx → Operands → StageRes} (focus : s.focus = .stage n k)
    (next : s.runStage op f body = .next t) : ChangesCore n s t ∧ ∀ fr, (s.core n).pipe[k]? = some fr → Moves s t n k fr.stage := by
  rcases s.runStage_cases op f body with idle | ⟨n', k', fr, focus', there, -, -, -, steps⟩
  · rw [idle] at next
    obtain rfl := Host.Outcome.next.inj next
    exact ⟨.refl .., fun fr there => moves_of_stays there rfl rfl⟩
  · rw [steps] at next
    obtain rfl := Host.Outcome.next.inj next
    obtain ⟨rfl, rfl⟩ : n' = n ∧ k' = k := by simpa using focus'.symm.trans focus
    obtain ⟨core, moves⟩ := stageStep_changes there op f body
    refine ⟨core, fun fr' there' => ?_⟩
    obtain rfl := Option.some.inj (there.symm.trans there')
    exact moves

/-- Every stage word is a stage of its firing. -/
theorem exec_stage {i : Instr} {op : BitVec 6} {f : StageFields} (stage : stageOpcode i = some (op, f)) (s : State) :
    ∃ body, exec i s = s.runStage op.toNat f body := by
  cases i
  case stageNop kind f =>
    cases kind <;> (cases stage; exact ⟨_, rfl⟩)
  case stageStop | stageMov | stageSel | iadd | isub | imul | imad | iand | ior | ixor | iandn | ishl | ishr | isra | icmp | imin | imax
      | ipopc | iclz | fadd | fsub | fmul | fma | fms | fmax | fmin | fabs | fneg | fcmp | fclass | frnd | frcp | frsq | fexp2 | flog2 | fscale |
      cvtFi | cvtIf | acc | fmab | dot | rmax | rmin | ramax | steer | merge | join | cmpx | cpr | stageMark | strip | gate | cnt | bcast | shuf |
      pack | unpack | wupd | wfill | shrink | wcnt =>
    cases stage
    exact ⟨_, rfl⟩
  all_goals cases stage

end Sys2Proof.Machine

namespace Sys2Proof.Claims

open Sys2Proof.Machine

/-- Settles O58: every stage word is a stage of its firing, which holds or finishes. -/
theorem stagesChangeTheirCoreOnly : Obligations.StagesChangeTheirCoreOnly := by
  intro i op f s n k t stage focus next
  obtain ⟨body, runs⟩ := exec_stage stage s
  obtain ⟨core, moves⟩ := runStage_changes focus (runs.symm.trans next)
  exact ⟨core.mem, core.seqs, core.regions, core.pkg, core.fabric, core.cmds, core.atSlice, core.withheld, core.others, core.net, moves⟩

end Sys2Proof.Claims
end

section
/-! PROOFS. Selecting, issuing and completing a firing (03 R39 to R41, R55; 06 R120, R134, R135). -/

namespace Sys2Proof.Claims

open Sys2Proof.Machine

/-! ## Selection (R134) -/

/-- The best of a list, by a test and a priority: it stands in the list and passes, and what passes too has no higher priority, and comes no earlier
where it has the same. -/
def BestOf (p : Fin 8 → Bool) (prio : Fin 8 → Nat) (l : List (Fin 8)) : Option (Fin 8) → Prop
  | none => ∀ k ∈ l, p k = false
  | some b => b ∈ l ∧ p b = true ∧ ∀ k ∈ l, p k = true → prio k ≤ prio b ∧ (prio k = prio b → l.idxOf b ≤ l.idxOf k)

/-- One step of the selection. -/
def better (p : Fin 8 → Bool) (prio : Fin 8 → Nat) (best : Option (Fin 8)) (k : Fin 8) : Option (Fin 8) :=
  if p k then
    match best with
    | none => some k
    | some b => if prio b < prio k then some k else best
  else best

/-- A further entry of the list is taken where it passes and is better than every earlier one. -/
theorem BestOf.step {p : Fin 8 → Bool} {prio : Fin 8 → Nat} {l : List (Fin 8)} {best : Option (Fin 8)} (h : BestOf p prio l best) (k : Fin 8) :
    BestOf p prio (l ++ [k]) (better p prio best k) := by
  have before {b j : Fin 8} (hb : b ∈ l) (hj : j ∈ l) (first : l.idxOf b ≤ l.idxOf j) : (l ++ [k]).idxOf b ≤ (l ++ [k]).idxOf j := by
    rwa [List.idxOf_append_of_mem hb, List.idxOf_append_of_mem hj]
  have last {b : Fin 8} (hb : b ∈ l) : (l ++ [k]).idxOf b ≤ l.length := by
    rw [List.idxOf_append_of_mem hb]
    exact List.idxOf_le_length
  unfold better
  cases passes : p k with
  | false =>
    rw [if_neg Bool.false_ne_true]
    cases best with
    | none =>
      intro j hj
      rcases List.mem_append.1 hj with hj | hj
      · exact h j hj
      · obtain rfl := List.mem_singleton.1 hj
        exact passes
    | some b =>
      obtain ⟨hb, pb, most⟩ := h
      refine ⟨List.mem_append_left _ hb, pb, fun j hj pj => ?_⟩
      rcases List.mem_append.1 hj with hj | hj
      · exact ⟨(most j hj pj).1, fun same => before hb hj ((most j hj pj).2 same)⟩
      · obtain rfl := List.mem_singleton.1 hj
        exact absurd (passes.symm.trans pj) Bool.false_ne_true
  | true =>
    rw [if_pos rfl]
    cases best with
    | none =>
      refine ⟨by simp, passes, fun j hj pj => ?_⟩
      rcases List.mem_append.1 hj with hj | hj
      · exact absurd ((h j hj).symm.trans pj) Bool.false_ne_true
      · obtain rfl := List.mem_singleton.1 hj
        exact ⟨le_rfl, fun _ => le_rfl⟩
    | some b =>
      obtain ⟨hb, pb, most⟩ := h
      dsimp only
      split
      next higher =>
        refine ⟨by simp, passes, fun j hj pj => ?_⟩
        rcases List.mem_append.1 hj with hj | hj
        · have := (most j hj pj).1
          exact ⟨by omega, fun same => by omega⟩
        · obtain rfl := List.mem_singleton.1 hj
          exact ⟨le_rfl, fun _ => le_rfl⟩
      next lower =>
        refine ⟨List.mem_append_left _ hb, pb, fun j hj pj => ?_⟩
        rcases List.mem_append.1 hj with hj | hj
        · exact ⟨(most j hj pj).1, fun same => before hb hj ((most j hj pj).2 same)⟩
        · obtain rfl := List.mem_singleton.1 hj
          refine ⟨by omega, fun same => ?_⟩
          by_cases there : j ∈ l
          · exact before hb there ((most j there pj).2 same)
          · rw [List.idxOf_append_of_notMem there]
            exact Nat.le_add_right_of_le (last hb)

theorem bestOf_foldl (p : Fin 8 → Bool) (prio : Fin 8 → Nat) (l : List (Fin 8)) : BestOf p prio l (l.foldl (better p prio) none) := by
  induction l using List.reverseRecOn with
  | nil => exact fun _ h => nomatch h
  | append_singleton l k ih =>
    rw [List.foldl_append]
    exact ih.step k

/-- Settles O27: the selection goes through the slots from the least recently fired one on, and keeps the best so far. -/
theorem selectedHandlerHasHighestPriority : Obligations.SelectedHandlerHasHighestPriority := by
  intro s n slot selected
  have best := bestOf_foldl (s.ready n) (fun k => h0Prio (s.core n).active[k]) (s.core n).lru
  have same : (s.core n).lru.foldl (better (s.ready n) fun k => h0Prio (s.core n).active[k]) none = some slot := selected
  rw [same] at best
  exact best

/-! ## Completion (R41) -/

/-- Settles O28: the oldest firing stands behind its sixth stage, so the event completes it. -/
theorem firingCompletes : Obligations.FiringCompletes := by
  intro s n fr rest runs pipe done u u'
  show execFiringComplete n s = _
  simp only [execFiringComplete, runs, if_neg Bool.false_ne_true, pipe, if_pos done]
  rfl

/-! ## Issue (R39, R55) -/

theorem exists_lit_returnLantern (c : Core) (now : Nat) : ∃ b, c.returnLantern now = { c with lit := b } := by
  unfold Core.returnLantern
  split
  · exact ⟨false, rfl⟩
  · exact ⟨c.lit, rfl⟩

theorem exists_correctStore (c : Core) (reads : List (Nat × Win)) : ∃ soft count,
    c.correctStore reads = { c with softStore := soft, ecnt := count } := by
  unfold Core.correctStore
  dsimp only
  split
  · exact ⟨c.softStore, c.ecnt, rfl⟩
  · exact ⟨_, _, rfl⟩

theorem storeFault_stop (s : State) (n slot stage : Nat) (hit : Nat × Win) : ((s.storeFault n slot stage hit).core n).stop = true := by
  have stopped := congrArg Core.stop (State.core_setCore s n { s.core n with stop := true, stopAddr := hit.1 })
  refine Eq.trans ?_ stopped
  rw [State.storeFault, State.coreFault, core_recordOfCore, State.core_setCore]

/-- The iteration counter of the slot after an issue (R55). -/
theorem iter_issue (c : Core) (slot : Fin 8) (now : Nat) (head : Option Beat) (hold : Option Hold) : (c.issue slot now head hold).dyn[slot].iter
    = iterAfter c.dyn[slot].iter (h11Ilim c.active[slot]) (exitAfter c.dyn[slot].exitGroup (h11Xrank c.active[slot]) head).2 :=
  congrArg SlotDyn.iter (Vector.getElem_set_self slot.isLt)

/-- The open graph after an issue (R135). -/
theorem openGraph_issue (c : Core) (slot : Fin 8) (now : Nat) (head : Option Beat) (hold : Option Hold) : (c.issue slot now head hold).openGraph
    = graphAfter c.openGraph (h0Graph c.active[slot]) (c.triggerGroup (h0Trig c.active[slot])) head := rfl

/-- A graph closes at the first beat of a boundary of rank 2 or more (R33, R135). -/
theorem graphAfter_open (g : BitVec 2) (grp : GroupState) (b : Beat) : graphAfter (some g) g grp (some b)
    = if 2 ≤ markRank b.mark ∧ ¬ (b.count = 0 ∧ grp.isOpen = true ∧ 2 ≤ grp.rank) then none else some g := by
  have closes : grp.closes b = true ↔ 2 ≤ markRank b.mark ∧ ¬ (b.count = 0 ∧ grp.isOpen = true ∧ 2 ≤ grp.rank) := by
    rw [GroupState.closes, Bool.and_eq_true, decide_eq_true_iff, Bool.not_eq_true', ← Bool.not_eq_true, Bool.and_eq_true, Bool.and_eq_true,
      decide_eq_true_iff, beq_iff_eq, and_assoc]
  simp only [graphAfter, true_and, closes]

/-- The store words that the issue of a handler reads (R120). -/
def issueReads (c : Core) (h : HandlerRec) : List (Nat × Win) :=
  match c.headBeat h with
  | some (_, a) => [(a + 16, h0Trig h)]
  | none => []

/-- A core may issue the handler that it has selected (R39, R134, R137). -/
structure MayIssue (s : State) (n : Nat) (slot : Fin 8) : Prop where
  runs : (s.core n).stop = false
  goes : s.coreStopping n = false
  free : SlotFree s n
  unclaimed : s.slotClaimed n = false
  selected : s.select n = some slot
  room : (s.core n).pipe.length < 6
  first : ∀ f ∈ (s.core n).pipe, 2 ≤ f.stage
  settled : (s.core n).unsettled slot = false

section
variable {s : State} {n : Nat} {slot : Fin 8} (may : MayIssue s n slot)
include may

/-- The event issues the selected handler; where a word that it reads cannot be corrected, it stops the core, with the firing held. -/
theorem MayIssue.issues {reads : List (Nat × Win)} (hr : issueReads (s.core n) (s.core n).active[slot] = reads) : exec (.firingIssue n) s =
    let s' := if heavyRec (s.core n).active[slot] && !(s.core n).lit then s.takeLantern n else s
    match (s.core n).badRead reads with
    | some hit => .next ((s'.setCore n ((s.core n).issue slot s.now none (some .stopped))).storeFault n slot 1 hit)
    | none =>
      let s'' := s'.setCore n (((s.core n).correctStore reads).issue slot s.now (((s.core n).headBeat (s.core n).active[slot]).map (·.1)) none)
      .next (if heavyRec (s.core n).active[slot] then s'' else s''.returnLantern n) := by
  obtain ⟨runs, goes, free, unclaimed, selected, room, first, settled⟩ := may
  have stage : (s.core n).stageOneFree = true := by simpa [Core.stageOneFree, room] using first
  have slotFree : (s.core n).slotFree s.now = true := by simpa [Core.slotFree, SlotFree] using free
  show execFiringIssue n s = _
  simp only [execFiringIssue, goes, runs, selected, stage, slotFree, unclaimed, settled, Bool.not_true, Bool.or_self, Bool.false_eq_true, if_false]
  rw [← hr]
  rfl

theorem MayIssue.issues_stopped {reads : List (Nat × Win)} {hit : Nat × Win} (hr : issueReads (s.core n) (s.core n).active[slot] = reads)
    (bad : (s.core n).badRead reads = some hit) :
    ∃ t : State, exec (.firingIssue n) s = .next ((t.setCore n ((s.core n).issue slot s.now none (some .stopped))).storeFault n slot 1 hit) := by
  have run := may.issues hr
  simp only [bad] at run
  exact ⟨_, run⟩

/-- Where what it reads can be corrected, the core issues the firing; the correction and the lanterns change nothing else of it. -/
theorem MayIssue.issues_read {reads : List (Nat × Win)} {head : Option Beat} (hr : issueReads (s.core n) (s.core n).active[slot] = reads)
    (hh : ((s.core n).headBeat (s.core n).active[slot]).map (·.1) = head) (good : (s.core n).badRead reads = none) :
    ∃ t lit soft count, exec (.firingIssue n) s = .next t
      ∧ t.core n = { (s.core n).issue slot s.now head none with softStore := soft, ecnt := count, lit := lit }
      ∧ (heavyRec (s.core n).active[slot] = true → lit = true) := by
  obtain ⟨soft, count, corrected⟩ := exists_correctStore (s.core n) reads
  have run := may.issues hr
  simp only [good, hh, corrected] at run
  by_cases heavy : heavyRec (s.core n).active[slot] = true
  · refine ⟨_, (s.core n).lit || heavyRec (s.core n).active[slot], soft, count, run, ?_, fun _ => by rw [heavy, Bool.or_true]⟩
    rw [if_pos heavy, State.core_setCore]
    rfl
  · obtain ⟨lit, back⟩ := exists_lit_returnLantern (Core.issue { s.core n with softStore := soft, ecnt := count } slot s.now head none) s.now
    refine ⟨_, lit, soft, count, run, ?_, fun is => absurd is heavy⟩
    have none_taken : ¬ (heavyRec (s.core n).active[slot] && !(s.core n).lit) = true :=
      fun both => heavy (Bool.and_eq_true_iff.1 both).1
    rw [if_neg heavy, if_neg none_taken, State.returnLantern, State.core_setCore, State.core_setCore]
    exact back.trans rfl

end

/-- Settles O26: the event issues the firing, which the core shows but for its lantern and what the correction of its head beat changes. -/
theorem firingIssues : Obligations.FiringIssues := by
  intro s n slot runs goes free unclaimed selected u h room first settled
  have may : MayIssue s n slot := ⟨runs, goes, free, unclaimed, selected, room, first, settled⟩
  refine ⟨fun noHead => ?_, fun b a head good => ?_, fun b a hit head bad => ?_⟩
  · have reads : issueReads u h = [] := by rw [issueReads, noHead]
    obtain ⟨t, lit, soft, count, run, core, heavy⟩ := may.issues_read reads (head := none) (by rw [noHead]; rfl) rfl
    refine ⟨t, run, ?_⟩
    rw [core]
    refine ⟨rfl, rfl, rfl, ?_, rfl, rfl, heavy⟩
    show ((s.core n).issue slot s.now none none).dyn[slot].iter = _
    rw [iter_issue]
    simp only [iterAfter, exitAfter, Bool.false_eq_true, false_or]
    rfl
  · have reads : issueReads u h = [(a + 16, h0Trig h)] := by rw [issueReads, head]
    obtain ⟨t, lit, soft, count, run, core, heavy⟩ := may.issues_read reads (head := some b) (by rw [head]; rfl) good
    refine ⟨t, run, ?_⟩
    rw [core]
    refine ⟨rfl, iter_issue (s.core n) slot s.now (some b) none, fun closed => ?_, fun opened => ?_⟩
    · refine (openGraph_issue (s.core n) slot s.now (some b) none).trans ?_
      rw [show (s.core n).openGraph = none from closed]
      rfl
    · refine (openGraph_issue (s.core n) slot s.now (some b) none).trans ?_
      rw [show (s.core n).openGraph = some (h0Graph (s.core n).active[slot]) from opened, graphAfter_open]
  · have reads : issueReads u h = [(a + 16, h0Trig h)] := by rw [issueReads, head]
    obtain ⟨t, run⟩ := may.issues_stopped reads bad
    refine ⟨_, run, storeFault_stop .., ?_⟩
    rw [(storeFault_pipe ..).1, State.core_setCore]
    rfl

end Sys2Proof.Claims
end

section
/-! PROOFS. A step runs the instruction that its move names (03 R39; 08 R180, R182, R188, R220; 17 R346; log 1). -/

namespace Sys2Proof.Claims

open Sys2Proof.Machine

/-! ## What passes with time -/

theorem sparseGet_sparseMap {α : Type} {d : α} {f : α → α} (fixed : f d = d) (m : List (Nat × α)) (k : Nat) :
    sparseGet d (sparseMap f m) k = f (sparseGet d m k) := by
  induction m with
  | nil => exact fixed.symm
  | cons x t ih =>
    obtain ⟨j, w⟩ := x
    show (if j = k then f w else if k < j then d else sparseGet d (sparseMap f t) k) = f (if j = k then w else if k < j then d else sparseGet d t k)
    rw [ih, apply_ite f, apply_ite f, fixed]

/-- In the time before a move a core keeps all but its lantern (R350). -/
theorem exists_core_pass (s : State) (dt n : Nat) : ∃ lit, (s.pass dt).core n = { s.core n with lit := lit } := by
  by_cases none_passes : dt = 0
  · subst none_passes
    exact ⟨(s.core n).lit, rfl⟩
  · have returns : (s.returnLanterns dt).core n = (s.core n).returnLantern (s.now + dt - 1) := by
      rw [State.returnLanterns, if_neg none_passes]
      exact sparseGet_sparseMap (f := fun c : Core => c.returnLantern (s.now + dt - 1)) rfl s.cores n
    obtain ⟨lit, back⟩ := exists_lit_returnLantern (s.core n) (s.now + dt - 1)
    exact ⟨lit, returns.trans back⟩

/-- What the time before a move leaves of the state (log 1). -/
theorem pass_leaves (s : State) (dt : Nat) : (s.pass dt).seqs = s.seqs ∧ (s.pass dt).cmds = s.cmds ∧ (s.pass dt).net = s.net := by
  unfold State.pass State.returnLanterns
  split <;> exact ⟨rfl, rfl, rfl⟩

section
variable {s later : State} {c : Cue} (h : Cued s c later)
include h

theorem Cued.nextCue : s.nextCue = (c, later) := by
  obtain ⟨-, noRound, dt, rest, agenda, noneBefore, rfl⟩ := h
  have first : dt < s.roundIn ∨ s.pkg.slots.isEmpty = true := noneBefore.imp_right List.isEmpty_iff.2
  simp only [State.nextCue, noRound, agenda, State.moveAfter, if_pos first]

/-- A step of a module that runs fetches the move. -/
theorem Cued.step : step s = (later.fetch c).outcome := by
  rw [Machine.step, h.nextCue, if_neg (by rw [h.running]; exact Bool.false_ne_true)]

theorem Cued.seq (q : Nat) : later.seq q = s.seq q := by
  obtain ⟨-, -, dt, rest, -, -, rfl⟩ := h
  exact congrArg (sparseGet Seq.init · q) (pass_leaves s dt).1

theorem Cued.cmds : later.cmds = s.cmds := by
  obtain ⟨-, -, dt, rest, -, -, rfl⟩ := h
  exact (pass_leaves s dt).2.1

theorem Cued.cmdBehind (d : Cmd) : later.cmdBehind d = s.cmdBehind d := by
  obtain ⟨-, -, dt, rest, -, -, rfl⟩ := h
  obtain ⟨-, cmds, net⟩ := pass_leaves s dt
  simp only [State.cmdBehind, State.cmdsInNet, cmds, net]

theorem Cued.core (n : Nat) : (later.core n).pipe = (s.core n).pipe ∧ (later.core n).active = (s.core n).active := by
  obtain ⟨-, -, dt, rest, -, -, rfl⟩ := h
  obtain ⟨lit, core⟩ := exists_core_pass s dt n
  have pipe := congrArg Core.pipe core
  have active := congrArg Core.active core
  exact ⟨pipe, active⟩

end

/-! ## What a move comes to -/

/-- The guard of a word: its low three bits (R180). -/
theorem fld_guard (w : Code) : fld w 0 3 = BitVec.ofNat 3 w.toNat := by rw [fld, Nat.pow_zero, Nat.div_one]

section
variable {s : State} {q : Nat} {b : Block} {w : Code} (block : (s.seq q).blk = some b) (word : b.words[b.idx]? = some w)
include block word

theorem fetchSeq_runs {i : Instr} (guard : readPred b.preds (BitVec.ofNat 3 w.toNat) = true) (decodes : decodeSeq w = .ok i) :
    s.fetchSeq q = .run i { s.beforeWord q b w with focus := .seq q } := by
  simp only [State.fetchSeq, block, Block.head?, word, fld_guard, guard, decodes, Bool.true_eq_false, if_false]

theorem fetchSeq_passes (guard : readPred b.preds (BitVec.ofNat 3 w.toNat) = false) :
    s.fetchSeq q = .done (s.setSeq q { s.seq q with blk := some { b with idx := b.idx + 1, waiting := false } }) := by
  simp only [State.fetchSeq, block, Block.head?, word, fld_guard, guard, if_true, Seq.skipWord]

theorem fetchSeq_traps {e} (guard : readPred b.preds (BitVec.ofNat 3 w.toNat) = true) (decodes : decodeSeq w = .error e) :
    s.fetchSeq q = .done (traps s q ((s.seq q).pc.setWidth 64) (ecause 1 b.idx 0) 0) := by
  simp only [State.fetchSeq, block, Block.head?, word, fld_guard, guard, decodes, Bool.true_eq_false, if_false, State.trapWord]
  rw [takeTrap_eq (by decide)]
  rfl

end

/-- A firing that stands at a stage, with every older one ahead of it and none of them held, runs its stage word (R39, R42). -/
theorem fetchStage_runs {s : State} {n k : Nat} {fr : Firing} {w : Code} (stands : (s.core n).pipe[k]? = some fr) (low : 1 ≤ fr.stage)
    (high : fr.stage ≤ 6) (older : ∀ g ∈ (s.core n).pipe.take k, fr.stage < g.stage ∧ g.hold = none)
    (word : (s.core n).active[fr.slot][fr.stage]? = some w) : s.fetchStage n k = .run (decodeStage w) { s with focus := .stage n k } := by
  have ahead : ((s.core n).pipe.take k).any (fun g => decide (g.stage ≤ fr.stage) || g.hold.isSome) = false := by
    rw [List.any_eq_false]
    intro g hg
    obtain ⟨further, goes⟩ := older g hg
    simp [goes, further]
  have goes : ¬ (fr.stage < 1 ∨ 6 < fr.stage ∨ ((s.core n).pipe.take k).any (fun g => decide (g.stage ≤ fr.stage) || g.hold.isSome) = true) := by
    rw [ahead]
    simp
    omega
  simp only [State.fetchStage, stands, if_neg goes, word, Option.getD_some]

/-- Settles O51: the move comes as it stands, for the time before it leaves the sequencers, the commands and the firings. -/
theorem stepRunsTheDecodedInstruction : Obligations.StepRunsTheDecodedInstruction := by
  intro s later
  refine ⟨fun i h => h.step, fun q b w h block word => ⟨fun i guard decodes => ?_, fun guard => ?_, fun e guard decodes => ?_⟩,
    fun n k fr w h stands low high older word => ?_, fun k c h cmd goes => ?_, fun d rest runs due => ?_,
    fun dt c rest runs due agenda before slots => ?_⟩
  · rw [h.step, State.fetch, fetchSeq_runs ((h.seq q).symm ▸ block) word guard decodes]
    rfl
  · rw [h.step, State.fetch, fetchSeq_passes ((h.seq q).symm ▸ block) word guard, h.seq]
    rfl
  · rw [h.step, State.fetch, fetchSeq_traps ((h.seq q).symm ▸ block) word guard decodes, h.seq]
    rfl
  · obtain ⟨pipe, active⟩ := h.core n
    rw [h.step, State.fetch, fetchStage_runs (pipe.symm ▸ stands) low high (pipe.symm ▸ older) (active.symm ▸ word)]
    rfl
  · rw [h.step, State.fetch, State.fetchCmd, h.cmds, cmd]
    simp only [h.cmdBehind, goes, Bool.false_eq_true, if_false]
    rfl
  · simp only [Machine.step, State.nextCue, runs, due, Bool.false_eq_true, if_false]
    rfl
  · intro t
    have later : ¬ (dt < s.roundIn ∨ s.pkg.slots.isEmpty = true) := by
      rw [List.isEmpty_iff]
      exact fun h => h.elim (fun h => absurd h (by omega)) slots
    simp only [Machine.step, State.nextCue, runs, due, agenda, State.moveAfter, if_neg later, Bool.false_eq_true, if_false]
    rfl

end Sys2Proof.Claims
end

section
/-! PROOFS. The stages that work on windows, and what a stage waits for (03 R39, R42, R50; 05 R98 to R103, R109 to R114, R116). -/

namespace Sys2Proof.Claims

open Sys2Proof.Machine

/-! ## A stage that holds, and one that passes -/

/-- A stage behind an older firing, or before an element that is not there, holds. -/
theorem stage_waitsForItsElements : StageWaitsForItsElements := by
  intro i op f s n k fr stage stands u older
  obtain ⟨body, runs⟩ := exec_stage stage s
  have steps : exec i s = .next (s.stageStep n k fr op.toNat f body) := runs.trans (stands.runStage ..)
  have same : s.olderFirst n k fr op.toNat f = older := by simp only [State.olderFirst, BitVec.ofNat_toNat, BitVec.setWidth_eq]; rfl
  refine ⟨fun behind => ?_, fun w free waits => ?_⟩
  · rw [steps, State.stageStep_older (same.trans behind)]
    rfl
  · rw [steps, State.stageStep_waits (same.trans free) waits]
    rfl

section
variable {s : State} {n k : Nat} {fr : Firing} {op : BitVec 6} {f : StageFields} {o : Operands} {i : Instr}
  {body : StageCtx → Operands → StageRes} {warn : Lane}

/-- A core's windows hold no more than they hold. -/
theorem newFills_self (c : Core) : c.newFills c = [] := by
  simp [Core.newFills]

/-- A stage that runs as `nop` passes its firing on (R50, R116). -/
theorem StageRuns.passes (h : StageRuns s n k fr op f o) (hx : exec i s = s.runStage op.toNat f body)
    (hb : body (seen s n k fr f) o = .nop warn) : passes s n k fr op f i warn := by
  obtain rfl := h.operands
  have delivers : (s.core n).deliverAll
      ((delivered (leaving (s.core n).active[fr.slot] ((seen s n k fr f).value (Beat.blank 16 markNone) 0 warn)) []).drop fr.sent) =
      (s.core n, 0, 0, none) := by
    rw [show delivered (leaving (s.core n).active[fr.slot] ((seen s n k fr f).value (Beat.blank 16 markNone) 0 warn)) [] = [] from rfl,
      List.drop_nil, Core.deliverAll_nil]
  have commits := finishStage_commits (fr := fr) (f := f) (k := k) (cwarn := lanternWarn op.toNat f) rfl delivers
  have same : fr.filling ((s.core n).newFills (s.core n)) = fr := by rw [newFills_self, Firing.filling, List.append_nil]
  have warns : lanternWarn op.toNat f ||| 0 = lanternWarn op.toNat f := BitVec.or_zero
  simp only [same, warns] at commits
  rw [Claims.passes, hx, h.runStage, State.stageStep_nop h.olderFirst h.filled hb]
  exact congrArg _ commits

end

/-! ## The window stages -/

section
variable {s : State} {n k : Nat} {fr : Firing} {f : StageFields} {o : Operands}

/-- The firing of what its stage sees. -/
@[simp] theorem seen_fr (s : State) (n k : Nat) (fr : Firing) (f : StageFields) : (seen s n k fr f).fr = fr := rfl

/-- `nop` and the reserved opcodes pass a firing on (R50). -/
theorem nop_passes (s : State) (n k : Nat) (fr : Firing) (f : StageFields) (o : Operands) :
    (StageRuns s n k fr 0x00 f o → passes s n k fr 0x00 f (.stageNop .plain f) (noFields f))
    ∧ (StageRuns s n k fr 0x3E f o → passes s n k fr 0x3E f (.stageNop .reserved3E f) cwOPC)
    ∧ (StageRuns s n k fr 0x3F f o → passes s n k fr 0x3F f (.stageNop .reserved3F f) cwOPC) :=
  ⟨fun h => h.passes rfl rfl, fun h => h.passes rfl rfl, fun h => h.passes rfl rfl⟩

end

/-- The count of a `shrink` is lane 0 of B, held between 0 and 1024 with a warning (R113). -/
theorem shrinkCount_eq (b : Operand) : shrinkCount b =
    (if b.count = 0 then 0 else (max 0 (min (b.lane 0).toInt 1024)).toNat,
      if b.count ≠ 0 ∧ ((b.lane 0).toInt < 0 ∨ 1024 < (b.lane 0).toInt) then cwTRANGE else 0) := by
  unfold shrinkCount
  by_cases lanes : b.count = 0
  · simp [lanes]
  · rw [if_neg lanes, if_neg lanes]
    by_cases low : (b.lane 0).toInt < 0
    · simp [lanes, low]
      omega
    · by_cases high : 1024 < (b.lane 0).toInt
      · simp [lanes, low, high]
        omega
      · simp [lanes, low, high]
        omega

/-- One shrink, where it takes an element of a window that is shrunk. -/
theorem shrinksOf_one (x : StageCtx) (w : Win) (n : Nat) : x.shrinksOf [(w, n)] = if n = 0 ∨ x.core.ordinary w = false then [] else [(w, n)] := by
  by_cases none_ : n = 0
  · simp [StageCtx.shrinksOf, none_]
  · cases ord : x.core.ordinary w <;> simp [StageCtx.shrinksOf, none_, ord]

/-! ### A key out of order under STRICT (R103) -/

/-- What reaching a head key, or noting its beats, leaves of an input (R101). -/
structure SameHead (u v : JoinSide) : Prop where
  cur : v.cur = u.cur
  mark : v.mark = u.mark
  window : v.w = u.w
  key : v.key = u.key

theorem sameHead_use (v : JoinSide) : SameHead v v.use := ⟨rfl, rfl, rfl, rfl⟩

theorem sameHead_reach (v : JoinSide) (kind : Nat) (dup : Bool) : SameHead v (v.use.reach kind dup).1 := by
  unfold JoinSide.reach
  split <;> exact ⟨rfl, rfl, rfl, rfl⟩

/-- An input as a step of the firing first meets it, and whether its key is out of order (R103). -/
def JoinSide.meets (v : JoinSide) (ended : Bool) (k : JoinCode) : JoinSide × Bool := if ended then (v.use, false) else v.use.reach k.kind k.dup

theorem sameHead_meets (v : JoinSide) (ended : Bool) (k : JoinCode) : SameHead v (JoinSide.meets v ended k).1 := by
  cases ended with
  | true => exact sameHead_use v
  | false => exact sameHead_reach v k.kind k.dup

section
variable {k : JoinCode} {j : JoinRun} {el er : Bool} (strict : k.strict = true) (few : j.emitted.length < 16) (hl : j.l.ended = some el)
  (hr : j.r.ended = some er)
include strict few hl hr

theorem joinSteps_stops_left (n : Nat) (bad : (JoinSide.meets j.l el k).2 = true) :
    let l := (JoinSide.meets j.l el k).1
    joinSteps k (n + 1) j = .ok { j with l := l, cwarn := j.cwarn ||| cwJKEY, fault := some (l.key, l.w) } := by
  have goes : ¬ 16 ≤ j.emitted.length := by omega
  cases el with
  | true => cases bad
  | false =>
    have bad' : (j.l.use.reach k.kind k.dup).2 = true := bad
    cases er <;> simp [joinSteps, goes, hl, hr, bad', strict, JoinSide.meets]

theorem joinSteps_stops_right (n : Nat) (good : (JoinSide.meets j.l el k).2 = false) (bad : (JoinSide.meets j.r er k).2 = true) :
    let r := (JoinSide.meets j.r er k).1
    joinSteps k (n + 1) j = .ok { j with l := (JoinSide.meets j.l el k).1, r := r, cwarn := j.cwarn ||| cwJKEY, fault := some (r.key, r.w) } := by
  have goes : ¬ 16 ≤ j.emitted.length := by omega
  cases er with
  | true => cases bad
  | false =>
    have bad' : (j.r.use.reach k.kind k.dup).2 = true := bad
    cases el with
    | true => simp [joinSteps, goes, hl, hr, bad', strict, JoinSide.meets]
    | false =>
      have good' : (j.l.use.reach k.kind k.dup).2 = false := good
      simp [joinSteps, goes, hl, hr, bad', good', strict, JoinSide.meets]

end

/-! ### The window stages -/

theorem windowStages_work : Claims.WindowStagesWork := by
  refine ⟨nop_passes, ?merge, ?join, ?steps, ?wupd, ?wfill, ?shrink, ?wcnt, ?unbound, ?none_⟩
  case wfill => exact leaves_of_runStage fun _ _ => rfl
  case merge =>
    intro s n k fr f o wt wf m h x ht hf dyn br replayed
    refine h.gives (i := .merge f) rfl ?_
    simp only [x, dyn, br] at ht hf replayed
    simp only [ht, hf, boolOf, seen_fr, replayed]
    rfl
  case join =>
    intro s n k fr f o wl wr r h x hl hr nl nr constant e joins
    refine h.gives (i := .join f) rfl ?_
    simp only [x] at hl hr nl nr
    simp only [hl, hr, nl, nr, Bool.or_self, Bool.false_eq_true, if_false]
    refine Eq.trans ?_ joins
    by_cases isConst : constant
    · have both : (decide (16 ≤ f.c.toNat) && decide (f.c.toNat < 24)) = true := by simpa [constant] using isConst
      simp only [if_pos isConst, both, bv_low, seen_fr]
      rfl
    · have neither : (decide (16 ≤ f.c.toNat) && decide (f.c.toNat < 24)) = false := by
        simpa [constant] using isConst
      simp only [if_neg isConst, neither, bv_low, seen_fr]
      rfl
  case steps =>
    intro kc j n el er strict few hl hr badL badR stops
    have left := sameHead_meets j.l el kc
    have right := sameHead_meets j.r er kc
    have metL : badL = (JoinSide.meets j.l el kc).2 := by cases el <;> rfl
    have metR : badR = (JoinSide.meets j.r er kc).2 := by cases er <;> rfl
    refine ⟨fun bad => ⟨_, joinSteps_stops_left strict few hl hr n (metL ▸ bad), ?_, rfl, rfl, left.cur, left.mark, rfl, rfl⟩,
      fun good bad => ⟨_, joinSteps_stops_right strict few hl hr n (metL ▸ good) (metR ▸ bad),
        ?_, rfl, rfl, left.cur, left.mark, right.cur, right.mark⟩⟩
    · rw [left.key, left.window]
    · rw [right.key, right.window]
  case wupd =>
    intro s n k fr f o j u h x tap updated
    refine h.gives (i := .wupd f) rfl ?_
    simp only [x] at updated
    have reserved : modFrom f 7 = if f.mod = 7 then cwMODX else 0 := by
      have : 7 ≤ f.mod.toNat ↔ f.mod = 7 := ⟨fun h => BitVec.eq_of_toNat_eq (by have := f.mod.isLt; simp; omega), fun h => by rw [h]; decide⟩
      simp only [modFrom, this]
    simp only [tap, updated, reserved]
    rfl
  case shrink =>
    intro s n k fr f o w h x hw bind
    simp only [x] at hw
    have bound : (if (!wdBound ((seen s n k fr f).core.desc w)) = true then cwTUNB
        else if wdParam ((seen s n k fr f).core.desc w) = true then cwTRANGE else 0) = bind := by
      simp only [bind, Bool.not_eq_true']
      rfl
    refine ⟨fun absent => ?_, fun present => ?_⟩
    · refine h.gives (i := .shrink f) rfl ?_
      simp only [hw, absent, bound]
      rfl
    · refine h.gives (i := .shrink f) rfl ?_
      simp only [hw, present, if_true, shrinkCount_eq, shrinksOf_one, bound]
      rfl
  case wcnt =>
    intro s n k fr f o w h x hw bound
    refine h.gives (i := .wcnt f) rfl ?_
    simp only [x] at hw bound
    simp only [hw, bound]
    refine congrArg (fun v => StageRes.out ((seen s n k fr f).value v 0 (noFields f))) (congrArg (fun g => Beat.mk g 5 markNone 0) ?_)
    refine congrArg Vector.ofFn (funext fun ⟨l, low⟩ => ?_)
    by_cases field : l < 5
    · simp only [if_pos field]
      interval_cases l <;> rfl
    · simp only [if_neg field]
  case unbound =>
    intro s n k fr f o w h x hw unbound
    refine h.gives (i := .wcnt f) rfl ?_
    simp only [x] at hw unbound
    simp only [hw, unbound]
    rfl
  case none_ =>
    intro s n k fr f o x
    refine ⟨fun h none_ => h.passes rfl ?_, fun h none_ => h.passes rfl ?_, fun wl wr h hl hr narrow => h.passes rfl ?_, fun h hw => h.passes rfl ?_,
      fun h hw => h.passes rfl ?_, fun h hw => h.passes rfl ?_⟩
    · simp only [x] at none_
      rcases none_ with missing | missing <;> simp only [missing]
      · rfl
      · cases codeWin (seen s n k fr f).h f.b <;> rfl
    · simp only [x] at none_
      rcases none_ with missing | missing <;> simp only [missing]
      · rfl
      · cases codeWin (seen s n k fr f).h f.a <;> rfl
    · simp only [x] at hl hr narrow
      simp only [hl, hr, Bool.or_eq_true, narrow, if_true]
      rfl
    · have noTap : tapCode f.a = none := by simpa [codeWin] using hw
      simp only [noTap]
    · simp only [x] at hw
      simp only [hw]
    · simp only [x] at hw
      simp only [hw]
      rfl

/-- Settles O25: each stage comes to what its body forms from the windows it names, and holds before that while it must wait. -/
theorem windowStagesWork : Obligations.WindowStagesWork := ⟨windowStages_work, stage_waitsForItsElements⟩

end Sys2Proof.Claims
end

section
/-! PROOFS. Blocks issue, asynchronous traps are taken, and what comes from outside arrives (08 R177, R181, R182, R186 to R189; 13 R246, R262). -/

namespace Sys2Proof.Claims

open Sys2Proof.Machine

/-! ## The block at the PC (R181, R182, R188) -/

/-- A trap of a fetch has a cause that ECAUSE holds (R188). -/
theorem fetchCode_cause {s s' : State} {q ctx va cause addr : Nat} (h : s.fetchCode q ctx va = (.trap cause addr, s')) : cause < 16 := by
  have causes (code : Nat) : xlatCause code < 16 := by
    unfold xlatCause
    split
    · decide
    · split <;> decide
  unfold State.fetchCode at h
  split at h
  · cases h
    decide
  split at h
  · cases h
  split at h
  · split at h
    · cases h
    · cases h
      exact causes _
  split at h
  · cases h
  split at h
  · split at h <;> cases h
  · cases h
    decide
  · cases h

/-- Settles O37: a sequencer between blocks goes on to the fetch of the word at its PC. -/
theorem blocksIssue : Obligations.BlocksIssue := by
  intro s q r h region waits noTrap v pc
  obtain ⟨⟨regions, halted, doubled, frozen⟩, settled, resumed, noBlock⟩ := h
  have alive : (s.seq q).alive = true := by simp [Seq.alive, regions, halted, doubled, frozen]
  have untaken : (s.seq q).takesTraps = false := by
    rcases noTrap with off | inside
    · simp [Seq.takesTraps, off]
    · simp [Seq.takesTraps, inside]
  have goes : ¬ (!(s.seq q).alive || (s.seq q).blk.isSome || (s.seq q).wait != .none || !(s.seq q).settled || !s.resumed q
      || ((s.seq q).takesTraps && (s.seq q).pendingTrap.isSome)) = true := by
    simp [alive, untaken, noBlock, waits, settled, resumed]
  refine ⟨fun hdr s1 words s2 aligned own fetched header => ?_, fun hdr s1 aligned own fetched header => ?_, fun unaligned => ?_,
    fun cause addr s1 aligned own fetched => ?_⟩
  · intro n own' body
    show execBlockIssue q s = _
    have isHeader : ¬ bv hdr 26 6 ≠ 0x3F := not_not.2 header
    simp only [v, pc] at aligned own fetched own' body
    replace own' : s1.ownStores q ((s.seq q).pc.toNat + 4) (4 * (bv hdr 19 7 + 1)) = false := own'
    replace body : s1.fetchCodes q r.ctx (((s.seq q).pc.toNat + 4) % 2 ^ 56) (bv hdr 19 7 + 1) [] = (.ok words, s2) := body
    simp only [execBlockIssue, region, if_neg goes, aligned, ne_eq, not_true_eq_false, if_false, own, fetched, own', body, Bool.false_eq_true]
    rw [if_neg isHeader]
    rfl
  · show execBlockIssue q s = _
    have noHeader : bv hdr 26 6 ≠ 0x3F := header
    simp only [v, pc] at aligned own fetched
    simp only [execBlockIssue, region, if_neg goes, aligned, ne_eq, not_true_eq_false, if_false, own, fetched, Bool.false_eq_true]
    rw [if_pos noHeader, takeTrap_eq (by decide)]
    rfl
  · show execBlockIssue q s = _
    simp only [v, pc] at unaligned
    simp only [execBlockIssue, region, if_neg goes]
    rw [if_pos unaligned, takeTrap_eq (by decide)]
    rfl
  · show execBlockIssue q s = _
    simp only [v, pc] at aligned own fetched
    simp only [execBlockIssue, region, if_neg goes, aligned, ne_eq, not_true_eq_false, if_false, own, fetched, Bool.false_eq_true]
    rw [takeTrap_eq (fetchCode_cause fetched)]

/-! ## Asynchronous traps and the ends of waits (R186, R189) -/

theorem enterTrap_eq (v : Seq) (epc : Word) (cause idx code : Nat) (addr : Word) :
    v.enterTrap epc cause idx code addr = trapped v epc (ecause cause idx code) addr := by
  rw [Seq.enterTrap, ecauseWord_eq]
  rfl

/-- The state in which an asynchronous trap is taken: the last block has settled, or what of it still waits is suspended (R189). -/
def trapState (s : State) (q : Nat) : State := if (s.seq q).settled then s else s.suspend q

/-- The trap that is pending is taken, where traps are still taken then (R189). -/
theorem TrapsNow.takes {s : State} {q cause : Nat} {a : Word} (h : TrapsNow (s.seq q)) (isPending : (s.seq q).pendingTrap.isSome = true)
    (enabled : ((trapState s q).seq q).takesTraps = true) (pending : ((trapState s q).seq q).pendingTrap = some (cause, a)) :
    exec (.asyncTrapTake q) s =
      let v := (trapState s q).seq q
      .next ((trapState s q).setSeq q { trapped v (v.pc.setWidth 64) (ecause cause 255 0) a with
        pendVug := if cause = causeVUGALLOC then none else v.pendVug, pendFloor := if cause = causeFLOOR then none else v.pendFloor }) := by
  obtain ⟨⟨regions, halted, doubled, frozen⟩, ⟨eie, tl⟩, goes, waits⟩ := h
  have alive : (s.seq q).alive = true := by simp [Seq.alive, regions, halted, doubled, frozen]
  have takes : (s.seq q).takesTraps = true := by simp [Seq.takesTraps, eie, tl]
  have between : (match (s.seq q).blk with | some b => b.waiting | none => true) = true := by
    cases hb : (s.seq q).blk with
    | none => rfl
    | some b => exact waits b hb
  have runs : ¬ (!(s.seq q).alive || !(s.seq q).takesTraps || (s.seq q).halts || !(match (s.seq q).blk with | some b => b.waiting | none => true)
      || (s.seq q).pendingTrap.isNone) = true := by
    rw [between]
    cases hp : (s.seq q).pendingTrap with
    | none => rw [hp] at isPending; cases isPending
    | some p => simp [alive, takes, goes]
  show execAsyncTrapTake q s = _
  rw [execAsyncTrapTake]
  refine (if_neg runs).trans ?_
  simp only [trapState] at enabled pending ⊢
  simp only [enabled, pending, enterTrap_eq]
  rfl

/-- The order in which pending traps are taken: VUGALLOC, FLOOR, EVENT (R189). -/
theorem pendingTrap_vug {v : Seq} {a : Word} (h : v.pendVug = some a) : v.pendingTrap = some (causeVUGALLOC, a) := by
  simp only [Seq.pendingTrap, h]

theorem pendingTrap_floor {v : Seq} {a : Word} (none_ : v.pendVug = none) (h : v.pendFloor = some a) : v.pendingTrap = some (causeFLOOR, a) := by
  simp only [Seq.pendingTrap, none_, h]

theorem pendingTrap_event {v : Seq} (noVug : v.pendVug = none) (noFloor : v.pendFloor = none) (h : v.eventPending = true) :
    v.pendingTrap = some (causeEVENT, 0) := by
  simp only [Seq.pendingTrap, noVug, noFloor, h, if_true]

/-! ### What a suspended block leaves (log 118) -/

theorem storeWords_pendVug (v : Machine.Seq) (a : Nat) (l : List Word) : (v.storeWords a l).pendVug = v.pendVug := by
  induction l generalizing v a with
  | nil => rfl
  | cons x xs ih => exact ih ..

theorem applyLocal_pendVug (v : Machine.Seq) (e : Effect) : (v.applyLocal e).pendVug = v.pendVug := by
  cases e with
  | winFill m e =>
    show (v.appendElem m e).pendVug = v.pendVug
    unfold Seq.appendElem
    dsimp only
    split <;> exact storeWords_pendVug ..
  | winWrite m off e => exact storeWords_pendVug ..
  | _ => rfl

theorem writeCsr_pendVug (v : Machine.Seq) (n : Nat) (x : Word) : (v.writeCsr n x).pendVug = v.pendVug := by
  have mdesc (m : BitVec 3) : (v.writeMdesc m x).pendVug = v.pendVug := by
    unfold Seq.writeMdesc
    dsimp only
    split <;> rfl
  unfold Seq.writeCsr
  simp only [apply_ite Seq.pendVug, mdesc, ite_self]

theorem applyOwn_pendVug (v : Machine.Seq) (e : Effect) : (v.applyOwn e).pendVug = v.pendVug := by
  cases e with
  | csrWrite n x => exact writeCsr_pendVug ..
  | widWrite f x =>
    show (v.setWid f.toNat x).pendVug = v.pendVug
    unfold Seq.setWid
    split <;> rfl
  | _ => exact applyLocal_pendVug v _

theorem reported_seq (s : State) (q : Nat) (epc ec : Word) (p : Nat) : (reported s q epc ec).seq p = s.seq p := by
  unfold reported
  split
  · rfl
  · split <;> rfl

theorem traps_pendVug (s : State) (q : Nat) (epc ec addr : Word) : ((traps s q epc ec addr).seq q).pendVug = (s.seq q).pendVug := by
  unfold traps
  dsimp only
  split
  · rw [reported_seq, State.seq_setSeq]
  · rw [State.seq_setSeq]
    rfl

theorem closeBlock_pendVug (s : State) (q : Nat) (c : Option Closing) (next : BitVec 56) :
    ((s.closeBlock q c next).seq q).pendVug = (s.seq q).pendVug := by
  cases c with
  | none => rw [State.closeBlock, State.seq_setSeq]
  | some c =>
    cases c with
    | trap code idx =>
      rw [State.closeBlock, takeTrap_eq (by decide), traps_pendVug, State.seq_setSeq]
    | wfe =>
      rw [State.closeBlock]
      split <;> rw [State.seq_setSeq]
    | eret =>
      rw [State.closeBlock, State.seq_setSeq]
      rfl
    | _ => rw [State.closeBlock, State.seq_setSeq]

theorem actInside_pendVug (q : Nat) (s : State) (e : Queued) : ((State.actInside q s e).seq q).pendVug = (s.seq q).pendVug := by
  unfold State.actInside
  split
  · exact closeBlock_pendVug ..
  · rw [State.seq_setSeq, applyOwn_pendVug]

theorem foldl_actInside_pendVug (q : Nat) (l : List Queued) (s : State) : ((l.foldl (State.actInside q) s).seq q).pendVug = (s.seq q).pendVug := by
  induction l generalizing s with
  | nil => rfl
  | cons e l ih => rw [List.foldl_cons, ih, actInside_pendVug]

theorem pendVug_suspend (s : State) (q : Nat) : ((s.suspend q).seq q).pendVug = (s.seq q).pendVug := by
  rw [State.suspend, State.seq_setSeq]
  exact foldl_actInside_pendVug ..

theorem suspend_outbox (s : State) (q : Nat) : ((s.suspend q).seq q).outbox = [] := by
  rw [State.suspend, State.seq_setSeq]

/-- What acts on another unit stays suspended (R189). -/
theorem mem_suspended (s : State) (q : Nat) {e : Queued} (there : e ∈ (s.seq q).outbox) (waits : actsInside q e = false) :
    e ∈ ((s.suspend q).seq q).suspended := by
  rw [State.suspend, State.seq_setSeq]
  exact List.mem_append_right _ (List.mem_filter.2 ⟨there, by rw [waits]; rfl⟩)

/-- Settles O38: a trap is taken in the state in which the last block has settled or been suspended, and the waits end as their tests say. -/
theorem asynchronousTrapsAndWakes : Obligations.AsynchronousTrapsAndWakes := by
  intro s q v
  refine ⟨fun now settled => ?_, fun a now unsettled pend eie tl => ?_, fun b hb goes => ?_, fun k waits wake filled => ?_, fun pending => ?_,
    fun t waits due => ?_⟩
  · have here : trapState s q = s := if_pos settled
    have takes {cause : Nat} {a : Word} (pending : v.pendingTrap = some (cause, a)) := now.takes (cause := cause) (a := a)
      (by rw [show (s.seq q).pendingTrap = _ from pending]; rfl) (by rw [here, Seq.takesTraps, now.enabled.1, now.enabled.2]; rfl)
      (by rw [here]; exact pending)
    rw [here] at takes
    refine ⟨fun a pend => (takes (pendingTrap_vug pend)).trans ?_, fun a noVug pend => (takes (pendingTrap_floor noVug pend)).trans ?_,
      fun noVug noFloor pend => (takes (pendingTrap_event noVug noFloor pend)).trans ?_⟩
    all_goals rfl
  · have pend' : ((s.suspend q).seq q).pendVug = some a := (pendVug_suspend s q).trans pend
    have here : trapState s q = s.suspend q := if_neg (by rw [unsettled]; exact Bool.false_ne_true)
    have taken := now.takes (by rw [pendingTrap_vug pend]; rfl) (by rw [here, Seq.takesTraps, eie, tl]; rfl)
      (by rw [here]; exact pendingTrap_vug pend')
    rw [here] at taken
    refine ⟨_, taken, ?_⟩
    rw [State.seq_setSeq]
    exact ⟨rfl, rfl, rfl, rfl, rfl, suspend_outbox s q, fun e there waits => mem_suspended s q there waits⟩
  · show execAsyncTrapTake q s = _
    replace hb : (s.seq q).blk = some b := hb
    rw [execAsyncTrapTake]
    refine (if_pos ?_)
    simp [hb, goes]
  · have wakes : (s.seq q).wakes = true := by
      have holds : (bitAt (s.seq q).wake k.val && decide (0 < ((s.seq q).mstat[k]).filled)) = true :=
        Bool.and_eq_true_iff.2 ⟨wake, decide_eq_true filled⟩
      rw [Seq.wakes, List.any_eq_true.2 ⟨k, List.mem_finRange k, holds⟩, Bool.true_or]
    show execWfeWake q s = _
    rw [execWfeWake]
    exact if_pos ⟨waits, wakes⟩
  · have wakes : (s.seq q).wakes = true := by
      rw [Seq.wakes, pending, Bool.or_true]
    refine ⟨fun waits => ?_, fun t waits => ?_⟩
    · show execWfeWake q s = _
      rw [execWfeWake]
      exact if_pos ⟨waits, wakes⟩
    · show execYieldExpiry q s = _
      replace waits : (s.seq q).wait = .yield t := waits
      simp only [execYieldExpiry, waits]
      exact if_pos (.inr wakes)
  · show execYieldExpiry q s = _
    replace waits : (s.seq q).wait = .yield t := waits
    simp only [execYieldExpiry, waits]
    exact if_pos (.inl due)

/-! ## What comes to a sequencer from outside (R177, R183, R246, R262) -/

theorem storeWords_events (v : Machine.Seq) (a : Nat) (l : List Word) : (v.storeWords a l).events = v.events := by
  induction l generalizing v a with
  | nil => rfl
  | cons x xs ih => exact ih ..

theorem appendElem_events (v : Machine.Seq) (m : BitVec 3) (e : List Word) : (v.appendElem m e).events = v.events := by
  unfold Seq.appendElem
  dsimp only
  split <;> exact storeWords_events ..

theorem storeWords_rests (v : Machine.Seq) (a : Nat) (l : List Word) : (v.storeWords a l).rests = v.rests := by
  induction l generalizing v a with
  | nil => rfl
  | cons x xs ih => exact ih ..

theorem appendElem_rests (v : Machine.Seq) (m : BitVec 3) (e : List Word) : (v.appendElem m e).rests = v.rests := by
  unfold Seq.appendElem
  dsimp only
  split <;> exact storeWords_rests ..

theorem drainEvents_rests (v : Machine.Seq) (n : Nat) : (v.drainEvents n).rests = v.rests := by
  induction n generalizing v with
  | zero => rfl
  | succ n ih =>
    rw [Seq.drainEvents]
    split
    · rfl
    split
    · rw [ih, appendElem_rests]
      rfl
    · rfl

/-- With no record in the queue, none goes into the window. -/
theorem drainEvents_empty {v : Machine.Seq} (h : v.events = []) (n : Nat) : v.drainEvents n = v := by
  cases n with
  | zero => rfl
  | succ n => simp only [Seq.drainEvents, h]

/-- The window of EVWIN. -/
theorem evwin_low (v : Machine.Seq) : (BitVec.ofNat 3 (bv v.evwin 0 3)) = BitVec.ofNat 3 (v.evwin.toNat % 8) :=
  congrArg _ (bv_low v.evwin 3)

/-- Where EVWIN names no record window, no record goes into it. -/
theorem drainEvents_noWindow {v : Machine.Seq} (h : v.recordWin (BitVec.ofNat 3 (v.evwin.toNat % 8)) = false) (n : Nat) : v.drainEvents n = v := by
  cases n with
  | zero => rfl
  | succ n =>
    rw [Seq.drainEvents]
    split
    · rfl
    · rw [evwin_low, h]
      rfl

/-- The one record of the queue goes into the window of EVWIN, with the count of those lost (R262). -/
theorem drainEvents_one {v : Machine.Seq} {rec : EventRec} (queue : v.events = [rec])
    (window : v.recordWin (BitVec.ofNat 3 (v.evwin.toNat % 8)) = true) (room : v.roomFor (BitVec.ofNat 3 (v.evwin.toNat % 8)) 1 = true) (n : Nat) :
    v.drainEvents (n + 1) = { v with events := [], lost := 0 }.appendElem (BitVec.ofNat 3 (v.evwin.toNat % 8))
      (rec.set 1 (rec[1] ||| BitVec.ofNat 64 (v.lost % 256 * 2 ^ 52))).toList := by
  rw [Seq.drainEvents]
  simp only [queue, evwin_low, window, room, Bool.and_self, if_true]
  exact drainEvents_empty (appendElem_events ..) n

/-- Settles O39: each event is one case of its rule; a record that goes on into the window leaves the queue empty. -/
theorem arrivalsAtASequencer : Obligations.ArrivalsAtASequencer := by
  intro s q v
  have hv : s.seq q = v := rfl
  clear_value v
  have goesOn (thawed : v.frozen = false) (region : v.region.isSome = true) : v.rests = false := by
    rw [Seq.rests, thawed, ← Option.not_isSome, region]
    rfl
  refine ⟨fun i id vals a rest arrived awaits same noTake noBlock => ?_, fun f rest arrived thawed region => ?_,
    fun rec rest thawed region arrived noWindow => ?_, fun rec => ?_, fun i t there => ⟨fun first untouched unused vals s' takes => ?_,
      fun earlier => ?_⟩,
    fun noRegion => ?_⟩
  · have awaited : v.awaits.find? (fun x => x.id == id) = some a := by
      rw [awaits, List.find?_cons_of_pos (by simp [same])]
    have due : s.replyDue q a = true := by simp [State.replyDue, hv, awaits]
    show execReplyResult q i s = _
    simp only [execReplyResult, hv, arrived, awaited, due, if_true, Seq.writeReply, noBlock, Option.map_none, noTake, same, Bool.false_eq_true,
      false_and, if_false]
  · intro es room noEdge
    have goes : (v.rests || !fillDue (f :: rest) 0 || !v.roomFor f.win (f.elems (mdElem (v.desc f.win))).length) = false := by
      rw [goesOn thawed region, room]
      rfl
    have ends (t : State) : t.fillEnds f.source = t := by
      unfold State.fillEnds
      split
      · exact absurd ‹_› (noEdge _ _)
      · rfl
    show execSeqWindowFill q 0 s = _
    simp only [execSeqWindowFill, hv, goes, arrived, List.getElem?_cons_zero, Bool.false_eq_true, if_false, ends]
    rfl
  · show execEventRecordDeliver q s = _
    simp only [execEventRecordDeliver, hv, drainEvents_noWindow noWindow, goesOn thawed region, Bool.false_eq_true, if_false, arrived]
    by_cases room : v.events.length < 64
    · rw [if_pos room, drainEvents_noWindow]
      exact noWindow
    · rw [if_neg room, drainEvents_noWindow]
      exact noWindow
  · intro m thawed region queue arrived window room
    show execEventRecordDeliver q s = _
    simp only [execEventRecordDeliver, hv, drainEvents_empty queue, goesOn thawed region, Bool.false_eq_true, if_false, arrived, queue]
    exact congrArg (fun u => Host.Outcome.next (s.setSeq q u))
      (drainEvents_one (v := { v with arrivedRecords := [], events := [rec] }) rfl window room 63)
  · have firstOf : (v.arrivedTakes.take i).any (fun u => u.win == t.win) = false := by
      simpa using first
    have apart : (v.suspended ++ v.outbox).any (effectTouches q t.win) = false := by
      rw [List.any_eq_false]
      exact fun e he => by rw [untouched e he]; exact Bool.false_ne_true
    show execStealApply q i s = _
    simp only [execStealApply, hv, there, takes, firstOf, apart, Bool.or_self, Bool.false_or]
    cases hb : v.blk with
    | none => rfl
    | some b =>
      have none_ : b.words.any (wordTouches t.win) = false := by
        rw [List.any_eq_false]
        exact fun w hw => by rw [unused b hb w hw]; exact Bool.false_ne_true
      simp only [none_, Bool.false_eq_true, if_false]
  · have stays : (v.arrivedTakes.take i).any (fun u => u.win == t.win) = true := by
      simpa using earlier
    show execStealApply q i s = _
    simp only [execStealApply, hv, there, stays, Bool.true_or, if_true]
  · have rests : v.rests = true := by
      rw [Seq.rests, noRegion]
      simp
    refine ⟨fun k => ?_, ?_⟩
    · show execSeqWindowFill q k s = _
      simp only [execSeqWindowFill, hv]
      split
      · rfl
      · rw [rests]
        rfl
    · show execEventRecordDeliver q s = _
      simp only [execEventRecordDeliver, hv, drainEvents_rests, rests, if_true]

end Sys2Proof.Claims
end

section
/-! PROOFS. The commit of a block sends its effects (08 R183, R198, R209, R210, R213). -/

namespace Sys2Proof.Claims

open Sys2Proof.Machine

/-! ## Effects of a sequencer in order -/

section
variable {s s' : State} {q : Nat} {before kept rest : List Queued} {e : Queued}

/-- An effect that may go is sent. -/
theorem sendEach_goes (go : s.mayGo q (before ++ kept) e = true) (sends : s.sendEffect q e = some s') :
    s.sendEach q before kept (e :: rest) = s'.sendEach q before kept rest := by
  simp only [State.sendEach, go, if_true, sends]

/-- One that may not go stays. -/
theorem sendEach_stays (stays : s.mayGo q (before ++ kept) e = false) :
    s.sendEach q before kept (e :: rest) = s.sendEach q before (kept ++ [e]) rest := by
  simp only [State.sendEach, stays, Bool.false_eq_true, if_false]

@[simp] theorem sendEach_nil : s.sendEach q before kept [] = (kept, s) := rfl

end

/-- A sequencer that has nothing to send, in a region that lets it send. -/
structure SendsNothing (s : State) (q : Nat) : Prop where
  sent : (s.seq q).outbox = []
  suspended : (s.seq q).suspended = []
  flows : ∀ r, s.regionOfSeq q = some r → r.freezing = false

theorem seqFreezing_of_flows {s : State} {q : Nat} (h : ∀ r, s.regionOfSeq q = some r → r.freezing = false) : s.seqFreezing q = false := by
  unfold State.seqFreezing
  split
  · exact h _ ‹_›
  · rfl

theorem SendsNothing.sendEffects {s : State} {q : Nat} (h : SendsNothing s q) : s.sendEffects q = s.setSeq q (s.seq q) := by
  obtain ⟨sent, suspended, flows⟩ := h
  have same : { s.seq q with suspended := [], outbox := [] } = s.seq q :=
    calc { s.seq q with suspended := [], outbox := [] }
      _ = { s.seq q with suspended := (s.seq q).suspended, outbox := (s.seq q).outbox } := by rw [sent, suspended]
      _ = s.seq q := rfl
  simp only [State.sendEffects, seqFreezing_of_flows flows, Bool.false_eq_true, if_false, sent, suspended, sendEach_nil, State.seq_setSeq,
    State.setSeq_setSeq, List.filter_nil]
  exact congrArg (s.setSeq q) same

/-- The effects of a block that has just committed go out, behind nothing else (R183). -/
theorem sendEffects_of_commit {s0 s' : State} {q : Nat} {v : Machine.Seq} {kept : List Queued} (suspended : v.suspended = [])
    (flows : ∀ r, (s0.setSeq q v).regionOfSeq q = some r → r.freezing = false)
    (sends : (s0.setSeq q v).sendEach q [] [] v.outbox = (kept, s')) :
    (s0.setSeq q v).sendEffects q = s'.setSeq q { s'.seq q with outbox := kept } := by
  have same : { v with suspended := [] } = v :=
    by rw [← suspended]
  simp only [State.sendEffects, seqFreezing_of_flows flows, Bool.false_eq_true, if_false, State.seq_setSeq, suspended, sendEach_nil,
    State.setSeq_setSeq, List.filter_nil, same, sends]

/-! ## A block that commits -/

section
variable {s : State} {q : Nat} {b : Block} {effects : List Queued}

theorem BlockDone.sendsNothing (h : BlockDone s q b effects) : SendsNothing s q := ⟨h.sent, h.suspended, h.flows⟩

/-- The state in which the effects of the block go out. -/
def afterCommit (s : State) (q : Nat) (b : Block) : State := (oneId s).setSeq q ((s.seq q).commit b s.nextId)

/-- The closing word of a block, as the last thing that it commits (R184). -/
def closing (s : State) (q : Nat) (b : Block) : Queued :=
  ⟨s.nextId, (s.seq q).blocks.toNat, .close b.closing (b.successor (s.seq q).pc), []⟩

/-- A sequencer that has committed a block, with the effects of it that wait. -/
def afterBlock (s : State) (q : Nat) (b : Block) (outbox : List Queued) : Machine.Seq :=
  { committed (s.seq q) b with outbox := outbox, items := newItems b.effects, awaits := (s.seq q).awaits ++ newAwaits b.effects }

theorem BlockDone.commit_eq (h : BlockDone s q b effects) :
    (s.seq q).commit b s.nextId = afterBlock s q b (effects ++ [closing s q b]) := by
  rw [Seq.commit, h.sent, h.free, h.effects, afterBlock, h.effects]
  rfl

/-- Where its first effect need not wait, a block that has issued all its words commits, and its effects go out. -/
theorem BlockDone.commits (h : BlockDone s q b effects) {kept : List Queued} {s' : State}
    (goes : (s.setSeq q (s.seq q)).commitWaits q b = false)
    (sends : (afterCommit s q b).sendEach q [] [] (effects ++ [closing s q b]) = (kept, s')) :
    exec (.blockCommit q) s = .next (s'.setSeq q { s'.seq q with outbox := kept }) := by
  have done : ¬ (b.idx ≠ b.words.length ∨ (s.seq q).doubleTrapped = true) := by simp [h.last, h.runs]
  show execBlockCommit q s = _
  simp only [execBlockCommit, h.sendsNothing.sendEffects, State.seq_setSeq, h.block, if_neg done, goes, Bool.false_eq_true, if_false]
  have same : (s.setSeq q (s.seq q)).fresh.2.setSeq q ((s.seq q).commit b (s.setSeq q (s.seq q)).fresh.1) = afterCommit s q b :=
    State.setSeq_setSeq (oneId s) q (s.seq q) _
  have flows : ∀ r, ((oneId s).setSeq q ((s.seq q).commit b s.nextId)).regionOfSeq q = some r → r.freezing = false := by
    intro r hr
    rw [State.regionOfSeq, State.seq_setSeq] at hr
    exact h.flows r hr
  have outbox : ((s.seq q).commit b s.nextId).outbox = effects ++ [closing s q b] := by
    rw [h.commit_eq]
    rfl
  rw [same, afterCommit, sendEffects_of_commit (v := (s.seq q).commit b s.nextId) h.suspended flows (outbox ▸ sends)]

/-- Where it must wait, so does the block, and none of it acts (R209, R213). -/
theorem waits_of_commitWaits (block : (s.seq q).blk = some b) (last : b.idx = b.words.length) (runs : (s.seq q).doubleTrapped = false)
    (nothing : SendsNothing s q) (waits : (s.setSeq q (s.seq q)).commitWaits q b = true) :
    exec (.blockCommit q) s = .next (s.setSeq q { s.seq q with blk := some { b with waiting := true } }) := by
  have done : ¬ (b.idx ≠ b.words.length ∨ (s.seq q).doubleTrapped = true) := by simp [last, runs]
  show execBlockCommit q s = _
  simp only [execBlockCommit, nothing.sendEffects, State.seq_setSeq, block, if_neg done, waits, if_true, State.setSeq_setSeq]

/-- The closing word goes, behind no fence and no effect on the sequencer's own windows. -/
theorem sendEach_closing (t : State) {kept : List Queued} (noFence : kept.any isFence = false)
    (noLocal : kept.any (fun k => isLocal q k && !isTake k.eff) = false) :
    t.sendEach q [] kept [closing s q b] = (kept, t.closeBlock q b.closing (b.successor (s.seq q).pc)) := by
  have goes : t.mayGo q ([] ++ kept) (closing s q b) = true := by
    simp only [List.nil_append, State.mayGo, noFence, closing, noLocal]
    rfl
  rw [sendEach_goes goes rfl]
  rfl

theorem closeBlock_none (t : State) (q : Nat) (next : BitVec 56) : t.closeBlock q none next = t.setSeq q { t.seq q with pc := next } := rfl

theorem successor_eq (v : Machine.Seq) (b : Block) : b.successor v.pc = successor v b := by
  rw [Block.successor, successor]
  rw [BitVec.add_assoc]
  congr 2
  apply BitVec.eq_of_toNat_eq
  simp

end

/-! ## What lets an effect go (R209, R210) -/

/-- No acquire holds an effect where none is outstanding that is earlier (R210). -/
theorem acquireHolds_eq_false {v : Machine.Seq} {e : Queued} (taken : ∀ a ∈ v.awaits, a.isTake = false)
    (free : ∀ a, Outstanding.access a ∈ v.items → a.aq = false ∨ ¬ a.id < e.id) : v.acquireHolds e = false := by
  rw [Seq.acquireHolds, Bool.or_eq_false_iff, List.any_eq_false, List.any_eq_false]
  refine ⟨fun i hi => ?_, fun a ha => by rw [taken a ha]; exact Bool.false_ne_true⟩
  cases i with
  | access a =>
    rcases free a hi with plain | later
    · simp [plain]
    · simp [later]
  | coreCmd c => exact Bool.false_ne_true

section
variable {s : State} {q : Nat} {b : Block} {effects : List Queued}

/-- A block without takes awaits none. -/
theorem BlockDone.taken_after (h : BlockDone s q b effects) (noTake : ∀ e ∈ effects, isTake e.eff = false) (l : List Queued) :
    ∀ a ∈ (afterBlock s q b l).awaits, a.isTake = false := by
  intro a ha
  rcases List.mem_append.1 ha with old | new
  · exact h.taken a old
  · obtain ⟨e, he, rfl⟩ := List.mem_map.1 new
    exact noTake e (h.effects ▸ (List.mem_filter.1 he).1)

end

/-! ## Effects on the sequencer itself -/

/-- What an effect of its own changes of a sequencer: all but what it has to commit, and what it waits for. -/
def pendingAs (v : Machine.Seq) (outbox : List Queued) (items : List Outstanding) (awaits : List Await) : Machine.Seq :=
  { v with outbox := outbox, items := items, awaits := awaits }

section
variable (v : Machine.Seq) (outbox : List Queued) (items : List Outstanding) (awaits : List Await)

theorem storeWords_pendingAs (a : Nat) (l : List Word) :
    (pendingAs v outbox items awaits).storeWords a l = pendingAs (v.storeWords a l) outbox items awaits := by
  induction l generalizing v a with
  | nil => rfl
  | cons x xs ih => exact ih (v.storeLocal a x) (a + 1)

theorem applyOwn_pendingAs (x : Effect) : (pendingAs v outbox items awaits).applyOwn x = pendingAs (v.applyOwn x) outbox items awaits := by
  cases x with
  | csrWrite n x =>
    show (pendingAs v outbox items awaits).writeCsr n.toNat x = pendingAs (v.writeCsr n.toNat x) outbox items awaits
    simp only [Seq.writeCsr, Seq.writeMdesc, apply_ite (pendingAs · outbox items awaits)]
    rfl
  | widWrite f x =>
    show (pendingAs v outbox items awaits).setWid f.toNat x = pendingAs (v.setWid f.toNat x) outbox items awaits
    simp only [Seq.setWid, apply_ite (pendingAs · outbox items awaits)]
    rfl
  | winFill m e =>
    show (pendingAs v outbox items awaits).appendElem m e = pendingAs (v.appendElem m e) outbox items awaits
    have stored : (pendingAs v outbox items awaits).storeWords ((pendingAs v outbox items awaits).elemAddr m
        ((pendingAs v outbox items awaits).win m).filled) e
      = pendingAs (v.storeWords (v.elemAddr m (v.win m).filled) e) outbox items awaits := storeWords_pendingAs ..
    simp only [Seq.appendElem, apply_ite (pendingAs · outbox items awaits), stored]
    rfl
  | winWrite m off e => exact storeWords_pendingAs ..
  | _ => rfl

end

/-- The effects of words on the sequencer's own CSRs, work ID and windows. -/
def ownEffect : Effect → Bool
  | .csrWrite _ _ => true
  | .widWrite _ _ => true
  | .winFill _ _ => true
  | _ => false

section
variable {s : State} {q : Nat} {b : Block}

theorem ownEffect_cases {t : State} {e : Queued} (own : ownEffect e.eff = true) :
    isTake e.eff = false ∧ isRelease e = false ∧ e.item = none ∧ t.sendEffect q e = some (t.setSeq q ((t.seq q).applyOwn e.eff))
      ∧ ((t.seq q).acquireHolds e = false → t.mayGo q [] e = true) := by
  obtain ⟨id, tag, x, regs⟩ := e
  cases x
  case csrWrite | widWrite | winFill =>
    exact ⟨rfl, rfl, rfl, rfl, fun free => by simp [State.mayGo, free]⟩
  all_goals cases own

theorem seq_afterCommit {effects : List Queued} (h : BlockDone s q b effects) :
    (afterCommit s q b).seq q = afterBlock s q b (effects ++ [closing s q b]) := by
  rw [afterCommit, State.seq_setSeq, h.commit_eq]

/-- The sequencer as its block leaves it, where the block has sent no item and awaits no reply. -/
theorem afterBlock_eq {effects l : List Queued} (h : BlockDone s q b effects) (noItem : newItems effects = []) (noAwait : newAwaits effects = []) :
    afterBlock s q b l = pendingAs (committed (s.seq q) b) l [] (s.seq q).awaits := by
  rw [afterBlock, h.effects, noItem, noAwait, List.append_nil]
  rfl

/-- The same sequencer with nothing pending is the one that has committed. -/
theorem pendingAs_committed {effects : List Queued} (h : BlockDone s q b effects) :
    pendingAs (committed (s.seq q) b) [] [] (s.seq q).awaits = committed (s.seq q) b := by
  have same : pendingAs (committed (s.seq q) b) (s.seq q).outbox (s.seq q).items (s.seq q).awaits = committed (s.seq q) b := rfl
  rwa [h.sent, h.free] at same

/-- Such an effect acts at once, and so does the block's end (R183). -/
theorem BlockDone.commits_own {x : Effect} {id tag : Nat} (own : ownEffect x = true) (h : BlockDone s q b [⟨id, tag, x, []⟩])
    (natural : b.closing = none) :
    exec (.blockCommit q) s = .next ((oneId s).setSeq q { (committed (s.seq q) b).applyOwn x with pc := successor (s.seq q) b }) := by
  obtain ⟨noTake, noRelease, noItem, sends, goes⟩ := ownEffect_cases (q := q) (t := afterCommit s q b) (e := ⟨id, tag, x, []⟩) own
  have before := seq_afterCommit h
  have free : ((afterCommit s q b).seq q).acquireHolds ⟨id, tag, x, []⟩ = false := by
    rw [before]
    refine acquireHolds_eq_false (h.taken_after (by simpa using noTake) _) fun a ha => ?_
    simp [afterBlock, h.effects, newItems, noItem] at ha
  have commitGoes : (s.setSeq q (s.seq q)).commitWaits q b = false := by
    rw [State.commitWaits, h.effects]
    simp only [noRelease, Bool.false_and]
  have sent := h.commits commitGoes ((sendEach_goes (goes free) sends).trans (sendEach_closing _ rfl rfl))
  rw [natural, closeBlock_none, State.setSeq_setSeq, State.seq_setSeq, State.seq_setSeq, State.setSeq_setSeq, before,
    afterBlock_eq h (by simp [newItems, noItem]) rfl, applyOwn_pendingAs, successor_eq] at sent
  have after : pendingAs ((committed (s.seq q) b).applyOwn x) [] [] (s.seq q).awaits = (committed (s.seq q) b).applyOwn x := by
    rw [← applyOwn_pendingAs, pendingAs_committed h]
  rw [sent, afterCommit, State.setSeq_setSeq]
  exact congrArg (fun v : Machine.Seq => Host.Outcome.next ((oneId s).setSeq q { v with pc := successor (s.seq q) b })) after

end

/-! ## Accesses -/

/-- An access outside every published buffer goes where its address has been translated to (R213). -/
theorem aim_eq_self {s : State} {a : Access} (outside : ∀ b ∈ s.fabric.bufs, b.bound = true → b.inVisible a.va = false) : s.aim a = (a, s) := by
  unfold State.aim
  split
  · rfl
  · rw [if_neg]
    rw [List.any_eq_true]
    rintro ⟨b, there, inside⟩
    rw [Bool.and_eq_true, Bool.and_eq_true] at inside
    obtain ⟨⟨bound, -⟩, inside⟩ := inside
    rw [outside b there bound] at inside
    cases inside

section
variable {s : State} {q : Nat} {b : Block}

/-- An access outside the published buffers goes, where no acquire holds it and, for one with RL, no earlier access is outstanding (R183, R210). -/
theorem sendEach_access {t : State} {a : Access} {id tag : Nat} {regs : List Reg} {rest : List Queued}
    (outside : ∀ b ∈ t.fabric.bufs, b.bound = true → b.inVisible a.va = false) (free : (t.seq q).acquireHolds ⟨id, tag, .access a, regs⟩ = false)
    (relaxed : a.rl = false ∨ (t.seq q).earlierAccess id = false) :
    t.sendEach q [] [] (⟨id, tag, .access a, regs⟩ :: rest) =
      (t.send .req (.seq q) (accessUnit a.place) (.access a)).sendEach q [] [] rest := by
  have goes : t.mayGo q ([] ++ []) ⟨id, tag, .access a, regs⟩ = true := by
    rcases relaxed with plain | none_
    · simp [State.mayGo, free, plain]
    · simp [State.mayGo, free, none_]
  exact sendEach_goes goes (by simp only [State.sendEffect, aim_eq_self outside])

/-- The block whose effects have gone out, but for those that wait: its last effect is its end. -/
theorem sent_of_commit {t t' : State} {kept : List Queued} (run : exec (.blockCommit q) s = .next (t'.setSeq q { t'.seq q with outbox := kept }))
    (ends : t' = t.closeBlock q none (b.successor (s.seq q).pc)) :
    ∃ u, exec (.blockCommit q) s = .next u ∧ u.net = t.net ∧ u.fabric = t.fabric
      ∧ u.seq q = { t.seq q with pc := successor (s.seq q) b, outbox := kept } := by
  subst ends
  refine ⟨_, run, rfl, rfl, ?_⟩
  rw [closeBlock_none, State.seq_setSeq, State.seq_setSeq, successor_eq]

theorem commitGoes_of_notRelease {e : Queued} {rest : List Queued} (h : BlockDone s q b (e :: rest)) (notRelease : isRelease e = false) :
    (s.setSeq q (s.seq q)).commitWaits q b = false := by
  rw [State.commitWaits, h.effects]
  simp only [notRelease, Bool.false_and]

/-- The items of a sequencer after its block: those of the block (R198). -/
theorem items_afterBlock {effects : List Queued} (h : BlockDone s q b effects) (l : List Queued) :
    (afterBlock s q b l).items = newItems effects := by rw [afterBlock, h.effects]

end

/-- An access is outstanding from the commit of its block until it performs (R183, R198). -/
theorem access_goes {s : State} {q : Nat} {b : Block} {a : Access} {id tag : Nat} {regs : List Reg}
    (h : BlockDone s q b [⟨id, tag, .access a, regs⟩]) (natural : b.closing = none) (plain : plainAccess s a) :
    ∃ t, exec (.blockCommit q) s = .next t ∧ (t.seq q).items = [.access a] ∧ t.net = s.net ++ [accessPacket q a]
      ∧ (t.seq q).pc = successor (s.seq q) b ∧ (t.seq q).regs = b.regs := by
  obtain ⟨noAcquire, noRelease, outside⟩ := plain
  have before := seq_afterCommit h
  have free : ((afterCommit s q b).seq q).acquireHolds ⟨id, tag, .access a, regs⟩ = false := by
    rw [before]
    refine acquireHolds_eq_false (h.taken_after (by simp [isTake]) _) fun a' ha => .inl ?_
    rw [items_afterBlock h] at ha
    obtain rfl : a' = a := by simpa [newItems, Queued.item] using ha
    exact noAcquire
  have sends := (sendEach_access (rest := [closing s q b]) (t := afterCommit s q b) outside free (.inl noRelease)).trans (sendEach_closing _ rfl rfl)
  rw [natural] at sends
  obtain ⟨u, run, net, -, core⟩ := sent_of_commit (h.commits (commitGoes_of_notRelease h rfl) sends) rfl
  refine ⟨u, run, ?_, net, ?_, ?_⟩
  all_goals rw [core]
  · show ((afterCommit s q b).seq q).items = _
    rw [before, items_afterBlock h]
    rfl
  · show ((afterCommit s q b).seq q).regs = _
    rw [before]
    rfl

/-! ## Order, fences and `publish` -/

section
variable {s : State} {q : Nat} {b : Block} {a c : Access} {i j k scope tag : Nat} {regs regs' : List Reg}

/-- No acquire of a block holds its accesses where it has none (R210). -/
theorem BlockDone.unheld {effects l : List Queued} {e : Queued} (h : BlockDone s q b effects) (noTake : ∀ e ∈ effects, isTake e.eff = false)
    (items : ∀ x, Outstanding.access x ∈ newItems effects → x.aq = false ∨ ¬ x.id < e.id) : (afterBlock s q b l).acquireHolds e = false :=
  acquireHolds_eq_false (h.taken_after noTake l) fun x hx => items x (by rwa [items_afterBlock h] at hx)

/-- Two accesses of a block go out in program order; one with RL waits for the first (R183, R210). -/
theorem accesses_go (h : BlockDone s q b [⟨i, tag, .access a, regs⟩, ⟨j, tag, .access c, regs'⟩]) (natural : b.closing = none)
    (plain : plainAccess s a) (order : i < j) (ha : a.id = i) (hc : c.id = j)
    (outside : ∀ b' ∈ s.fabric.bufs, b'.bound = true → b'.inVisible c.va = false) :
    (c.rl = false → ∃ t, exec (.blockCommit q) s = .next t ∧ t.net = s.net ++ [accessPacket q a, accessPacket q c] ∧ (t.seq q).outbox = [])
    ∧ (c.rl = true → ∃ t, exec (.blockCommit q) s = .next t ∧ t.net = s.net ++ [accessPacket q a]
        ∧ (t.seq q).outbox = [⟨j, tag, .access c, regs'⟩]) := by
  obtain ⟨noAcquire, noRelease, outsideA⟩ := plain
  have before := seq_afterCommit h
  have itemsOf (x : Access) (hx : Outstanding.access x ∈ newItems [⟨i, tag, .access a, regs⟩, ⟨j, tag, .access c, regs'⟩]) : x = a ∨ x = c := by
    simpa [newItems, Queued.item] using hx
  have freeA : ((afterCommit s q b).seq q).acquireHolds ⟨i, tag, .access a, regs⟩ = false := by
    rw [before]
    refine h.unheld (by simp [isTake]) fun x hx => ?_
    rcases itemsOf x hx with rfl | rfl
    · exact .inl noAcquire
    · exact .inr (by simp only [hc]; omega)
  have freeC : ((afterCommit s q b).seq q).acquireHolds ⟨j, tag, .access c, regs'⟩ = false := by
    rw [before]
    refine h.unheld (by simp [isTake]) fun x hx => ?_
    rcases itemsOf x hx with rfl | rfl
    · exact .inl noAcquire
    · exact .inr (by simp only [hc]; omega)
  have first := sendEach_access (rest := [⟨j, tag, .access c, regs'⟩, closing s q b]) (t := afterCommit s q b) outsideA freeA (.inl noRelease)
  refine ⟨fun relaxed => ?_, fun release => ?_⟩
  · have second := sendEach_access (rest := [closing s q b]) (t := (afterCommit s q b).send .req (.seq q) (accessUnit a.place) (.access a))
        outside freeC
      (.inl relaxed)
    have sends := first.trans (second.trans (sendEach_closing _ rfl rfl))
    rw [natural] at sends
    obtain ⟨u, run, net, -, core⟩ := sent_of_commit (h.commits (commitGoes_of_notRelease h rfl) sends) rfl
    refine ⟨u, run, net.trans ?_, by rw [core]⟩
    exact List.append_assoc ..
  · have earlier : ((afterCommit s q b).seq q).earlierAccess j = true := by
      rw [before, Seq.earlierAccess, items_afterBlock h]
      simp [newItems, Queued.item, ha, order]
    have waits : ((afterCommit s q b).send .req (.seq q) (accessUnit a.place) (.access a)).mayGo q ([] ++ []) ⟨j, tag, .access c, regs'⟩ = false := by
      simp [State.mayGo, release, earlier]
    have sends := first.trans ((sendEach_stays waits).trans (sendEach_closing _ rfl rfl))
    rw [natural] at sends
    obtain ⟨u, run, net, -, core⟩ := sent_of_commit (h.commits (commitGoes_of_notRelease h rfl) sends) rfl
    exact ⟨u, run, net, by rw [core]; rfl⟩

/-- Behind a fence nothing goes before every earlier access has performed (R209). -/
theorem fence_holds_back (h : BlockDone s q b [⟨i, tag, .access a, regs⟩, ⟨k, tag, .fence scope, []⟩, ⟨j, tag, .access c, regs'⟩])
    (plain : plainAccess s a) (order : i < j) (behind : i < k) (ha : a.id = i) (hc : c.id = j) :
    ∃ t rest, exec (.blockCommit q) s = .next t ∧ t.net = s.net ++ [accessPacket q a]
      ∧ (t.seq q).outbox = ⟨k, tag, .fence scope, []⟩ :: ⟨j, tag, .access c, regs'⟩ :: rest ∧ (t.seq q).pc = (s.seq q).pc ∧ (t.seq q).regs = b.regs
      ∧ (t.seq q).settled = false := by
  obtain ⟨noAcquire, noRelease, outsideA⟩ := plain
  have before := seq_afterCommit h
  have freeA : ((afterCommit s q b).seq q).acquireHolds ⟨i, tag, .access a, regs⟩ = false := by
    rw [before]
    refine h.unheld (by simp [isTake]) fun x hx => ?_
    have which : x = a ∨ c = x := by simpa [newItems, Queued.item] using hx
    rcases which with rfl | rfl
    · exact .inl noAcquire
    · exact .inr (by simp only [hc]; omega)
  have first := sendEach_access (rest := [⟨k, tag, .fence scope, []⟩, ⟨j, tag, .access c, regs'⟩, closing s q b]) (t := afterCommit s q b)
      outsideA freeA
    (.inl noRelease)
  have outstanding : ((afterCommit s q b).seq q).noneBefore k = false := by
    rw [before, Seq.noneBefore, items_afterBlock h]
    simp [newItems, Queued.item, ha, behind]
  have fenceWaits : ((afterCommit s q b).send .req (.seq q) (accessUnit a.place) (.access a)).mayGo q ([] ++ [])
      ⟨k, tag, .fence scope, []⟩ = false := by
    simp [State.mayGo, outstanding]
  have sends := first.trans ((sendEach_stays fenceWaits).trans ((sendEach_stays rfl).trans ((sendEach_stays rfl).trans sendEach_nil)))
  have run := h.commits (commitGoes_of_notRelease h rfl) sends
  refine ⟨_, [closing s q b], run, rfl, ?_, ?_, ?_, ?_⟩
  all_goals rw [State.seq_setSeq]
  · rfl
  · show ((afterCommit s q b).seq q).pc = _
    rw [before]
    rfl
  · show ((afterCommit s q b).seq q).regs = _
    rw [before]
    rfl
  · rfl

end

/-! ## A fence that its block waits for -/

theorem any_sparseGet {α : Type} {p : α → Bool} {d : α} {m : List (Nat × α)} (none_ : (m.any fun x => p x.2) = false) (default : p d = false)
    (k : Nat) : p (sparseGet d m k) = false := by
  induction m with
  | nil => exact default
  | cons x t ih =>
    obtain ⟨j, w⟩ := x
    rw [List.any_cons, Bool.or_eq_false_iff] at none_
    obtain ⟨here, later⟩ := none_
    rw [sparseGet_cons]
    split
    · exact here
    · split
      · exact default
      · exact ih later

theorem any_sparsePut {α : Type} {p : α → Bool} {m : List (Nat × α)} {v : α} (none_ : (m.any fun x => p x.2) = false) (new : p v = false) (k : Nat) :
    ((sparsePut m k v).any fun x => p x.2) = false := by
  induction m with
  | nil => simp [sparsePut, new]
  | cons x t ih =>
    obtain ⟨j, w⟩ := x
    have both := none_
    rw [List.any_cons, Bool.or_eq_false_iff] at both
    obtain ⟨here, later⟩ := both
    rw [sparsePut]
    split
    · rw [List.any_cons, new, none_]
      rfl
    · split
      · rw [List.any_cons, new, later]
        rfl
      · rw [List.any_cons, here, ih later]
        rfl

/-- Commands that have not been applied are none the more for a change of a sequencer that leaves what has arrived there to be taken. -/
theorem commandsOf_setSeq {s : State} {p q : Nat} {v : Machine.Seq} {of : Nat → Bool} (same : v.arrivedTakes = (s.seq q).arrivedTakes)
    (none_ : s.commandsOf p of = false) : (s.setSeq q v).commandsOf p of = false := by
  rw [State.commandsOf, Bool.or_eq_false_iff] at none_ ⊢
  obtain ⟨elsewhere, arrived⟩ := none_
  refine ⟨elsewhere, ?_⟩
  refine any_sparsePut (p := fun v : Machine.Seq => v.arrivedTakes.any fun t => t.thief == p && of t.id) arrived ?_ q
  rw [same]
  exact any_sparseGet (p := fun v : Machine.Seq => v.arrivedTakes.any fun t => t.thief == p && of t.id) arrived rfl q

section
variable {s : State} {q : Nat} {b : Block}

/-- A fence goes, where nothing is outstanding (R209). -/
theorem mayGo_fence {t : State} {id tag scope : Nat} {regs : List Reg} (narrow : scope < 8) (items : (t.seq q).items = [])
    (applied : t.commandsOf q (fun x => decide (x < id)) = false) : t.mayGo q [] ⟨id, tag, .fence scope, regs⟩ = true := by
  simp [State.mayGo, Seq.noneBefore, items, applied, narrow]

/-- A block whose first effect is a fence waits while an earlier access is outstanding (R209, R216). -/
theorem fence_waits {i : Access} {id tag scope : Nat} {rest : List Queued} (block : (s.seq q).blk = some b) (last : b.idx = b.words.length)
    (runs : (s.seq q).doubleTrapped = false) (nothing : SendsNothing s q) (outstanding : Outstanding.access i ∈ (s.seq q).items) (earlier : i.id < id)
    (effects : b.effects = ⟨id, tag, .fence scope, []⟩ :: rest) :
    exec (.blockCommit q) s = .next (s.setSeq q { s.seq q with blk := some { b with waiting := true } }) := by
  have held : (s.seq q).noneBefore id = false := by
    rw [Seq.noneBefore, Bool.not_eq_false', List.any_eq_true]
    exact ⟨_, outstanding, decide_eq_true earlier⟩
  refine waits_of_commitWaits block last runs nothing ?_
  simp [State.commitWaits, effects, isRelease, State.mayGo, held]

/-- A fence with nothing before it lets its block commit (R209). -/
theorem fence_goes {id tag scope : Nat} (h : BlockDone s q b [⟨id, tag, .fence scope, []⟩]) (natural : b.closing = none) (narrow : scope < 8)
    (applied : s.commandsOf q (fun x => decide (x < id)) = false) :
    exec (.blockCommit q) s = .next ((oneId s).setSeq q { committed (s.seq q) b with pc := successor (s.seq q) b }) := by
  have before := seq_afterCommit h
  have goes : (s.setSeq q (s.seq q)).commitWaits q b = false := by
    have go : (s.setSeq q (s.seq q)).mayGo q [] ⟨id, tag, .fence scope, []⟩ = true :=
      mayGo_fence narrow (by rw [State.seq_setSeq, h.free]) (commandsOf_setSeq rfl applied)
    simp [State.commitWaits, h.effects, h.sent, h.suspended, go]
  have go : (afterCommit s q b).mayGo q ([] ++ []) ⟨id, tag, .fence scope, []⟩ = true :=
    mayGo_fence narrow (by rw [before, items_afterBlock h]; rfl) (commandsOf_setSeq (s := oneId s) rfl applied)
  have sent := h.commits goes ((sendEach_goes go rfl).trans (sendEach_closing _ rfl rfl))
  rw [natural, closeBlock_none, State.setSeq_setSeq, State.seq_setSeq, before, afterBlock_eq h rfl rfl, successor_eq] at sent
  rw [sent, afterCommit, State.setSeq_setSeq]
  exact congrArg (fun v : Machine.Seq => Host.Outcome.next ((oneId s).setSeq q { v with pc := successor (s.seq q) b })) (pendingAs_committed h)

end

/-! ## `publish` (R213) -/

theorem aim_fabric (s : State) (a : Access) : (s.aim a).2.fabric = s.fabric := by
  unfold State.aim
  split
  · rfl
  next cluster ctx _ =>
    have reads := (s.translate_reads cluster ctx a.va false none).fabric
    split
    · split
      all_goals
        next found => rwa [found] at reads
    · rfl

theorem aimPackets_fabric (s : State) (l : List Packet) : (s.aimPackets l).2.fabric = s.fabric := by
  induction l generalizing s with
  | nil => rfl
  | cons p l ih =>
    refine (ih _).trans ?_
    split
    · exact aim_fabric ..
    · rfl

theorem aimAccesses_fabric (s : State) (l : List Access) : (s.aimAccesses l).2.fabric = s.fabric := by
  induction l generalizing s with
  | nil => rfl
  | cons a l ih => exact (ih _).trans (aim_fabric s a)

theorem aimAll_fabric (s : State) : s.aimAll.fabric = s.fabric :=
  (aimAccesses_fabric ..).trans (aimPackets_fabric ..)

section
variable {s : State} {q : Nat} {b : Block} {va : Word} {id tag : Nat} {d : Reg}

theorem bufferAt_of_region {s t : State} {q : Nat} (region : t.regionOfSeq q = s.regionOfSeq q) (fabric : t.fabric = s.fabric) (va : Word) :
    t.bufferAt q va = s.bufferAt q va := by
  rw [State.bufferAt, State.bufferAt, region, fabric]

/-- `publish` goes, where nothing is outstanding and no engine writes into the shadow (R210, R213). -/
theorem mayGo_publish {t : State} (e : Queued) (publishes : e.eff = .publish va) (free : (t.seq q).acquireHolds e = false)
    (items : (t.seq q).items = []) : t.mayGo q [] e = (match t.bufferAt q va with | some b => !t.shadowBusy b | none => true) := by
  simp only [State.mayGo, publishes, free, Seq.earlierAccess, items]
  rfl

/-- Before its commit and after it the block finds the same buffer. -/
theorem BlockDone.publish_tests (h : BlockDone s q b [⟨id, tag, .publish va, [d]⟩]) :
    (s.setSeq q (s.seq q)).commitWaits q b = !(match s.bufferAt q va with | some b => !s.shadowBusy b | none => true)
    ∧ (afterCommit s q b).mayGo q ([] ++ []) ⟨id, tag, .publish va, [d]⟩ = (match s.bufferAt q va with | some b => !s.shadowBusy b | none => true)
    ∧ (afterCommit s q b).bufferAt q va = s.bufferAt q va := by
  have before := seq_afterCommit h
  have sameBuffer : (s.setSeq q (s.seq q)).bufferAt q va = s.bufferAt q va :=
    bufferAt_of_region (s := s) (t := s.setSeq q (s.seq q)) (by rw [State.regionOfSeq, State.seq_setSeq]; rfl) rfl va
  have sameAfter : (afterCommit s q b).bufferAt q va = s.bufferAt q va :=
    bufferAt_of_region (s := s) (t := afterCommit s q b) (by rw [State.regionOfSeq, before]; rfl) rfl va
  refine ⟨?_, ?_, sameAfter⟩
  · have goes := mayGo_publish (t := s.setSeq q (s.seq q)) (q := q) ⟨id, tag, .publish va, [d]⟩ rfl
      (by rw [State.seq_setSeq]; exact acquireHolds_eq_false h.taken (by simp [h.free])) (by rw [State.seq_setSeq, h.free])
    rw [sameBuffer] at goes
    rw [State.commitWaits, h.effects]
    simp only [State.seq_setSeq, h.suspended, h.sent, List.append_nil, isRelease, Bool.true_and]
    rw [goes]
    rfl
  · have goes := mayGo_publish (t := afterCommit s q b) (q := q) ⟨id, tag, .publish va, [d]⟩ rfl
      (by rw [before]; exact h.unheld (by simp [isTake]) (by simp [newItems, Queued.item])) (by rw [before, items_afterBlock h]; rfl)
    rw [sameAfter] at goes
    exact goes.trans rfl

end

/-- Settles O40: the effects of a block go out one after another, each where what stands before it lets it, and the block's end last. -/
theorem commitSendsEffects : Obligations.CommitSendsEffects := by
  refine ⟨⟨fun s q b a id tag regs h natural plain => access_goes h natural plain, fun s q b n x id tag h natural => h.commits_own rfl natural,
    fun s q b n x id tag h natural => h.commits_own rfl natural, fun s q b m es id tag h natural => h.commits_own rfl natural⟩, ?_, ⟨?_, ?_⟩, ?_⟩
  · intro s q b a c i j tag regs regs' natural plain order ha hc outside e f
    exact ⟨fun h => accesses_go h natural plain order ha hc outside, fun k scope behind h => fence_holds_back h plain order behind ha hc⟩
  · intro s q b scope id tag i rest block last runs sent suspended flows outstanding earlier effects
    exact fence_waits block last runs ⟨sent, suspended, flows⟩ outstanding earlier effects
  · intro s q b scope id tag h natural narrow applied
    exact fence_goes h natural narrow applied
  · intro s q b va id tag d h natural
    obtain ⟨waits, goes, same⟩ := h.publish_tests
    refine ⟨fun buf found => ⟨fun idle => ?_, fun busy => ?_⟩, fun missing => ?_⟩
    · simp only [found, idle] at waits goes
      have sends := (sendEach_goes goes (rest := [closing s q b]) rfl).trans (sendEach_closing _ rfl rfl)
      rw [natural] at sends
      obtain ⟨u, run, net, fabric, core⟩ := sent_of_commit (h.commits waits sends) rfl
      rw [State.publish, same, found] at net fabric
      refine ⟨u, run, ?_, ?_, by rw [core]⟩
      · rw [fabric]
        show (State.aimAll _).fabric.bufs = _
        rw [aimAll_fabric]
        rfl
      · rw [net]
        exact List.mem_append_right _ (List.mem_singleton_self _)
    · simp only [found, busy] at waits
      exact waits_of_commitWaits h.block h.last h.runs h.sendsNothing waits
    · simp only [missing] at waits goes
      have sends := (sendEach_goes goes (rest := [closing s q b]) rfl).trans (sendEach_closing _ rfl rfl)
      rw [natural] at sends
      obtain ⟨u, run, net, fabric, core⟩ := sent_of_commit (h.commits waits sends) rfl
      rw [State.publish, same, missing] at net fabric core
      refine ⟨u, run, fabric, ?_, net⟩
      rw [core]
      show (((afterCommit s q b).setSeq q _).seq q).swarn = _
      rw [State.seq_setSeq, seq_afterCommit h]
      rfl

end Sys2Proof.Claims
end

section
/-! PROOFS. Packets arrive, slices and homes apply accesses, walks fill TLBs, and pool changes retry (10 R298, R300; 15 R303 to R308;
16 R316, R317). -/

namespace Sys2Proof.Claims

open Sys2Proof.Machine

variable {s : State} {i : Nat} {a : Access}

/-! ## Packets (R298, R300) -/

theorem packetsArriveInOrder : PacketsArriveInOrder := by
  intro s i p there
  have before : (s.net.take i).any (fun r => r.cls == p.cls && r.src == p.src && r.dst == p.dst) = true
      ↔ ∃ r ∈ s.net.take i, r.cls = p.cls ∧ r.src = p.src ∧ r.dst = p.dst := by
    simp [and_assoc]
  refine ⟨fun first goes => ?_, fun earlier => ?_, fun stopped => ?_⟩
  all_goals
    show execDiePacketDeliver i s = _
    simp only [execDiePacketDeliver, there]
  · refine if_neg ?_
    rw [Bool.or_eq_true, before, List.any_eq_true]
    rintro (⟨l, dead, needs⟩ | ⟨r, hr, same⟩)
    · rw [goes l dead] at needs
      cases needs
    · exact first r hr same
  · exact if_pos (by rw [Bool.or_eq_true, before]; exact .inr earlier)
  · exact if_pos (by rw [Bool.or_eq_true, List.any_eq_true]; exact .inl stopped)

/-! ## Slice controllers and homes (R303, R304, R316) -/

/-- An access that another goes before is not the next (R303). -/
theorem nextAtSlice_none {j : Nat} {b : Access} (ha : s.atSlice[i]? = some a) (hb : s.atSlice[j]? = some b) (before : goesBefore b j a i = true) :
    s.nextAtSlice i = none := by
  have held : s.atSlice.zipIdx.any (fun (b, j) => goesBefore b j a i) = true :=
    List.any_eq_true.2 ⟨(b, j), List.mem_zipIdx_iff_getElem?.2 hb, before⟩
  simp only [State.nextAtSlice, ha]
  exact if_pos (.inr held)

section
variable {t t' : State} {pa v old : Nat}

theorem performAt_load (op : a.op = .load) (loads : t.loadFloor pa a.size = (some v, t')) : t.performAt a pa = .loaded v true t' := by
  simp only [State.performAt, op, loads]

theorem performAt_load_bad (op : a.op = .load) (loads : t.loadFloor pa a.size = (none, t')) : t.performAt a pa = .failed t' := by
  simp only [State.performAt, op, loads]

theorem performAt_store (op : a.op = .store) (stores : t.storeFloor pa a.data = some t') :
    t.performAt a pa = .done 0 (t'.tailStored pa a.data.length) := by
  simp only [State.performAt, op, stores]

theorem performAt_store_bad (op : a.op = .store) (stores : t.storeFloor pa a.data = none) : t.performAt a pa = .failed t := by
  simp only [State.performAt, op, stores]

theorem performAt_amo {kind : BitVec 6} (op : a.op = .amo kind) (loads : t.loadFloor pa a.size = (some old, t')) :
    t.performAt a pa =
      .done old ((t'.tailStored pa a.size).writeLE pa a.size (amoValue kind (8 * a.size) old (leValue a.data % 2 ^ (8 * a.size)))) := by
  simp only [State.performAt, op, loads, newValue]

theorem performAt_cas {expected : Word} (op : a.op = .cas expected) (loads : t.loadFloor pa a.size = (some old, t')) :
    t.performAt a pa = .done old (if old = expected.toNat % 2 ^ (8 * a.size)
      then (t'.tailStored pa a.size).writeLE pa a.size (leValue a.data % 2 ^ (8 * a.size)) else t'.tailStored pa a.size) := by
  simp only [State.performAt, op, loads, newValue]
  by_cases same : old = expected.toNat % 2 ^ (8 * a.size)
  · simp only [if_pos same]
  · simp only [if_neg same]

theorem performAt_rmw_bad (op : isReadModifyWrite a.op = true) (loads : t.loadFloor pa a.size = (none, t')) : t.performAt a pa = .failed t' := by
  cases kind : a.op with
  | amo k => simp only [State.performAt, kind, loads]
  | cas e => simp only [State.performAt, kind, loads]
  | _ => rw [kind] at op; cases op

end

theorem sliceApply_next {pa : Nat} {p : Performed} (next : s.nextAtSlice i = some a) (place : a.place = .floor pa)
    (performs : ({ s with atSlice := dropNth s.atSlice i } : State).performAt a pa = p) : exec (.sliceApply i) s = .next (p.settle a).2 := by
  show execSliceApply i s = _
  simp only [execSliceApply, next, place, performs]

theorem failed_settle_of_ne (t : State) (h : a.op ≠ .load) : ((Performed.failed t).settle a).2 = t.accessFailed a := if_neg h

theorem slicesApplyInOrder : SlicesApplyInOrder := by
  refine ⟨fun s i a pa next place => ?_, fun s i j a b ha hb meets apart first => ?_⟩
  · intro s0
    refine ⟨fun v s' op loads => sliceApply_next next place (performAt_load op loads), fun s' op loads => ?_,
      fun s' op stores => sliceApply_next next place (performAt_store op stores), fun op stores => ?_,
      fun kind old s' op loads => sliceApply_next next place (performAt_amo op loads), fun expected old s' op loads => ⟨fun same => ?_,
        fun differs => ?_⟩,
      fun q s' op source loads => ?_⟩
    · exact (sliceApply_next next place (performAt_load_bad op loads)).trans (congrArg _ (if_pos op))
    · exact (sliceApply_next next place (performAt_store_bad op stores)).trans (congrArg _ (failed_settle_of_ne _ (by rw [op]; decide)))
    · rw [sliceApply_next next place (performAt_cas op loads), if_pos same]
      rfl
    · rw [sliceApply_next next place (performAt_cas op loads), if_neg differs]
      rfl
    · have replies : a.op.replies = true ∧ a.op ≠ .load := by
        cases kind : a.op with
        | amo k => exact ⟨rfl, nofun⟩
        | cas e => exact ⟨rfl, nofun⟩
        | _ => rw [kind] at op; cases op
      rw [sliceApply_next next place (performAt_rmw_bad op loads), failed_settle_of_ne _ replies.2]
      simp only [State.accessFailed, source, replies.1, if_true]
      rfl
  · have arrived : arrivedBefore b j a i = true := by
      rcases first with earlier | ⟨same, lower⟩
      · simp [arrivedBefore, earlier]
      · simp [arrivedBefore, same, lower]
    have before : goesBefore b j a i = true := by
      rcases apart with whole | same
      · simp [goesBefore, meets, arrived, whole]
      · simp [goesBefore, meets, arrived, same]
    have none_ := nextAtSlice_none ha hb before
    constructor
    · show execSliceApply i s = _
      simp only [execSliceApply, none_]
    · show execVugHomeApply i s = _
      simp only [execVugHomeApply, none_]

/-! ## Loads and homes -/

theorem loadAnswersArrive : LoadAnswersArrive := by
  intro s p a g payload
  have receives : s.receive p = s.loadDone a g := by simp only [State.receive, payload]
  refine ⟨fun q b source block => ?_, fun n e source running => ?_⟩
  · rw [receives]
    simp only [State.loadDone, source, block]
  · intro sl
    rw [receives]
    have index : Fin.ofNat 4 e.val = e := Fin.ext (Nat.mod_eq_of_lt e.isLt)
    have goes : ¬ ((s.edgeSlot n e).state = .withholding ∧ g = .bad) := by rw [running]; exact fun h => nomatch h.1
    simp only [State.loadDone, source, index, if_neg goes]
    have idle (x : EdgeSlot) (runs : x.state = .running) : (s.setEdge n e x).edgeResume n e = s.setEdge n e x := by
      simp [State.edgeResume, runs]
    exact idle _ running

/-- The home answers what it has applied, or withholds it (R316, R317). -/
theorem vugHomeApply_next {record : Nat} {withheld : Bool} {t : State} (next : s.nextAtSlice i = some a) (place : a.place = .vug record)
    (free : ({ s with atSlice := dropNth s.atSlice i } : State).tileHeld record a.va = false)
    (settles : (({ s with atSlice := dropNth s.atSlice i } : State).applyVug a record).settle a = (withheld, t)) :
    exec (.vugHomeApply i) s = .next (if withheld then ({ t with withheld := t.withheld ++ [a] } : State).reportWithheld a else t) := by
  show execVugHomeApply i s = _
  simp only [execVugHomeApply, next, place, free, settles, Bool.false_eq_true, if_false]
  cases withheld <;> rfl

theorem homesApplyInOrder : HomesApplyInOrder := by
  intro s i a record next place s0
  refine ⟨fun free => ⟨fun old s' applies => ?_, fun v there s' applies => ?_, fun s' applies => ?_⟩, fun held => ?_⟩
  · exact vugHomeApply_next next place free (congrArg (Performed.settle a) applies)
  · exact vugHomeApply_next next place free (congrArg (Performed.settle a) applies)
  · exact vugHomeApply_next next place free (congrArg (Performed.settle a) applies)
  · show execVugHomeApply i s = _
    simp only [execVugHomeApply, next, place]
    exact if_pos held

theorem poolChangesRetry : PoolChangesRetry := by
  intro s d
  refine ⟨fun undue => ?_, fun due => ?_⟩
  · show execPoolChange d s = _
    simp only [execPoolChange, undue, Bool.false_eq_true, if_false]
  · intro s0
    have run : exec (.poolChange d) s = .next (s0.retryWithheld d [] [] s.withheld) := by
      show execPoolChange d s = _
      simp only [execPoolChange, due, if_true]
      rfl
    refine ⟨fun none_ => ?_, fun a rest record waiting place => ⟨fun old s' names applies => ?_, fun s' names applies => ?_, fun other => ?_⟩⟩
    · rw [run, none_]
      have same : { s0 with withheld := [] } = s0 := by rw [← show s0.withheld = [] from none_]
      exact congrArg _ same
    · rw [run, waiting]
      simp only [State.retryWithheld, List.any_nil, names, Bool.not_true, Bool.or_self, Bool.false_eq_true, if_false, place, List.nil_append]
      simp only [show State.applyVug _ _ _ = _ from applies]
      rfl
    · rw [run, waiting]
      simp only [State.retryWithheld, List.any_nil, names, Bool.not_true, Bool.or_self, Bool.false_eq_true, if_false, place, List.nil_append]
      simp only [show State.applyVug _ _ _ = _ from applies]
      rfl
    · rw [run, waiting]
      simp only [State.retryWithheld, List.any_nil, other, Bool.not_false, Bool.or_true, if_true, List.nil_append]

/-- A walk without a reader is one move (R298). -/
theorem walkPart_none (s : State) (die : Nat) (c : Ctx) (va : Nat) (es : List Nat) : s.walkPart die none c va es = none := by
  unfold State.walkPart
  split
  · cases ‹none = some _›
  · rfl

/-- Settles O41: each event is the one case of its rule that the hypotheses name. -/
theorem floorEventsAct : Obligations.FloorEventsAct := by
  refine ⟨packetsArriveInOrder, slicesApplyInOrder, loadAnswersArrive, homesApplyInOrder, poolChangesRetry,
    fun s cluster ctx va c missing missingDie found => ⟨fun t s' goes walks => ?_, fun stopped => ?_⟩⟩
  · show execPageWalkComplete cluster ctx va s = _
    simp only [execPageWalkComplete, State.translateTlb, missing, missingDie, found, State.walkRead, walkPart_none, goes, Bool.and_false,
      Bool.false_eq_true, if_false, walks]
    rfl
  · show execPageWalkComplete cluster ctx va s = _
    simp only [execPageWalkComplete, State.translateTlb, missing, missingDie, found, State.walkRead, walkPart_none, stopped, Bool.and_self, if_true]

end Sys2Proof.Claims
end

section
/-! PROOFS. Swaps, drains and relatches end (09 R232, R234, R238; 10 R265; 12 R251). -/

namespace Sys2Proof.Claims

open Sys2Proof.Machine

/-! ## Drains leave the regions -/

theorem dropTokens_regions (s : State) (n : Nat) (e : Fin 4) : (s.dropTokens n e).regions = s.regions := by
  unfold State.dropTokens
  rfl

theorem stopRun_regions (s : State) (n : Nat) (e : Fin 4) : (s.stopRun n e).regions = s.regions := by
  unfold State.stopRun
  dsimp only
  split
  · exact dropTokens_regions s n e
  · rfl

theorem drainSlot_regions (s : State) (n : Nat) (e : Fin 4) : (s.drainSlot n e).regions = s.regions := by
  unfold State.drainSlot
  dsimp only
  split
  · rfl
  split
  · split
    · exact stopRun_regions ..
    · rfl
  split
  · exact stopRun_regions ..
  · rfl

theorem drainWithheld_regions (s : State) (r : Region) : (s.drainWithheld r).regions = s.regions := by
  refine foldl_keeps State.regions (fun s n => foldl_keeps State.regions (fun s e => ?_) _ _) _ _
  split
  · exact drainSlot_regions ..
  · rfl

/-- A region that has been set is found under its number. -/
theorem region?_setRegion {s : State} {r r' : Region} (there : s.region? r.id = some r) (id : r'.id = r.id) (live : r'.live = true) :
    (s.setRegion r').region? r.id = some r' := by
  unfold State.region? at there
  show (s.regions.map fun x => if x.id = r'.id then r' else x).find? (fun x => x.id == r.id && x.live) = some r'
  generalize s.regions = l at there
  induction l with
  | nil => cases there
  | cons x l ih =>
    rw [List.map_cons]
    by_cases same : x.id = r.id
    · rw [if_pos (same.trans id.symm), List.find?_cons_of_pos (by simp [id, live])]
    · have other : ¬ (x.id == r.id && x.live) = true := by simp [same]
      have later := (List.find?_cons_of_neg (p := fun x : Region => x.id == r.id && x.live) other).symm.trans there
      rw [if_neg (fun h => same (h.trans id))]
      exact (List.find?_cons_of_neg (p := fun x : Region => x.id == r.id && x.live) other).trans (ih later)

theorem live_of_region? {s : State} {id : Nat} {r : Region} (there : s.region? id = some r) : r.live = true := by
  have test := List.find?_some there
  exact (Bool.and_eq_true_iff.1 test).2

/-- A token of a command is in a core or on its way to one (R251). -/
theorem tokenOut_iff (s : State) (id : Nat) : s.tokenOut id = true ↔
    (∃ x ∈ s.cores, ∃ y ∈ x.2.relatches, y.cmdId = id) ∨ ∃ p ∈ s.net, ∃ y, p.payload = .relatch y ∧ y.cmdId = id := by
  have carries (p : Packet) : (match p.payload with | .relatch x => x.cmdId == id | _ => false) = true ↔
      ∃ y, p.payload = .relatch y ∧ y.cmdId = id := by
    cases p.payload <;> simp
  have holds (x : Nat × Core) : (x.2.relatches.any fun y => y.cmdId == id) = true ↔ ∃ y ∈ x.2.relatches, y.cmdId = id := by simp
  rw [State.tokenOut, Bool.or_eq_true, List.any_eq_true, List.any_eq_true]
  exact or_congr (exists_congr fun x => and_congr_right fun _ => holds x) (exists_congr fun p => and_congr_right fun _ => carries p)

/-- Settles O42: each event is the one case of its rule that the hypotheses name; a drain's report leaves the regions but for its own. -/
theorem swapDrainAndRelatchEnd : Obligations.SwapDrainAndRelatchEnd := by
  refine ⟨fun s n w u runs places => ?_, fun s n r flips region => ?_, fun s r d there drains => ⟨fun still reports => ?_, ?_⟩,
    fun s n i t r token region landed => ?_⟩
  · show execSwapPlace n w s = _
    simp only [execSwapPlace, runs, places, Bool.false_eq_true, if_false]
  · intro s'
    have same : s'.regionOfCore n = some r := region
    have run : exec (.flip n) s = .next (if r.cores.all fun m => (s'.core m).flipped then s'.endSwap r else s') := by
      show execFlip n s = _
      simp only [execFlip, flips, Bool.not_true, Bool.false_eq_true, if_false]
      rw [show (s.setCore n ((s.core n).flip true)).regionOfCore n = some r from region]
    exact ⟨fun some_ => run.trans (congrArg _ (if_neg (by rw [some_]; exact Bool.false_ne_true))), fun all => run.trans (congrArg _ (if_pos all))⟩
  · have run : exec (.stillnessReport r.id) s = .next ((s.drainWithheld r).setRegion { r with drain := some { d with still := true } }) := by
      show execStillnessReport r.id s = _
      simp only [execStillnessReport, there, drains, still, reports, Bool.not_false, Bool.and_self, if_true]
    refine ⟨_, run, ?_⟩
    have kept : (s.drainWithheld r).region? r.id = some r := by rw [State.region?, drainWithheld_regions]; exact there
    have live : r.live = true := live_of_region? there
    rw [region?_setRegion (r' := { r with drain := some { d with still := true } }) kept rfl live]
    rfl
  · intro k c ps status s' still moves cmd image
    show execDrainComplete r.id s = _
    simp only [execDrainComplete, there, drains, still, moves, cmd, image, Bool.not_true, Bool.false_eq_true, if_false]
  · intro s' more
    have run : exec (.relatchToken n i) s = .next (if s'.tokenOut t.cmdId then s' else s'.finishId t.cmdId [0]) := by
      show execRelatchToken n i s = _
      simp only [execRelatchToken, token, region, landed, Bool.false_eq_true, if_false]
      exact (apply_ite Host.Outcome.next _ _ _).symm
    have out : s'.tokenOut t.cmdId = true ↔ more := tokenOut_iff s' t.cmdId
    exact ⟨fun h => run.trans (congrArg _ (if_pos (out.2 h))), fun h => run.trans (congrArg _ (if_neg fun o => h (out.1 o)))⟩

end Sys2Proof.Claims
end

section
/-! PROOFS. A core applies the stream commands (09 R225, R226; 12 R282). -/

namespace Sys2Proof.Claims

open Sys2Proof.Machine

variable {s : State} {k n : Nat} {c : Cmd} {e : BitVec 2}

/-! ## Answers -/

theorem dropNth_length {α : Type} (l : List α) {j : Nat} {x : α} (there : l[j]? = some x) : (dropNth l j).length < l.length := by
  induction l generalizing j with
  | nil => cases there
  | cons y l ih =>
    cases j with
    | zero => exact Nat.lt_succ_self _
    | succ j => exact Nat.succ_lt_succ (ih there)

/-- What a command's answer changes is not in a core. -/
theorem answered_core (s : State) (k n : Nat) (c : Cmd) (v : Word) : (answered s k c [v]).core n = s.core n := rfl

/-- A region that is neither freezing nor frozen lets its stream commands through (R269, R272). -/
theorem streamTakes_of_open (opens : ∀ r, s.regionOfCore n = some r → r.freezing = false ∧ r.frozen = false) : s.streamTakes n = true := by
  unfold State.streamTakes
  split
  · next r here =>
    obtain ⟨freezing, frozen⟩ := opens r here
    rw [freezing, frozen]
    rfl
  · rfl

/-- A stream command that is answered leaves its core active (R282). -/
theorem applyStream_answers (there : s.cmds[k]? = some c) (at_ : c.unit = .core n) (takes : s.streamTakes n = true) {slot : BitVec 2}
    {f : State → Nat → Fin 4 → Nat → Cmd → State} {t : State} {v : Word} (kept : t.cmds = s.cmds)
    (does : f s n slot.toFin k c = t.finishCmd k [v]) :
    s.applyStream slot f k c = answered (t.setCore n (active t (t.core n))) k c [v] := by
  have standing : t.cmds[k]? = some c := kept ▸ there
  have shorter : (answered t k c [v]).cmds.length < s.cmds.length := kept ▸ dropNth_length t.cmds standing
  simp only [State.applyStream, at_, takes, if_true, does, finishCmd_eq_answered standing]
  rw [if_pos shorter, answered_core]
  rfl

/-- A stream command that changes nothing waits. -/
theorem applyStream_waits (at_ : c.unit = .core n) {slot : BitVec 2} {f : State → Nat → Fin 4 → Nat → Cmd → State}
    (does : f s n slot.toFin k c = s) : s.applyStream slot f k c = s := by
  simp only [State.applyStream, at_, does, Nat.lt_irrefl, if_false, ite_self]

/-! ## The words, where their command stands at its core -/

theorem exec_sbind (h : CmdAt s k c (.core n)) (d a : Reg) (t : BitVec 9) (g : Pred) :
    exec (.sbind d a t e g) s = .next (s.applyStream e State.applySbind k c) := by
  show execSbind d a t e g s = _
  exact h.applies _ _

theorem exec_sgo (h : CmdAt s k c (.core n)) (d a : Reg) (t : BitVec 9) (g : Pred) :
    exec (.sgo d a t e g) s = .next (s.applyStream e State.applySgo k c) := by
  show execSgo d a t e g s = _
  exact h.applies _ _

theorem exec_sstop (h : CmdAt s k c (.core n)) (d a : Reg) (t : BitVec 9) (g : Pred) :
    exec (.sstop d a t e g) s = .next (s.applyStream e State.applySstop k c) := by
  show execSstop d a t e g s = _
  exact h.applies _ _

theorem exec_sbar (h : CmdAt s k c (.core n)) (d a : Reg) (t : BitVec 9) (g : Pred) :
    exec (.sbar d a t e g) s = .next (s.applyStream e State.applySbar k c) := by
  show execSbar d a t e g s = _
  exact h.applies _ _

/-! ## The states of a slot -/

theorem active_eq_false_of_bound {sl : EdgeSlot} (h : sl.state = .bound) : sl.active = false := by
  rw [EdgeSlot.active, h]
  rfl

theorem active_eq_false_of_idle {sl : EdgeSlot} (h : sl.state = .idle) : sl.active = false := by
  rw [EdgeSlot.active, h]
  rfl

theorem active_eq_false_of_faulted {sl : EdgeSlot} (h : sl.state = .faulted) : sl.active = false := by
  rw [EdgeSlot.active, h]
  rfl

theorem not_settled_of_bound {sl : EdgeSlot} (h : sl.state = .bound) : ¬(sl.state = .idle ∨ sl.state = .faulted) := by
  rw [h]
  rintro (idle | faulted)
  · cases idle
  · cases faulted

/-! ## `sbind` (R225) -/

theorem readFormat_reads (s : State) (ctx : Nat) (c : Cmd) (l : List Byte) : s.ReadsTo (s.readFormat ctx c l).2 := by
  unfold State.readFormat
  split
  · exact s.readForCmd_reads ..
  · rfl

theorem applySbind_reads {r : Region} {slot : Fin 4} {l fmt : List Byte} {s1 s2 : State} (here : s.regionOfCore n = some r)
    (still : (s.core n).edge[slot].active = false) (pattern : s.readForCmd c.seq r.ctx c (bv c.a 6 50 * 64) 64 = (.bytes l, s1))
    (format : s1.readFormat r.ctx c l = (.bytes fmt, s2)) : s.applySbind n slot k c = s2.bindSlot n slot k c l fmt := by
  have quiet : (s.edgeSlot n slot).active = false := still
  simp only [State.applySbind, here, quiet, if_neg Bool.false_ne_true, pattern, format]

/-- The graph of the slot is the low two bits of the command's first operand. -/
theorem graph_eq (a : Word) : BitVec.ofNat 2 (bv a 0 2) = BitVec.ofNat 2 a.toNat := by
  apply BitVec.eq_of_toNat_eq
  rw [bv_low, BitVec.toNat_ofNat, BitVec.toNat_ofNat, Nat.mod_mod]

theorem bindSlot_binds {slot : Fin 4} {l fmt : List Byte}
    (takes : (s.core n).refusesBind (boundSlot l fmt (BitVec.ofNat 2 c.a.toNat) c.seq) = false) :
    let bound := boundSlot l fmt (BitVec.ofNat 2 c.a.toNat) c.seq; let u := s.core n
    s.bindSlot n slot k c l fmt =
      (s.setCore n { u with edge := u.edge.set slot bound, ewarn := if bound.reservedSet then u.ewarn ||| ewRSVD else u.ewarn }).finishCmd k [0] := by
  simp only [State.bindSlot, graph_eq, takes, if_neg Bool.false_ne_true]
  rfl

theorem bindSlot_refuses {slot : Fin 4} {l fmt : List Byte}
    (refuses : (s.core n).refusesBind (boundSlot l fmt (BitVec.ofNat 2 c.a.toNat) c.seq) = true) :
    s.bindSlot n slot k c l fmt = s.finishCmd k [0x101] := by
  simp only [State.bindSlot, graph_eq, refuses, if_true]
  rfl

/-! ## `sgo` (R225) -/

theorem applySgo_starts {slot : Fin 4} (bound : (s.core n).edge[slot].state = .bound) (good : (s.core n).edge[slot].formatFault = false)
    (noSwap : ∀ r, s.regionOfCore n = some r → r.swap = none) :
    s.applySgo n slot k c =
      ((s.setEdge n slot ((s.core n).edge[slot].start false)).dropReaders (· == Reader.run n slot)).finishCmd k [0] := by
  have unswapped : (match s.regionOfCore n with | some r => r.swap.isSome && !(s.core n).flipped | none => false) = false := by
    split
    · next r here => rw [noSwap r here]; rfl
    · rfl
  unfold State.applySgo
  dsimp only
  rw [active_eq_false_of_bound bound, if_neg Bool.false_ne_true, if_neg (not_settled_of_bound bound), good, if_neg Bool.false_ne_true]
  exact congrArg (fun b => ((s.setEdge n slot ((s.core n).edge[slot].start b)).dropReaders (· == Reader.run n slot)).finishCmd k [0]) unswapped

theorem applySgo_faults {slot : Fin 4} (bound : (s.core n).edge[slot].state = .bound) (bad : (s.core n).edge[slot].formatFault = true) :
    let u := s.core n
    let sl : EdgeSlot := { u.edge[slot].start false with state := .faulted, runEnd := .faulted }
    s.applySgo n slot k c =
      (State.recordOfCore (s.setCore n { u with edge := u.edge.set slot sl, efault := efaultWith u.efault 1 slot }) n (.edge n slot)
        1 slot 0 0 0 0).finishCmd k [0] := by
  unfold State.applySgo
  dsimp only
  rw [active_eq_false_of_bound bound, if_neg Bool.false_ne_true, if_neg (not_settled_of_bound bound), bad, if_pos rfl]
  rfl

theorem applySgo_busy {slot : Fin 4} (runs : (s.core n).edge[slot].active = true) : s.applySgo n slot k c = s.finishCmd k [2] :=
  if_pos runs

theorem applySgo_refused {slot : Fin 4} (unbound : (s.core n).edge[slot].state = .idle ∨ (s.core n).edge[slot].state = .faulted) :
    s.applySgo n slot k c = s.finishCmd k [1] := by
  have still : (s.core n).edge[slot].active = false := unbound.elim active_eq_false_of_idle active_eq_false_of_faulted
  unfold State.applySgo
  dsimp only
  rw [still, if_neg Bool.false_ne_true, if_pos unbound]
  rfl

/-! ## What the answers leave of the commands -/

theorem recordOfCore_cmds (s : State) (n : Nat) (u : UnitId) (kind a b c d f : Nat) : (s.recordOfCore n u kind a b c d f).cmds = s.cmds := by
  unfold State.recordOfCore
  split <;> rfl

theorem stopRun_cmds (s : State) (n : Nat) (slot : Fin 4) : (s.stopRun n slot).cmds = s.cmds := by
  unfold State.stopRun
  dsimp only
  split
  · rfl
  · rfl

/-- Settles O14: each command is answered as its slot's state says, by `applyStream_answers`, or waits. -/
theorem streamCommandsAct : Obligations.StreamCommandsAct := by
  intro s k c n e at_ opens u sl ends
  have answers {f : State → Nat → Fin 4 → Nat → Cmd → State} {t : State} {v : Word} (kept : t.cmds = s.cmds)
      (does : f s n e.toFin k c = t.finishCmd k [v]) : Host.Outcome.next (s.applyStream e f k c) = ends t v :=
    congrArg _ (applyStream_answers at_.there at_.at_ (streamTakes_of_open opens) kept does)
  refine ⟨?bind, ?go, ?goFaults, ?stop, ?stopFaulted, ?stopIdle, ?bar, ?busy, ?goRefused⟩
  case bind =>
    intro d a t g r l s1 fmt s2 here still pattern format bound v
    have kept : s2.cmds = s.cmds := by
      have first := s.readForCmd_reads c.seq r.ctx c (bv c.a 6 50 * 64) 64
      have second := readFormat_reads s1 r.ctx c l
      rw [pattern] at first
      rw [format] at second
      exact (first.trans second).cmds
    have reads := applySbind_reads (k := k) here still pattern format
    exact ⟨fun takes => (exec_sbind at_ d a t g).trans (answers (by exact kept) (reads.trans (bindSlot_binds takes))),
      fun refuses => (exec_sbind at_ d a t g).trans (answers kept (reads.trans (bindSlot_refuses refuses)))⟩
  case go =>
    intro d a t g bound good noSwap
    exact (exec_sgo at_ d a t g).trans (answers rfl (applySgo_starts bound good noSwap))
  case goFaults =>
    intro d a t g bound bad t1
    exact (exec_sgo at_ d a t g).trans (answers (recordOfCore_cmds ..) (applySgo_faults bound bad))
  case stop =>
    intro d a t g runs
    exact (exec_sstop at_ d a t g).trans (answers (stopRun_cmds ..) (if_pos runs))
  case stopFaulted =>
    intro d a t g faulted
    have still : (s.edgeSlot n e.toFin).active = false := active_eq_false_of_faulted faulted
    refine (exec_sstop at_ d a t g).trans (answers (t := s.setEdge n e.toFin { sl with state := .bound }) rfl ?_)
    exact (if_neg (still ▸ Bool.false_ne_true)).trans (if_pos faulted)
  case stopIdle =>
    intro d a t g idle
    have still : (s.edgeSlot n e.toFin).active = false := idle.elim active_eq_false_of_bound active_eq_false_of_idle
    have fine : (s.edgeSlot n e.toFin).state ≠ .faulted := fun h => idle.elim (fun b => nomatch b.symm.trans h) (fun b => nomatch b.symm.trans h)
    refine (exec_sstop at_ d a t g).trans (answers rfl ?_)
    exact (if_neg (still ▸ Bool.false_ne_true)).trans (if_neg fine)
  case bar =>
    intro d a t g still
    refine (exec_sbar at_ d a t g).trans (answers rfl ((if_neg (still ▸ Bool.false_ne_true)).trans ?_))
    have status : statusWord sl.barStatus = (match sl.runEnd with | .never => 3 | .done => 0 | .stopped => 5 | .faulted => 4) := by
      unfold EdgeSlot.barStatus
      cases sl.runEnd <;> rfl
    exact congrArg (fun v => s.finishCmd k [v]) status
  case busy =>
    intro d a t g runs
    refine ⟨?_, (exec_sgo at_ d a t g).trans (answers rfl (applySgo_busy runs)), fun inside => ?_⟩
    · exact (exec_sbar at_ d a t g).trans (congrArg _ (applyStream_waits at_.at_ (if_pos runs)))
    · obtain ⟨r, here⟩ := Option.isSome_iff_exists.mp inside
      refine (exec_sbind at_ d a t g).trans (answers rfl ?_)
      simp only [State.applySbind, here]
      exact if_pos runs
  case goRefused =>
    intro d a t g unbound
    exact (exec_sgo at_ d a t g).trans (answers rfl (applySgo_refused unbound))

end Sys2Proof.Claims
end

section
/-! PROOFS. The engines apply the network words (09 R253; 19 R360 to R373). -/

namespace Sys2Proof.Claims

open Sys2Proof.Machine

variable {s s' : State} {k : Nat} {c : Cmd} {r : Region} {l : List Byte}

/-! ## Ranges are read, and change nothing but what a walk leaves -/

theorem engineTranslate_reads (s : State) (ctx va : Nat) : s.ReadsTo (s.engineTranslate ctx va).2 := by
  unfold State.engineTranslate
  split
  · rfl
  · next c _ =>
    have walked := s.walk_reads c.root c.domains (s.mappedVa ctx va) []
    split
    · next e => rw [e] at walked; exact walked
    · next e => rw [e] at walked; exact walked

theorem rangeMapped_reads (s : State) (ctx pages va len : Nat) : s.ReadsTo (s.rangeMapped ctx pages va len).2 := by
  induction pages generalizing s va len with
  | zero => rfl
  | succ pages ih =>
    have translated := engineTranslate_reads s ctx va
    unfold State.rangeMapped
    split
    · rfl
    split
    · rfl
    split
    · next e => rw [e] at translated; exact translated
    · next e => rw [e] at translated; exact translated.trans (ih _ _ _)

theorem describeBuffer_reads (s : State) (r : Region) (h : Nat) (l : List Byte) : s.ReadsTo (s.describeBuffer r h l).2 := by
  unfold State.describeBuffer
  dsimp only
  split
  · rfl
  · have visible := rangeMapped_reads s r.ctx (bv (wordAt l 3) 0 32) (bv (wordAt l 1) 21 35 * 2 ^ 21) (bv (wordAt l 3) 0 32 * 2 ^ 21)
    split
    · next e => rw [e] at visible; exact visible
    · next s1 e =>
      rw [e] at visible
      have shadow := rangeMapped_reads s1 r.ctx (bv (wordAt l 3) 0 32) (bv (wordAt l 2) 21 35 * 2 ^ 21) (bv (wordAt l 3) 0 32 * 2 ^ 21)
      split
      · next e => rw [e] at shadow; exact visible.trans shadow
      · next e => rw [e] at shadow; exact visible.trans shadow

/-! ## The words at the engines -/

/-- With NET accepted, a network word of a region does what it does (R360). -/
theorem applyNet_runs {body : State → Region → State} (here : s.regionOfSeq c.seq = some r) (net : s.feature 2 = true) :
    s.applyNet k c body = body s r := by
  have accepted : (!s.feature featNet) = false := congrArg not net
  simp only [State.applyNet, here, accepted, if_neg Bool.false_ne_true]

/-- Without NET every network word returns BADHANDLE (R360). -/
theorem applyNet_refuses {body : State → Region → State} (there : s.cmds[k]? = some c) (here : s.regionOfSeq c.seq = some r)
    (noNet : s.feature 2 = false) : s.applyNet k c body = answered s k c [11] := by
  have refused : (!s.feature featNet) = true := congrArg not noNet
  simp only [State.applyNet, here, refused, if_true]
  exact finishCmd_eq_answered there _

theorem withDescriptor_reads {n : Nat} {body : State → List Byte → State}
    (read : s.readForCmd c.seq r.ctx c (c.a.toNat % 2 ^ 56 / n * n) n = (.bytes l, s')) : s.withDescriptor r k c n body = body s' l := by
  simp only [State.withDescriptor, read]

/-- Reading a descriptor leaves the commands where they are. -/
theorem there_of_read {va n : Nat} {got : Got} (there : s.cmds[k]? = some c) (read : s.readForCmd c.seq r.ctx c va n = (got, s')) :
    s'.cmds[k]? = some c := by
  have reads := s.readForCmd_reads c.seq r.ctx c va n
  rw [read] at reads
  exact reads.cmds ▸ there

theorem exec_netBind (h : CmdAt s k c .engine) (here : s.regionOfSeq c.seq = some r) (net : s.feature 2 = true) (d a b : Reg) (x : Bool) (g : Pred) :
    exec (.netBind d a b x g) s = .next (s.withDescriptor r k c 64 fun s l => s.bindDescriptor r k l) := by
  show execNetBind d a b x g s = _
  exact (h.applies _ _).trans (congrArg _ (applyNet_runs here net))

/-- A message word is applied to its connection. -/
theorem exec_message (h : CmdAt s k c .engine) (d a b : Reg) (x : Bool) (g : Pred) :
    exec (.netWrite d a b x g) s = .next (s.applyMessage .write k c) ∧ exec (.netRead d a b x g) s = .next (s.applyMessage .read k c)
      ∧ exec (.netSend d a b x g) s = .next (s.applyMessage .send k c) := by
  refine ⟨?_, ?_, ?_⟩
  · show execNetWrite d a b x g s = _
    exact h.applies _ _
  · show execNetRead d a b x g s = _
    exact h.applies _ _
  · show execNetSend d a b x g s = _
    exact h.applies _ _

theorem exec_netStat (h : CmdAt s k c .engine) (d a b : Reg) (x : Bool) (g : Pred) :
    exec (.netStat d a b x g) s = .next (s.applyNetStat k c) := by
  show execNetStat d a b x g s = _
  exact h.applies _ _

/-! ## Messages (R365) -/

/-- The state in which a message of a connection stands queued. -/
def messageQueued (s : State) (n : Conn) (op : NetOp) (seq cmd : Nat) (l : List Byte) : State :=
  let v := s.seq seq
  let w := if messageMbz l then s.setSeq seq { v with swarn := v.swarn ||| 0x10 } else s
  let w := w.setConn { n with sendCount := n.sendCount + 1 }
  { w with fabric := { w.fabric with msgs := w.fabric.msgs ++ [messageOf n op v.rank cmd l] } }

theorem messageQueued_cmds (s : State) (n : Conn) (op : NetOp) (seq cmd : Nat) (l : List Byte) : (messageQueued s n op seq cmd l).cmds = s.cmds := by
  unfold messageQueued
  dsimp only
  split <;> rfl

theorem applyMessage_queues {n : Conn} {op : NetOp} (there : s.cmds[k]? = some c) (here : s.regionOfSeq c.seq = some r) (net : s.feature 2 = true)
    (bound : s.conn? c.b.toNat = some n) (own : n.region = r.id)
    (read : s.readForCmd c.seq r.ctx c (c.a.toNat % 2 ^ 56 / 32 * 32) 32 = (.bytes l, s')) (fits : bv (wordAt l 2) 32 32 ≤ op.maxLen) :
    s.applyMessage op k c = answered (messageQueued s' n op c.seq c.id l) k c [0] := by
  have queued : (messageQueued s' n op c.seq c.id l).cmds[k]? = some c := by
    rw [messageQueued_cmds]
    exact there_of_read there read
  rw [State.applyMessage, applyNet_runs here net]
  simp only [bound, own, ne_eq, not_true_eq_false, if_false]
  rw [withDescriptor_reads read, State.queueMessage, if_neg (Nat.not_lt.mpr fits)]
  exact finishCmd_eq_answered queued _

theorem applyMessage_badHandle {op : NetOp} (there : s.cmds[k]? = some c) (here : s.regionOfSeq c.seq = some r) (net : s.feature 2 = true)
    (unbound : s.conn? c.b.toNat = none) : s.applyMessage op k c = answered s k c [11] := by
  rw [State.applyMessage, applyNet_runs here net]
  simp only [unbound]
  exact finishCmd_eq_answered there _

/-! ## `net.bind` (R362, R363) -/

/-- The word that answers with a handle. -/
theorem handle_word (h : Nat) : at_ h 16 16 + stDONE = h % 65536 * 65536 := Nat.add_zero _

theorem bindDescriptor_conn {n : Conn} (kind : bv (wordAt l 0) 12 4 = 0) (low : bv (wordAt l 0) 0 5 = 0) (high : bv (wordAt l 0) 16 16 = 0)
    (room : s.fabric.handles.length < 65535) (describes : s.describeConn r (freeHandle s.fabric.handles 65535 1) l = some n) :
    s.bindDescriptor r k l =
      ({ s with fabric := { s.fabric with conns := { n with failed := s.fabric.pathless n } :: s.fabric.conns } } : State).finishCmd k
        [BitVec.ofNat 64 (freeHandle s.fabric.handles 65535 1 % 65536 * 65536)] := by
  unfold State.bindDescriptor
  dsimp only
  generalize freeHandle s.fabric.handles 65535 1 = h at describes ⊢
  rw [kind, low, high, if_neg (by decide), if_neg (by decide), if_pos rfl, describes]
  dsimp only
  rw [if_neg (Nat.not_le.mpr room), handle_word]

theorem bindDescriptor_buffer {p : PubBuf} {s'' : State} (kind : bv (wordAt l 0) 12 4 = 1) (low : bv (wordAt l 0) 0 5 = 0)
    (high : bv (wordAt l 0) 16 16 = 0) (describes : s.describeBuffer r (freeHandle s.fabric.handles 65535 1) l = (some p, s''))
    (room : s''.fabric.handles.length < 65535) :
    s.bindDescriptor r k l =
      ({ s'' with fabric := { s''.fabric with bufs := p :: s''.fabric.bufs } } : State).finishCmd k
        [BitVec.ofNat 64 (freeHandle s.fabric.handles 65535 1 % 65536 * 65536)] := by
  unfold State.bindDescriptor
  dsimp only
  generalize freeHandle s.fabric.handles 65535 1 = h at describes ⊢
  rw [kind, low, high, if_neg (by decide), if_neg (by decide), if_neg (by decide), describes]
  dsimp only
  rw [if_neg (Nat.not_le.mpr room), handle_word]

theorem bindDescriptor_release (kind : bv (wordAt l 0) 12 4 = 2) (low : bv (wordAt l 0) 0 5 = 0)
    (holds : s.holdsHandle r (bv (wordAt l 0) 16 16) = true) (done : s.handleBusy (bv (wordAt l 0) 16 16) = false) :
    s.bindDescriptor r k l = (s.release (bv (wordAt l 0) 16 16)).finishCmd k [BitVec.ofNat 64 (bv (wordAt l 0) 16 16 * 65536)] := by
  have small : bv (wordAt l 0) 16 16 % 65536 = bv (wordAt l 0) 16 16 := Nat.mod_eq_of_lt (Nat.mod_lt _ (by decide))
  have fine : ¬(2 < 2 ∨ 0 ≠ 0 ∨ (2 ≠ 2 ∧ bv (wordAt l 0) 16 16 ≠ 0)) := fun h => h.elim (by decide) fun h => h.elim (· rfl) (·.1 rfl)
  unfold State.bindDescriptor
  dsimp only
  rw [kind, low, if_neg fine, if_pos rfl, State.bindRelease, holds, done, handle_word, small]
  rfl

/-! ## `net.stat` (R373) -/

theorem applyNetStat_unsaid {n : Conn} (there : s.cmds[k]? = some c) (here : s.regionOfSeq c.seq = some r) (net : s.feature 2 = true)
    (bound : s.conn? c.b.toNat = some n) (unsaid : n.record = none) :
    s.applyNetStat k c = answered { s with frees := s.frees + 5 } k c
      [s.fabric.congestion n (Vector.ofFn fun i : Fin 5 => Config.congestionWord (s.frees + i)) (c.a.toNat % 8)] := by
  rw [State.applyNetStat, applyNet_runs here net]
  simp only [bound, unsaid]
  exact finishCmd_eq_answered (t := { s with frees := s.frees + 5 }) there _

theorem applyNetStat_said {n : Conn} {said : Vector Word 5} (there : s.cmds[k]? = some c) (here : s.regionOfSeq c.seq = some r)
    (net : s.feature 2 = true) (bound : s.conn? c.b.toNat = some n) (record : n.record = some said) :
    s.applyNetStat k c = answered s k c [s.fabric.congestion n said (c.a.toNat % 8)] := by
  rw [State.applyNetStat, applyNet_runs here net]
  simp only [bound, record]
  exact finishCmd_eq_answered there _

theorem applyNetStat_unbound (there : s.cmds[k]? = some c) (here : s.regionOfSeq c.seq = some r) (net : s.feature 2 = true)
    (unbound : s.conn? c.b.toNat = none) : s.applyNetStat k c = answered s k c [0] := by
  rw [State.applyNetStat, applyNet_runs here net]
  simp only [unbound]
  exact finishCmd_eq_answered there _

/-- Settles O15: with NET a word is applied to what its descriptor or its handle names, without it every one is refused. -/
theorem networkCommandsAct : Obligations.NetworkCommandsAct := by
  intro s k c r at_ here
  have there := at_.there
  refine ⟨?messages, ?conn, ?buffer, ?release, ?unsaid, ?said, ?unbound, ?noNet⟩
  case messages =>
    intro net n l s' bound own read v sent
    have queues {op : NetOp} (fits : bv (wordAt l 2) 32 32 ≤ op.maxLen) : Host.Outcome.next (s.applyMessage op k c) = sent op :=
      congrArg _ (applyMessage_queues there here net bound own read fits)
    refine ⟨fun fits => ⟨?write, ?read⟩, fun fits d a b x g => (exec_message at_ d a b x g).2.2.trans (queues fits)⟩
    case write => exact fun d a b x g => (exec_message at_ d a b x g).1.trans (queues fits)
    case read => exact fun d a b x g => (exec_message at_ d a b x g).2.1.trans (queues fits)
  case conn =>
    intro net d a b x g l s' n read kind low high room describes
    have still := there_of_read there read
    rw [exec_netBind at_ here net, withDescriptor_reads read, bindDescriptor_conn kind low high room describes]
    exact congrArg _ (finishCmd_eq_answered (by exact still) _)
  case buffer =>
    intro net d a b x g l s' p s'' read kind low high describes room
    have reads := describeBuffer_reads s' r (freeHandle s'.fabric.handles 65535 1) l
    rw [describes] at reads
    have still : s''.cmds[k]? = some c := reads.cmds ▸ there_of_read there read
    rw [exec_netBind at_ here net, withDescriptor_reads read, bindDescriptor_buffer kind low high describes room]
    exact congrArg _ (finishCmd_eq_answered (by exact still) _)
  case release =>
    intro net d a b x g l s' read kind low h holds done
    have still := there_of_read there read
    rw [exec_netBind at_ here net, withDescriptor_reads read, bindDescriptor_release kind low holds done]
    exact congrArg _ (finishCmd_eq_answered (by exact still) _)
  case unsaid =>
    intro net d a b x g n bound unsaid
    exact (exec_netStat at_ d a b x g).trans (congrArg _ (applyNetStat_unsaid there here net bound unsaid))
  case said =>
    intro net d a b x g n said bound record
    exact (exec_netStat at_ d a b x g).trans (congrArg _ (applyNetStat_said there here net bound record))
  case unbound =>
    intro net unbound d a b x g bad
    obtain ⟨write, read, send⟩ := exec_message at_ d a b x g
    have refused (op : NetOp) : Host.Outcome.next (s.applyMessage op k c) = bad := congrArg _ (applyMessage_badHandle there here net unbound)
    exact ⟨(exec_netStat at_ d a b x g).trans (congrArg _ (applyNetStat_unbound there here net unbound)), write.trans (refused _),
      read.trans (refused _), send.trans (refused _)⟩
  case noNet =>
    intro noNet d a b x g bad
    obtain ⟨write, read, send⟩ := exec_message at_ d a b x g
    have refused (body : State → Region → State) : Host.Outcome.next (s.applyNet k c body) = bad :=
      congrArg _ (applyNet_refuses there here noNet)
    have bind : exec (.netBind d a b x g) s = .next (s.applyNet k c fun s r => s.withDescriptor r k c 64 fun s l => s.bindDescriptor r k l) := by
      show execNetBind d a b x g s = _
      exact at_.applies _ _
    exact ⟨bind.trans (refused _), write.trans (refused _), read.trans (refused _), send.trans (refused _),
      (exec_netStat at_ d a b x g).trans (refused _)⟩

end Sys2Proof.Claims
end

section
/-! PROOFS. Translation and lantern words (09 R249, R250, R251, R252). -/

namespace Sys2Proof.Claims

open Sys2Proof.Machine

variable {s s' : State} {k q die : Nat} {c : Cmd} {r : Region} {b : Block} {a d : Reg}

/-! ## `xlat` (R249) -/

/-- The word of a translation, as the statement sums it. -/
theorem xlatWord_eq {f : Found} (small : f.tr.phys f.va < 2 ^ 44) :
    xlatWord f = BitVec.ofNat 64 (2 ^ 63 + (if f.tr.writable then 2 ^ 62 else 0) + (if f.tr.vug then 2 ^ 61 else 0)
      + (if f.tr.big then 2 ^ 60 else 0) + (if f.tr.vug then 0 else f.tr.phys f.va)) := by
  have flag (y : Bool) (lo : Nat) : at_ (b2n y) lo 1 = if y then 2 ^ lo else 0 := by cases y <;> simp [at_, b2n]
  have phys : at_ (f.tr.phys f.va) 0 44 = f.tr.phys f.va := by rw [at_, Nat.mod_eq_of_lt small, Nat.pow_zero, Nat.mul_one]
  have valid : at_ 1 63 1 = 2 ^ 63 := rfl
  rw [xlatWord, flag, flag, flag, phys, valid]

theorem xlat_below {ctx : Nat} {u : Word} {who : Option Reader} (small : u.toNat < 2 ^ 56) :
    s.xlat q ctx u who = match s.translate q ctx u.toNat true who with
      | (.ok f, s) => (some (xlatWord f), s)
      | (.error e, s) => (if e = codeStopped then none else some (BitVec.ofNat 64 e), s) := if_neg (Nat.not_le.mpr small)

/-- An `xlat` whose translation is known writes its word. -/
theorem exec_xlat_writes {v : Word} {scope : BitVec 4} {all : BitVec 1} {x : Bool} {g : Pred} (h : WordReady s q b [a])
    (here : s.regionOfSeq q = some r) (known : s.xlat q r.ctx (readReg b.regs a) (s.blockReader q) = (some v, s')) :
    exec (.xlat d a scope all x g) s = .next (issued s' q b (wrote b d v (warned b [a] x 0))) := by
  have found : s.xlat q r.ctx (readReg b.regs a) (WordCtx.reader ⟨q, s.seq q, b⟩) = (some v, s') := known
  have warns : wrote b d v (warned b [a] x 0) = (b.write d v).warn (WordCtx.crd ⟨q, s.seq q, b⟩ [a] ||| warnIf x swMBZ) := by
    rw [warned_without_more b q (s.seq q)]
    rfl
  show execXlat d a scope all x g s = _
  rw [warns]
  refine h.issues ?_
  simp only [h.awaits, if_neg Bool.false_ne_true, State.regionOf, here, reg_eq, found]

/-- One whose walk waits waits. -/
theorem exec_xlat_waits {scope : BitVec 4} {all : BitVec 1} {x : Bool} {g : Pred} (h : WordReady s q b [a])
    (here : s.regionOfSeq q = some r) (walking : s.xlat q r.ctx (readReg b.regs a) (s.blockReader q) = (none, s')) :
    exec (.xlat d a scope all x g) s = waitsAt s' q b := by
  have waits : s.xlat q r.ctx (readReg b.regs a) (WordCtx.reader ⟨q, s.seq q, b⟩) = (none, s') := walking
  show execXlat d a scope all x g s = _
  refine h.waits_to ?_
  simp only [h.awaits, if_neg Bool.false_ne_true, State.regionOf, here, reg_eq, waits]

theorem xlatReportsTheTranslation : XlatReportsTheTranslation := by
  intro s q b d a scope all x g r ready here u
  refine ⟨fun f s' small found phys => ?_, fun code s' small known failed => ?_, fun s' small waits => ?_, fun high => ?_⟩
  · refine exec_xlat_writes ready here ((xlat_below small).trans ?_)
    rw [found, ← xlatWord_eq phys]
  · have goes : code ≠ codeStopped := fun h => absurd (h ▸ known : codeStopped ≤ 4) (by decide)
    refine exec_xlat_writes ready here ((xlat_below small).trans ?_)
    simp only [u, failed, if_neg goes]
  · refine exec_xlat_waits ready here ((xlat_below small).trans ?_)
    simp only [u, waits]
    rfl
  · exact exec_xlat_writes ready here (if_pos high)

/-! ## `tlbinv` (R250) -/

theorem translationChange_cmds (s : State) (q : Nat) (scope : TransScope) : (s.translationChange q scope).cmds = s.cmds := by
  cases scope with
  | cluster => rfl
  | die => rfl
  | package => exact foldl_keeps (f := fun s d => s.retryStreams d) State.cmds (fun _ _ => rfl) (List.range 16) s

theorem exec_tlbinv (h : CmdAt s k c (.die die)) (here : s.regionOfSeq c.seq = some r) (d a : Reg) (scope : BitVec 4) (all : BitVec 1) (x : Bool)
    (g : Pred) :
    exec (.tlbinv d a scope all x g) s = .next (answered
      ((s.invalidate c.seq r.ctx (transScope scope) (s.namedPage r.ctx all c)).translationChange c.seq (transScope scope)) k c [0]) := by
  show execTlbinv d a scope all x g s = _
  refine (h.applies _ _).trans (congrArg _ ?_)
  simp only [State.applyTlbinv, here]
  refine finishCmd_eq_answered ?_ _
  rw [translationChange_cmds]
  exact h.there

/-- Every page of a context is gone from the TLB of one cluster, and from no other. -/
theorem invalidate_cluster (s : State) (q ctx : Nat) :
    s.invalidate q ctx .cluster none =
      { s with tlbs := s.tlbs.map fun (j, l) => if j == q then (j, l.filter fun e => e.ctx != ctx) else (j, l)
               parts := s.dropWalks q ctx .cluster none } := by
  have hit (e : TlbEntry) : (!e.hit ctx none) = (e.ctx != ctx) := by rw [TlbEntry.hit, Bool.and_true]; rfl
  unfold State.invalidate
  simp only [hit, TransScope.has, Bool.false_eq_true, if_false, Prod.mk.eta, List.map_id']

/-! ## `relatch` (R251) -/

theorem exec_relatch (h : CmdAt s k c (.die die)) (d a : Reg) (scope : BitVec 4) (all : BitVec 1) (x : Bool) (g : Pred) :
    exec (.relatch d a scope all x g) s = .next (s.applyRelatch scope all k c) := by
  show execRelatch d a scope all x g s = _
  exact h.applies _ _

/-- Sending a token to each of some units adds the packets to what is on its way, and changes nothing else. -/
theorem foldl_send (cls : PacketClass) (src : UnitId) (dst : Nat → UnitId) (p : Payload) (l : List Nat) (s : State) :
    l.foldl (fun s n => s.send cls src (dst n) p) s = { s with net := s.net ++ l.map fun n => ⟨cls, src, dst n, p⟩ } := by
  induction l generalizing s with
  | nil => rw [List.map_nil, List.append_nil]; rfl
  | cons n l ih => rw [List.foldl_cons, ih, List.map_cons, State.send, List.append_assoc]; rfl

theorem applyRelatch_sends {scope : BitVec 4} {all : BitVec 1} (here : s.regionOfSeq c.seq = some r) (fresh : c.begun = false)
    (some_ : s.relatchCores c.seq r.ctx (transScope scope) (s.namedPage r.ctx all c) ≠ []) :
    let page := s.namedPage r.ctx all c
    s.applyRelatch scope all k c =
      { s.beginCmd k c with net := s.net ++ (s.relatchCores c.seq r.ctx (transScope scope) page).map fun n =>
          ⟨.ctl, .die (seqDie c.seq), .core n, .relatch ⟨c.id, page⟩⟩ } := by
  simp only [State.applyRelatch, here, fresh, if_neg Bool.false_ne_true, List.isEmpty_iff, if_neg some_]
  exact foldl_send .ctl (.die (seqDie c.seq)) .core _ _ (s.beginCmd k c)

/-! ## Lanterns (R252) -/

theorem exec_lantReq (h : CmdAt s k c (.die die)) (here : s.regionOfSeq c.seq = some r) (d a : Reg) (x : Bool) (g : Pred) :
    let n := min c.a.toNat (s.unassigned r.die)
    exec (.lantReq d a x g) s = .next (answered (s.setRegion { r with pool := r.pool + n }) k c [BitVec.ofNat 64 n]) := by
  intro n
  show execLantReq d a x g s = _
  refine (h.applies _ _).trans (congrArg _ ?_)
  simp only [State.applyLantReq, here]
  exact finishCmd_eq_answered (t := s.setRegion { r with pool := r.pool + n }) h.there _

theorem exec_lantRel (h : CmdAt s k c (.die die)) (here : s.regionOfSeq c.seq = some r) (d a : Reg) (x : Bool) (g : Pred) :
    let n := min c.a.toNat r.pool
    exec (.lantRel d a x g) s = .next (answered (s.setRegion { r with pool := r.pool - n }) k c [BitVec.ofNat 64 n]) := by
  intro n
  show execLantRel d a x g s = _
  refine (h.applies _ _).trans (congrArg _ ?_)
  simp only [State.applyLantRel, here]
  exact finishCmd_eq_answered (t := s.setRegion { r with pool := r.pool - n }) h.there _

theorem translationAndLanternCommandsAct : TranslationAndLanternCommandsAct := by
  intro s k c r die at_ here
  refine ⟨fun d a x g => ?every, exec_tlbinv at_ here, ?idle, ?tokens, exec_lantReq at_ here, exec_lantRel at_ here⟩
  case every =>
    rw [exec_tlbinv at_ here, ← invalidate_cluster]
    rfl
  case idle =>
    intro d a scope all x g fresh none_
    rw [exec_relatch at_]
    simp only [State.applyRelatch, here, fresh, if_neg Bool.false_ne_true, none_]
    exact congrArg _ (finishCmd_eq_answered at_.there _)
  case tokens =>
    intro d a scope all x g fresh l some_
    exact ⟨_, (exec_relatch at_ d a scope all x g).trans (congrArg _ (applyRelatch_sends here fresh some_)), rfl, rfl, rfl, rfl⟩

/-- Settles O19: `xlat` ends as its translation does, and each command is applied by its die. -/
theorem translationAndLanternWordsAct : Obligations.TranslationAndLanternWordsAct :=
  ⟨xlatReportsTheTranslation, translationAndLanternCommandsAct⟩

end Sys2Proof.Claims
end

section
/-! PROOFS. A region applies the configuration commands (09 R230 to R242). -/

namespace Sys2Proof.Claims

open Sys2Proof.Machine

variable {s s' : State} {k : Nat} {c : Cmd} {r : Region} {image : List Byte}

/-! ## Images are read, and change nothing but what a read leaves -/

/-- What a read of memory for a command comes to, with the state in which it has been read. -/
theorem reads_of_readForCmd {cluster ctx va n : Nat} {got : Got} (read : s.readForCmd cluster ctx c va n = (got, s')) : s.ReadsTo s' := by
  have reads := s.readForCmd_reads cluster ctx c va n
  rw [read] at reads
  exact reads

theorem readImage_reads (s : State) (ctx : Nat) (c : Cmd) (va : Nat) : s.ReadsTo (s.readImage ctx c va).2 := by
  unfold State.readImage
  split
  · rfl
  split
  case h_4 header =>
    have first := reads_of_readForCmd header
    split
    · exact first
    split
    all_goals next whole => exact first.trans (reads_of_readForCmd whole)
  all_goals next header => exact reads_of_readForCmd header

theorem signatureOf_reads (s : State) (r : Region) (c : Cmd) (va : Word) : s.ReadsTo (s.signatureOf r c va).2 := by
  unfold State.signatureOf
  split
  case h_2 header =>
    have first := reads_of_readForCmd header
    split
    · exact first
    split
    all_goals next whole => exact first.trans (reads_of_readForCmd whole)
  all_goals next header => exact reads_of_readForCmd header

theorem spread_cmds (s : State) (r : Region) (ps : List Pattern) (f : Core → List Pattern → Core) : (s.spread r ps f).cmds = s.cmds := by
  unfold State.spread
  exact foldl_keeps State.cmds (fun _ _ => by rfl) r.places s

/-! ## The words, where their command stands at its region -/

/-- A configuration command is applied to the region that it was sent to. -/
theorem applyConfig_region (at_ : c.unit = .region r.id) (there : s.region? r.id = some r) (f : State → Region → Nat → Cmd → State) :
    s.applyConfig f k c = f s r k c := by
  simp only [State.applyConfig, at_, there]

section
variable (h : CmdAt s k c (.region r.id)) (here : s.region? r.id = some r) (d a : Reg) (x : Bool) (g : Pred)
include h here

theorem exec_cfgLoad : exec (.cfgLoad d a x g) s = .next (s.applyCfgLoad r k c) := by
  show execCfgLoad d a x g s = _
  exact (h.applies _ _).trans (congrArg _ (applyConfig_region h.at_ here _))

theorem exec_cfgShadow : exec (.cfgShadow d a x g) s = .next (s.applyCfgShadow r k c) := by
  show execCfgShadow d a x g s = _
  exact (h.applies _ _).trans (congrArg _ (applyConfig_region h.at_ here _))

theorem exec_cfgSwap : exec (.cfgSwap d a x g) s = .next (s.applyCfgSwap r k c) := by
  show execCfgSwap d a x g s = _
  exact (h.applies _ _).trans (congrArg _ (applyConfig_region h.at_ here _))

theorem exec_cfgDrain : exec (.cfgDrain d a x g) s = .next (s.applyCfgDrain r k c) := by
  show execCfgDrain d a x g s = _
  exact (h.applies _ _).trans (congrArg _ (applyConfig_region h.at_ here _))

theorem exec_cfgPhase : exec (.cfgPhase d a x g) s = .next (s.applyCfgPhase r k c) := by
  show execCfgPhase d a x g s = _
  exact (h.applies _ _).trans (congrArg _ (applyConfig_region h.at_ here _))

theorem exec_cfgSig : exec (.cfgSig d a x g) s = .next (s.applyCfgSig a r k c) := by
  show execCfgSig d a x g s = _
  exact (h.applies _ _).trans (congrArg _ (applyConfig_region h.at_ here _))

end

/-! ## What they do -/

/-- Reading and checking an image leaves the command where it was. -/
theorem there_of_readImage {va : Nat} {got : ImageGot} (there : s.cmds[k]? = some c) (read : s.readImage r.ctx c va = (got, s')) :
    s'.cmds[k]? = some c := by
  have reads := readImage_reads s r.ctx c va
  rw [read] at reads
  exact reads.cmds ▸ there

theorem applyCfgLoad_loads {ps : List Pattern} (there : s.cmds[k]? = some c) (freezing : r.freezing = false) (frozen : r.frozen = false)
    (idle : s.idle r = true) (quiet : r.cores.any s.edgeStores = false) (read : s.readImage r.ctx c c.a.toNat = (.bytes image, s'))
    (good : s'.checkImage r false image = .ok ps) :
    s.applyCfgLoad r k c =
      answered ((s'.spread r ps Core.configure).setRegion { r with phase := r.phase + 1, image := some c.a }) k c [0] := by
  have still := there_of_readImage there read
  rw [← spread_cmds s' r ps Core.configure] at still
  have takes : (!r.takesConfig) = false := by rw [Region.takesConfig, freezing, frozen]; rfl
  have waitsNot : (!s.idle r) = false := congrArg not idle
  rw [State.applyCfgLoad, takes, if_neg Bool.false_ne_true, waitsNot, if_neg Bool.false_ne_true, quiet, if_neg Bool.false_ne_true, read]
  simp only [good]
  exact finishCmd_eq_answered (t := (s'.spread r ps Core.configure).setRegion { r with phase := r.phase + 1, image := some c.a }) still _

theorem applyCfgShadow_loads {ps : List Pattern} (there : s.cmds[k]? = some c) (freezing : r.freezing = false) (frozen : r.frozen = false)
    (swap : r.swap = none) (drain : r.drain = none) (read : s.readImage r.ctx c c.a.toNat = (.bytes image, s'))
    (good : s'.checkImage r true image = .ok ps) : s.applyCfgShadow r k c = answered (s'.spread r ps Core.configureShadow) k c [0] := by
  have still := there_of_readImage there read
  rw [← spread_cmds s' r ps Core.configureShadow] at still
  simp only [State.applyCfgShadow, Region.takesConfig, freezing, frozen, swap, drain, read, good, Bool.not_false, Bool.not_true, Bool.and_true,
    Option.isSome_none, Bool.or_false, if_neg Bool.false_ne_true]
  exact finishCmd_eq_answered still _

theorem applyCfgPhase_reports (there : s.cmds[k]? = some c) (swap : r.swap = none) (drain : r.drain = none) :
    s.applyCfgPhase r k c = answered s k c [r.phase.setWidth 64] := by
  have word : BitVec.ofNat 64 (at_ (b2n false) 63 1 + at_ 0 32 31 + r.phase.toNat) = r.phase.setWidth 64 := by
    apply BitVec.eq_of_toNat_eq
    simp [at_, b2n]
  simp only [State.applyCfgPhase, swap, drain, Option.isSome_none, Bool.or_false, if_neg Bool.false_ne_true, word]
  exact finishCmd_eq_answered there _

theorem applyCfgSig_signs {a : Reg} {va : Word} {l : List Byte} (there : s.cmds[k]? = some c)
    (named : (if a = 0 then r.image else some c.a) = some va) (signs : s.signatureOf r c va = (some l, s')) :
    s.applyCfgSig a r k c = answered s' k c [wordAt l 0, wordAt l 1] := by
  have reads := signatureOf_reads s r c va
  rw [signs] at reads
  simp only [State.applyCfgSig, named, signs]
  exact finishCmd_eq_answered (reads.cmds ▸ there) _

theorem configurationCommandsActAtOnce : ConfigurationCommandsAct := by
  intro s k c r at_ here freezing frozen swap drain
  have there := at_.there
  refine ⟨?load, ?shadow, ?phase, ?sig, ?noImage⟩
  case load =>
    intro d a x g image s' ps idle quiet read good
    exact (exec_cfgLoad at_ here d a x g).trans (congrArg _ (applyCfgLoad_loads there freezing frozen idle quiet read good))
  case shadow =>
    intro d a x g image s' ps read good
    exact (exec_cfgShadow at_ here d a x g).trans (congrArg _ (applyCfgShadow_loads there freezing frozen swap drain read good))
  case phase =>
    intro d a x g
    exact (exec_cfgPhase at_ here d a x g).trans (congrArg _ (applyCfgPhase_reports there swap drain))
  case sig =>
    intro d a x g va l s' named signs
    exact (exec_cfgSig at_ here d a x g).trans (congrArg _ (applyCfgSig_signs there named signs))
  case noImage =>
    intro d x g none_
    refine (exec_cfgSig at_ here d 0 x g).trans (congrArg _ ?_)
    simp only [State.applyCfgSig, if_true, none_]
    exact finishCmd_eq_answered there _

theorem swapAndDrainBegin : SwapAndDrainBegin := by
  intro s k c r at_ here freezing frozen swap drain fresh begun
  refine ⟨fun d a x g => ?swap, fun d a x g => ?drain⟩
  case swap =>
    refine (exec_cfgSwap at_ here d a x g).trans (congrArg _ ?_)
    simp only [State.applyCfgSwap, Region.takesConfig, fresh, freezing, frozen, swap, drain, Bool.not_false, Bool.not_true, Bool.and_true,
      Option.isSome_none, Bool.or_false, if_neg Bool.false_ne_true]
    rfl
  case drain =>
    have takes : (c.begun || r.freezing || (r.frozen && r.checkpoint.isNone)) = false := by rw [fresh, freezing, frozen]; rfl
    have same : { r with drain := some ⟨c.id, c.seq, c.a, false⟩, checkpoint := none, checkpointSaved := false, frozen := false } =
        { r with drain := some ⟨c.id, c.seq, c.a, false⟩, checkpoint := none, checkpointSaved := false } := by rw [← frozen]
    refine (exec_cfgDrain at_ here d a x g).trans (congrArg _ ?_)
    rw [State.applyCfgDrain, takes, if_neg Bool.false_ne_true, drain, if_neg (by exact Bool.false_ne_true), same]
    rfl

/-- Settles O18: each command does at its region what its checks leave it to do, by the lemma on its application. -/
theorem configurationCommandsAct : Obligations.ConfigurationCommandsAct := ⟨configurationCommandsActAtOnce, swapAndDrainBegin⟩

end Sys2Proof.Claims
end

section
/-! PROOFS. Packets are appended, dispatched, rejected or admitted (09 R248; 18 R339 to R346). -/

namespace Sys2Proof.Claims

open Sys2Proof.Machine

variable {s s' : State} {k n q : Nat} {c : Cmd} {w : Vector Word 8}

/-! ## The waiting line (R345) -/

/-- A queue that holds nothing does not join the line. -/
theorem joinLine_of_empty (empty : (s.queue n).packets = []) : s.joinLine n = s := by
  unfold State.joinLine
  dsimp only
  rw [if_neg]
  rw [empty]
  rintro ⟨-, some_, -⟩
  cases some_

theorem joinLine_cmds (s : State) (n : Nat) : (s.joinLine n).cmds = s.cmds := by
  unfold State.joinLine
  dsimp only
  split <;> rfl

theorem takeLine_of_empty (empty : s.pkg.line = []) : s.takeLine = s := by
  unfold State.takeLine
  split
  · rfl
  · rw [empty]

/-! ## `launch` and QUEUE_APPEND (R248, R339, R340) -/

theorem appendPacket_cmds (s : State) (n : Nat) (w : Vector Word 8) : (s.appendPacket n w).cmds = s.cmds := by
  have written (pa : Nat) (l : List Byte) : (s.putFloor pa l).cmds = s.cmds := by
    rw [State.putFloor, State.repairFloor_cmds, State.writeBytes_frame]
  rw [State.appendPacket, joinLine_cmds]
  exact written _ _

theorem answerLaunch_eq_answered (there : s.cmds[k]? = some c) (ctx : Nat) (status : Word) :
    s.answerLaunch ctx k status = answered { s with pkg := { s.pkg with ctxs := s.pkg.ctxs.map fun (y : Ctx) =>
      if y.id = ctx then { y with launched := some s.now } else y } } k c [status] := by
  rw [State.answerLaunch]
  exact finishCmd_eq_answered (by exact there) _

theorem launchAppendsThePacket : LaunchAppendsThePacket := by
  intro s k c r l s' d a e m x g at_ here exists_ read small opened own room
  have taken : ¬(2048 ≤ c.b.toNat ∨ (s'.queue c.b.toNat).state ≠ .open_ ∨ (s'.queue c.b.toNat).ctx ≠ r.ctx) := by
    rintro (high | closed | other)
    · exact Nat.not_le.mpr small high
    · exact closed opened
    · exact other own
  have there : (s'.appendPacket c.b.toNat (Vector.ofFn fun j : Fin 8 => wordAt l j)).cmds[k]? = some c := by
    rw [appendPacket_cmds]
    exact there_of_read at_.there read
  have known : ¬(s.ctx? r.ctx).isNone = true := by
    rw [Option.isNone_eq_false_iff.mpr exists_]
    exact Bool.false_ne_true
  show execLaunch d a e m x g s = _
  refine (at_.applies _ _).trans (congrArg _ ?_)
  simp only [State.applyLaunch, here, if_neg known, read, if_neg taken, if_neg (Nat.not_le.mpr room)]
  exact answerLaunch_eq_answered there r.ctx (statusWord stDONE)

theorem queueAppend_appends (trained : s.pkg.ucieTrained = true) (small : n < 2048) :
    let q := s.queue n
    (q.state = .open_ → q.packets.length < q.cap → exec (.queueAppend n w true) s = .next (s.appendPacket n w))
      ∧ (q.state = .open_ → q.cap ≤ q.packets.length → exec (.queueAppend n w true) s = .next (s.setQueue n { q with ovfl := true }))
      ∧ (q.state ≠ .open_ → exec (.queueAppend n w true) s = .next (s.setQueue n { q with qerr := true }))
      ∧ exec (.queueAppend n w false) s = .next (s.setQueue n { q with qerr := true }) := by
  intro q
  have reaches : (!s.hostReaches || decide (2048 ≤ n)) = false := by
    rw [State.hostReaches, trained, decide_eq_false (Nat.not_le.mpr small)]
    rfl
  have start (whole : Bool) : exec (.queueAppend n w whole) s =
      if !whole || q.state != .open_ then .next (s.setQueue n { q with qerr := true })
      else if q.cap ≤ q.packets.length then .next (s.setQueue n { q with ovfl := true })
      else .next (s.appendPacket n w) := by
    show execQueueAppend n w whole s = _
    rw [execQueueAppend, reaches]
    rfl
  refine ⟨fun opened room => ?_, fun opened full => ?_, fun closed => ?_, start false⟩
  · rw [start, opened]
    exact if_neg (Nat.not_le.mpr room)
  · rw [start, opened]
    exact if_pos full
  · rw [start]
    exact if_pos (bne_iff_ne.mpr closed)

/-! ## DISPATCH_COPY takes the head of the line (R345) -/

/-- The eight doublewords of a ring element are read as every read is. -/
theorem ringPacket_reads {pa : Nat} {got : Option (Vector Word 8)} (read : s.ringPacket pa = (got, s')) : s.ReadsTo s' := by
  unfold State.ringPacket at read
  split at read
  · cases read
    rfl
  · cases read
    exact s.correctFloor_reads pa 64

theorem copyPacket_copies {seqno : Nat} {more : List Nat} (packets : (s.queue n).packets = seqno :: more)
    (read : s.ringPacket ((s.queue n).elemAddr 0) = (some w, s')) :
    ∃ t, s.copyPacket n = t ∧ t.pkg.copies = s.pkg.copies ++ [⟨n, seqno, w, (s.queue n).ctx, s.now⟩] ∧ (t.queue n).packets = more
      ∧ t.pkg.line = s.pkg.line ∧ t.pkg.slots = s.pkg.slots := by
  have reads := ringPacket_reads read
  have pkg := reads.pkg
  have now : s'.now = s.now := by rw [reads]
  have line := congrArg Package.line pkg
  have slots := congrArg Package.slots pkg
  refine ⟨_, rfl, ?_⟩
  unfold State.copyPacket
  dsimp only
  rw [packets]
  dsimp only
  rw [read]
  refine ⟨?_, congrArg Queue.packets (sparseGet_put_same ..), line, slots⟩
  show s'.pkg.copies ++ [⟨n, seqno, w, (s.queue n).ctx, s'.now⟩] = _
  rw [pkg, now]

theorem dispatchCopy_takes {rest : List LineEntry} {seqno : Nat} {more : List Nat} {s1 : State} (free : s.pkg.slots.length < 512)
    (none_ : s.pkg.copies = []) (line : s.pkg.line = .queue n :: rest) :
    let s0 := { s with pkg := { s.pkg with line := rest } }
    (s.queue n).packets = seqno :: more → s0.ringPacket ((s.queue n).elemAddr 0) = (some w, s1) →
    ∃ t, exec .dispatchCopy s = .next t ∧ t.pkg.copies = [⟨n, seqno, w, (s.queue n).ctx, s.now⟩] ∧ (t.queue n).packets = more
      ∧ t.pkg.line = rest ∧ t.pkg.slots = s.pkg.slots := by
  intro s0 packets read
  have room : ¬512 ≤ s.pkg.slots.length + s.pkg.copies.length := by
    rw [none_]
    exact Nat.not_le.mpr free
  have takes : exec .dispatchCopy s = .next (s0.copyPacket n) := by
    show execDispatchCopy s = _
    rw [execDispatchCopy, none_, List.foldl_nil, State.takeLine, if_neg room, line]
  obtain ⟨t, rfl, copies, left, line', slots⟩ := copyPacket_copies (s := s0) packets read
  exact ⟨_, takes, by rw [copies]; exact congrArg (· ++ _) none_, left, line', slots⟩

/-! ## Validation (R342) -/

theorem translateDirect_reads (s : State) (ctx va : Nat) : s.ReadsTo (s.translateDirect ctx va).2 := by
  unfold State.translateDirect
  split
  · rfl
  split
  · rfl
  · next c _ =>
    have walked := s.walk_reads c.root c.domains (s.mappedVa ctx va) []
    split
    · next e => rw [e] at walked; exact walked
    · next e => rw [e] at walked; exact walked

theorem readDirect_reads (s : State) (ctx va m : Nat) : s.ReadsTo (s.readDirect ctx va m).2 := by
  induction m generalizing s va with
  | zero => rfl
  | succ m ih =>
    have translated := translateDirect_reads s ctx va
    unfold State.readDirect
    split
    · next e => rw [e] at translated; exact translated
    · next f s1 e =>
      rw [e] at translated
      have loaded := s1.loadAt_reads f.place va 8
      split
      · next e => rw [e] at loaded; exact translated.trans loaded
      · next e => rw [e] at loaded; exact translated.trans loaded
      · next s2 e =>
        rw [e] at loaded
        have rest := ih s2 (va + 8)
        split
        · next e => rw [e] at rest; exact translated.trans (loaded.trans rest)
        · next e => rw [e] at rest; exact translated.trans (loaded.trans rest)

theorem rejection_reads {ctx : Nat} {got : Option Nat} (judged : s.rejection ctx w = (got, s')) : s.ReadsTo s' := by
  have image := readDirect_reads s ctx (lpImage w) 8
  have result : s.ReadsTo (s.rejection ctx w).2 := by
    unfold State.rejection
    split
    · rfl
    split
    · rfl
    split
    · rfl
    split
    · rfl
    split
    · next e => rw [e] at image; exact image
    · next e => rw [e] at image; exact image
  rw [judged] at result
  exact result

/-- One packet is being copied, and none waits in the line: DISPATCH_COPY validates it (R342). -/
theorem dispatchCopy_validates {c : Copying} (copies : s.pkg.copies = [c]) (line : (s.validateCopy c).pkg.line = []) :
    exec .dispatchCopy s = .next (s.validateCopy c) := by
  show execDispatchCopy s = _
  rw [execDispatchCopy, copies, List.foldl_cons, List.foldl_nil, takeLine_of_empty line]

/-- The state in which a copied packet is no longer being copied. -/
def uncopied (s : State) (c : Copying) : State := { s with pkg := { s.pkg with copies := s.pkg.copies.filter (· != c) } }

theorem uncopied_copies {c : Copying} (copies : s.pkg.copies = [c]) : (uncopied s c).pkg.copies = [] := by
  show s.pkg.copies.filter (· != c) = []
  rw [copies, List.filter_cons_of_neg (by simp), List.filter_nil]

theorem validateCopy_waits {c : Copying} (early : s.now ≤ c.began) : s.validateCopy c = s := if_pos early

theorem validateCopy_takes {c : Copying} (late : c.began < s.now) (good : s.rejection c.ctx c.words = (some 0, s')) :
    let u := uncopied s' c
    s.validateCopy c =
      { u with pkg := { u.pkg with slots := u.pkg.slots ++ [⟨.packet c.queue c.seqno c.words, 0, 0, none, none⟩]
                                   live := u.pkg.live ++ [⟨c.queue, c.seqno, c.words, c.ctx, lpCount c.words, 0, 0, 0, none⟩] } } := by
  rw [State.validateCopy, if_neg (Nat.not_le.mpr late), good]
  rfl

theorem validateCopy_rejects {c : Copying} {reason : Nat} (late : c.began < s.now) (bad : s.rejection c.ctx c.words = (some reason, s'))
    (some_ : reason ≠ 0) :
    s.validateCopy c = ((uncopied s' c).complete c.words c.queue c.seqno 1 reason).joinLine c.queue := by
  rw [State.validateCopy, if_neg (Nat.not_le.mpr late), bad]
  exact if_neg some_

/-- A packet with a host window waits to have its completion filled (R343). -/
theorem complete_host (s : State) {w : Vector Word 8} (kind : ckind w = 2) (queue seqno reason : Nat) :
    s.complete w queue seqno 1 reason = { s with pkg := { s.pkg with completions := s.pkg.completions
      ++ [⟨w, BitVec.ofNat 36 (queue % 2048 * 65536 + reason % 256 * 256 + 1), BitVec.ofNat 36 (seqno % 2 ^ 36)⟩] } } := by
  have word : at_ queue 16 11 + at_ reason 8 8 + at_ 1 0 8 = queue % 2048 * 65536 + reason % 256 * 256 + 1 := by simp [at_]
  rw [State.complete, if_pos (Or.inr kind), word]

theorem dispatchCopy_judges {c : Copying} (copies : s.pkg.copies = [c]) (line : s.pkg.line = []) :
    (s.now ≤ c.began → exec .dispatchCopy s = .next s)
    ∧ (∀ s2, c.began < s.now → s.rejection c.ctx c.words = (some 0, s2) →
      ∃ t, exec .dispatchCopy s = .next t ∧ t.pkg.copies = []
        ∧ t.pkg.slots = s2.pkg.slots ++ [⟨.packet c.queue c.seqno c.words, 0, 0, none, none⟩]
        ∧ t.pkg.live = s2.pkg.live ++ [⟨c.queue, c.seqno, c.words, c.ctx, lpCount c.words, 0, 0, 0, none⟩])
    ∧ (∀ s2 reason, c.began < s.now → s.rejection c.ctx c.words = (some reason, s2) → reason ≠ 0 → ckind c.words = 2 →
      (s.queue c.queue).packets = [] →
      ∃ t, exec .dispatchCopy s = .next t ∧ t.pkg.copies = [] ∧ t.pkg.slots = s2.pkg.slots
        ∧ t.pkg.completions = s2.pkg.completions
            ++ [⟨c.words, BitVec.ofNat 36 (c.queue % 2048 * 65536 + reason % 256 * 256 + 1), BitVec.ofNat 36 (c.seqno % 2 ^ 36)⟩]) := by
  refine ⟨fun early => ?_, fun s2 late good => ?_, fun s2 reason late bad some_ kind empty => ?_⟩
  · have same := validateCopy_waits early
    rw [dispatchCopy_validates copies (same.symm ▸ line), same]
  · have pkg := (rejection_reads good).pkg
    have takes := validateCopy_takes late good
    refine ⟨_, dispatchCopy_validates copies ?_, ?_⟩
    · rw [takes]
      exact (congrArg Package.line pkg).trans line
    · rw [takes]
      exact ⟨uncopied_copies ((congrArg Package.copies pkg).trans copies), rfl, rfl⟩
  · have pkg := (rejection_reads bad).pkg
    have rejects : s.validateCopy c = (uncopied s2 c).complete c.words c.queue c.seqno 1 reason := by
      rw [validateCopy_rejects late bad some_]
      refine joinLine_of_empty ?_
      rw [complete_host _ kind]
      have same : s2.queue c.queue = s.queue c.queue := congrArg (fun p : Package => sparseGet Queue.init p.queues c.queue) pkg
      exact (congrArg Queue.packets same).trans empty
    rw [complete_host _ kind] at rejects
    refine ⟨_, dispatchCopy_validates copies ?_, ?_⟩
    · rw [rejects]
      exact (congrArg Package.line pkg).trans line
    · rw [rejects]
      exact ⟨uncopied_copies ((congrArg Package.copies pkg).trans copies), rfl, rfl⟩

/-! ## Admission (R256, R257, R396) -/

/-- What setting one core keeps, setting several keeps. -/
theorem onCores_keeps {β : Type} (view : State → β) (keeps : ∀ s n u, view (State.setCore s n u) = view s) (s : State) (f : Core → Core)
    (l : List Nat) : view (s.onCores f l) = view s := by
  induction l generalizing s with
  | nil => rfl
  | cons n l ih => rw [State.onCores, ih, keeps]

/-- Starting sequencers changes sequencers only. -/
theorem startSeqs_keeps {β : Type} (view : State → β) (keeps : ∀ s q v, view (State.setSeq s q v) = view s) (s : State) (r : Region)
    (entry : BitVec 56) (args wid widf : Word) : view (s.startSeqs r entry args wid widf) = view s := by
  unfold State.startSeqs
  exact foldl_keeps view (fun s k => keeps s _ _) _ s

/-- A sequencer that has been started stands at the entry, whichever of the ranks it was started for. -/
theorem foldl_startSeq_pc {r : Region} {entry : BitVec 56} {args wid widf : Word} {p : Nat} (l : List Nat) (s : State)
    (started : p ∈ l.map r.seqOfRank ∨ (s.seq p).pc = entry) :
    ((l.foldl (fun s k => s.setSeq (r.seqOfRank k) (startSeq r k entry args wid widf s.now)) s).seq p).pc = entry := by
  induction l generalizing s with
  | nil => exact started.resolve_left (List.not_mem_nil ·)
  | cons k l ih =>
    rw [List.foldl_cons]
    refine ih _ ?_
    by_cases here : p = r.seqOfRank k
    · right
      rw [here, State.seq_setSeq]
      rfl
    · rw [State.seq_setSeq_other _ _ here]
      exact started.imp_left fun member => (List.mem_cons.mp member).resolve_left here

/-- The owner of a region of at least one core is among its sequencers. -/
theorem owner_mem_seqs {r : Region} (wide : 1 ≤ r.w) (high : 1 ≤ r.h) : r.owner ∈ r.seqs := by
  have tiles : 0 < r.nseq := Nat.mul_pos (by rw [Region.tilesX]; omega) (by rw [Region.tilesY]; omega)
  exact List.mem_map.mpr ⟨0, List.mem_range.mpr tiles, rfl⟩

/-- The region that an admission makes. -/
def admitted (s : State) (die x y q n ctx : Nat) (w : Vector Word 8) : Region :=
  newRegion s.nextRegion die x y (lpW w) (lpH w) ctx q n (max (lpLant w) 1)

/-- The record of a packet of which one more has been admitted. -/
def oneAdmitted (p : LivePacket) : LivePacket := { p with toAdmit := p.toAdmit - 1, running := p.running + 1 }

/-- The state in which a region has been admitted and its sequencers have started, before the record of its packet is changed. -/
def placed (s : State) (r : Region) (w : Vector Word 8) (i : Nat) : State :=
  (State.admitCores { s with regions := s.regions ++ [r], nextRegion := s.nextRegion + 1 } r).startSeqs r (lpEntry w) (lpArgs w)
    (BitVec.ofNat 64 (lpFirst w + i)) (BitVec.ofNat 64 (lpWidf w))

theorem placed_regions (s : State) (r : Region) (w : Vector Word 8) (i : Nat) : (placed s r w i).regions = s.regions ++ [r] :=
  (startSeqs_keeps State.regions (fun _ _ _ => rfl) ..).trans (onCores_keeps State.regions (fun _ _ _ => rfl) ..)

theorem placed_pkg (s : State) (r : Region) (w : Vector Word 8) (i : Nat) : (placed s r w i).pkg = s.pkg :=
  (startSeqs_keeps State.pkg (fun _ _ _ => rfl) ..).trans (onCores_keeps State.pkg (fun _ _ _ => rfl) ..)

theorem placed_pc (s : State) {r : Region} (w : Vector Word 8) (i : Nat) (wide : 1 ≤ r.w) (high : 1 ≤ r.h) :
    ((placed s r w i).seq r.owner).pc = lpEntry w :=
  foldl_startSeq_pc _ _ (.inl (owner_mem_seqs wide high))

/-- An admission places a region, and the record of its packet has one less to admit. -/
theorem admitPacket_places {die x y ctx i : Nat} {p : LivePacket} (found : (s.pkg.live.find? fun p => p.queue == q && p.seqno == n) = some p)
    (of : p.ctx = ctx) :
    s.admitPacket die x y q n w i = (placed s (admitted s die x y q n ctx w) w i).onPacket q n oneAdmitted := by
  obtain rfl := of
  unfold State.admitPacket
  rw [found]
  rfl

/-! ## The round of a die (R346) -/

theorem admitAll_done {cand : Candidate} {die : Nat} (none_ : s.instancesLeft cand = 0) (fuel : Nat) : s.admitAll die cand fuel = (s, cand) := by
  cases fuel with
  | zero => rfl
  | succ fuel => rw [State.admitAll, if_pos none_]

/-- The last admission of a candidate is made where it fits. -/
theorem admitAll_last {cand : Candidate} {die x y : Nat} (some_ : s.instancesLeft cand ≠ 0) (place : s.placeFor die cand.offer = some (x, y))
    (last : (s.admitOne die cand x y).instancesLeft { cand with admitted := cand.admitted + 1, lastAdmit := some (s.now, die) } = 0) (fuel : Nat) :
    s.admitAll die cand (fuel + 1) =
      (s.admitOne die cand x y, { cand with admitted := cand.admitted + 1, lastAdmit := some (s.now, die) }) := by
  rw [State.admitAll, if_neg some_, place]
  exact admitAll_done last fuel

/-- A candidate with nothing left to admit leaves its slot; a queue that holds nothing does not join the line again. -/
theorem putCandidate_done {cand : Candidate} (offer : cand.offer = .packet q n w) (none_ : s.instancesLeft cand = 0)
    (empty : (s.queue q).packets = []) :
    s.putCandidate cand = { s with pkg := { s.pkg with slots := s.pkg.slots.filter fun d => d.offer != cand.offer } } := by
  rw [State.putCandidate, if_pos none_]
  dsimp only
  rw [offer]
  exact joinLine_of_empty empty

/-- Where no candidate is left and no die is reserved, the end of a reservation changes nothing. -/
theorem endReservation_of_none (o : Offer) (slots : s.pkg.slots = []) (reserved : s.pkg.reserved = []) : s.endReservation o = s := by
  have waiting : Package.reservers { s.pkg with reserved := s.pkg.reserved.filter fun r => r.2 != o } = [] := by
    rw [Package.reservers, slots]
    rfl
  rw [State.endReservation]
  dsimp only
  rw [waiting, List.foldl_nil, reserved, List.filter_nil, ← reserved]

/-- A round over one candidate, of which it admits. -/
theorem round_of_one {die : Fin 16} {cand cand' : Candidate} (slots : s.pkg.slots = [cand]) (considers : s.considers die cand = true)
    (admits : s.admitAll die cand 65536 = (s', cand')) (some_ : cand'.admitted - cand.admitted ≠ 0) :
    s.round die = (s'.putCandidate { cand' with reserveOrder := none }).endReservation cand.offer := by
  have order : s.rankOrder s.pkg.slots = [cand] := by rw [slots]; rfl
  have goes : (!s.considers die cand) = false := congrArg not considers
  have result : s.roundOver die [cand] [] =
      ((s'.putCandidate { cand' with reserveOrder := none }).endReservation cand.offer,
        [({ cand' with reserveOrder := none }, cand'.admitted - cand.admitted)]) := by
    rw [State.roundOver, goes, if_neg Bool.false_ne_true, admits]
    dsimp only
    rw [if_neg some_, if_neg some_]
    rfl
  rw [State.round, order, result]
  exact if_pos some_

/-- The candidate of a packet in a slot of its own. -/
def candidateOf (q n : Nat) (w : Vector Word 8) : Candidate := ⟨.packet q n w, 0, 0, none, none⟩

/-- A live packet's record, with what is left to admit and what runs. -/
def recordOf (q n ctx : Nat) (w : Vector Word 8) (left running : Nat) : LivePacket := ⟨q, n, w, ctx, left, running, 0, 0, none⟩

theorem find_record (q n ctx left running : Nat) (w : Vector Word 8) :
    [recordOf q n ctx w left running].find? (fun p => p.queue == q && p.seqno == n) = some (recordOf q n ctx w left running) :=
  List.find?_cons_of_pos (by simp [recordOf])

/-- The only candidate, with one admission left, is admitted where it fits, and its slot is free (R346). -/
theorem round_admits {die : Fin 16} {x y ctx : Nat} (slots : s.pkg.slots = [candidateOf q n w]) (live : s.pkg.live = [recordOf q n ctx w 1 0])
    (reserved : s.pkg.reserved = []) (place : s.placeFor die (.packet q n w) = some (x, y)) (empty : (s.queue q).packets = []) :
    s.round die =
      let t := (placed s (admitted s die x y q n ctx w) w 0).onPacket q n oneAdmitted
      { t with pkg := { t.pkg with slots := [] } } := by
  have found : (s.pkg.live.find? fun p => p.queue == q && p.seqno == n) = some (recordOf q n ctx w 1 0) := live ▸ find_record q n ctx 1 0 w
  have pkg := placed_pkg s (admitted s die x y q n ctx w) w 0
  have one : s.admitOne die (candidateOf q n w) x y = (placed s (admitted s die x y q n ctx w) w 0).onPacket q n oneAdmitted :=
    admitPacket_places found rfl
  have left : s.instancesLeft (candidateOf q n w) = 1 := by
    rw [State.instancesLeft, candidateOf]
    dsimp only
    rw [found]
    rfl
  have considers : s.considers die (candidateOf q n w) = true := by
    rw [State.considers, reserved]
    rfl
  generalize ht : (placed s (admitted s die x y q n ctx w) w 0).onPacket q n oneAdmitted = t at one
  have record : t.pkg = { s.pkg with live := [recordOf q n ctx w 0 1] } := by
    rw [← ht, State.onPacket, pkg, live, List.map_cons, if_pos ⟨rfl, rfl⟩]
    rfl
  have none_ (cand : Candidate) (offer : cand.offer = .packet q n w) : t.instancesLeft cand = 0 := by
    rw [State.instancesLeft, offer]
    dsimp only
    rw [record, find_record]
    rfl
  have admits := admitAll_last (left ▸ Nat.one_ne_zero) place (one ▸ none_ _ rfl) 65535
  have kept : (t.queue q).packets = [] := by
    rw [State.queue, record]
    exact empty
  have emptied : (t.pkg.slots.filter fun d => d.offer != (candidateOf q n w).offer) = [] := by
    rw [record]
    show (s.pkg.slots.filter fun d => d.offer != (candidateOf q n w).offer) = []
    rw [slots, List.filter_cons_of_neg (by simp), List.filter_nil]
  rw [round_of_one slots considers admits Nat.one_ne_zero, one, putCandidate_done rfl (none_ _ rfl) kept]
  dsimp only
  rw [emptied]
  exact endReservation_of_none _ rfl (by rw [record]; exact reserved)

theorem arbitrationRound_admits {die : Fin 16} {later : List (Fin 16)} {x y : Nat} (turn : s.pkg.roundsDue = die :: later)
    (slots : s.pkg.slots = [⟨.packet q n w, 0, 0, none, none⟩]) (live : s.pkg.live = [⟨q, n, w, (s.queue q).ctx, 1, 0, 0, 0, none⟩])
    (reserved : s.pkg.reserved = []) (place : s.placeFor die (.packet q n w) = some (x, y)) (empty : (s.queue q).packets = [])
    (wide : 1 ≤ lpW w) (high : 1 ≤ lpH w) :
    ∃ t, exec (.arbitrationRound die) s = .next t ∧ t.pkg.slots = [] ∧ t.pkg.roundsDue = later
      ∧ t.regions = s.regions ++ [newRegion s.nextRegion die x y (lpW w) (lpH w) (s.queue q).ctx q n (max (lpLant w) 1)]
      ∧ ((t.seq (die * 256 + y / 16 * 16 + x / 16)).pc = lpEntry w) := by
  generalize hu : ({ s with pkg := { s.pkg with roundsDue := later } } : State) = u
  have runs : exec (.arbitrationRound die) s = .next (u.round die) := by
    show execArbitrationRound die s = _
    rw [execArbitrationRound, turn]
    subst hu
    exact if_pos rfl
  have result := round_admits (s := u) (die := die) (x := x) (y := y) (ctx := (s.queue q).ctx) (by subst hu; exact slots) (by subst hu; exact live)
    (by subst hu; exact reserved) (by subst hu; exact place) (by subst hu; exact empty)
  have regions := placed_regions u (admitted u die x y q n (s.queue q).ctx w) w 0
  have pkg := placed_pkg u (admitted u die x y q n (s.queue q).ctx w) w 0
  have pc := placed_pc u (r := admitted u die x y q n (s.queue q).ctx w) w 0 wide high
  rw [result] at runs
  subst hu
  refine ⟨_, runs, rfl, congrArg Package.roundsDue pkg, regions, ?_⟩
  have owner : die.val * 256 + y / 16 * 16 + x / 16 = (admitted s die x y q n (s.queue q).ctx w).owner := by
    simp [Region.owner, Region.seqOfRank, admitted, newRegion, Nat.add_assoc]
  rw [owner]
  exact pc

theorem arbitrationRound_waits {die : Fin 16} (other : s.pkg.roundsDue.head? ≠ some die) : exec (.arbitrationRound die) s = .next s := by
  show execArbitrationRound die s = _
  unfold execArbitrationRound
  split
  · rfl
  · next d rest due =>
    have differs : d ≠ die := fun same => other (by rw [due, same]; rfl)
    exact if_neg differs

theorem packetsMove : PacketsAreAppendedDispatchedAndAdmitted :=
  ⟨fun _ _ _ trained small => queueAppend_appends trained small, fun _ _ _ _ _ _ _ free none_ line => dispatchCopy_takes free none_ line,
    fun _ _ copies line => dispatchCopy_judges copies line,
    fun _ _ _ _ _ _ _ _ turn slots live reserved place empty wide high =>
      arbitrationRound_admits turn slots live reserved place empty wide high,
    fun _ _ other => arbitrationRound_waits other⟩

/-- Settles O50: `launch` and the host append, DISPATCH_COPY takes, judges and offers, and a round admits what fits. -/
theorem packetsAreAppendedDispatchedAndAdmitted : Obligations.PacketsAreAppendedDispatchedAndAdmitted :=
  ⟨launchAppendsThePacket, packetsMove⟩

end Sys2Proof.Claims
end
